-- ==== Sys2Proof/Word.lean ====
section
/-! DEFINITION. The word types of the Toraz architecture (00_scope R3, R4; 05_scalar R120) and the identities
that instructions and state share: threads, queues and links. -/

namespace Sys2Proof

/-- A byte of memory (R4). -/
abbrev Byte := BitVec 8

/-- A 32-bit scalar register or vector lane (03_encoding R66, 02_numbers R31). -/
abbrev Word := BitVec 32

/-- A 64-bit value: an x pair, a generic address or a program counter (R66). -/
abbrev DWord := BitVec 64

/-- A mask triple: lane i is bit i (04_group, "The activity mask"). -/
abbrev Mask := BitVec 96

/-- A control thread: group `gid` of kernel `kern` of partition `part` (04_group R86), or the thread of
system core `k`, numbered 0 to 15 (01_device R16, 22_context R421). -/
inductive ThreadId where
  | grp (part kern gid : Nat)
  | sys (k : Nat)
  deriving DecidableEq, Repr, Inhabited

/-- A queue: an index of the device's queue table (19_queue R355), or the data queue of one core and one
kernel (19_queue R374). -/
inductive QueueId where
  | table (index : Nat)
  | data (part kern core : Nat)
  deriving DecidableEq, Repr, Inhabited

/-- One direction of a link (24_link R443, R445): die boundary `b` (0: dies 0-1, 1: 2-3, 2: 0-2, 3: 1-3),
or coupling `k`; `out` says which of the two directions. -/
inductive LinkId where
  | boundary (b : Nat) (out : Bool)
  | coupling (k : Nat) (out : Bool)
  deriving DecidableEq, Repr, Inhabited

/-- Which engine of a compute core (17_tile R339). -/
inductive EngineSel where
  | copy
  | matrix
  deriving DecidableEq, Repr, Inhabited

/-- What a fetch can raise before any instruction is decoded (03_encoding R56). -/
inductive FetchCause where
  | page (level : Nat)
  | prot (level : Nat)
  | ecc
  deriving DecidableEq, Repr, Inhabited

/-- The n low bytes of a natural number, least significant first (R4). -/
def leBytes : Nat → Nat → List Byte
  | 0, _ => []
  | n + 1, x => BitVec.ofNat 8 x :: leBytes n (x / 256)

/-- The natural number whose bytes are given, least significant first (R4). -/
def ofLeBytes : List Byte → Nat
  | [] => 0
  | b :: bs => b.toNat + 256 * ofLeBytes bs

@[simp] theorem leBytes_length (n x : Nat) : (leBytes n x).length = n := by
  induction n generalizing x with
  | zero => rfl
  | succ n ih => simp [leBytes, ih]

theorem ofLeBytes_leBytes (n x : Nat) : ofLeBytes (leBytes n x) = x % 256 ^ n := by
  induction n generalizing x with
  | zero => simp [leBytes, ofLeBytes, Nat.mod_one]
  | succ n ih =>
    have h : (BitVec.ofNat 8 x).toNat = x % 256 := BitVec.toNat_ofNat ..
    rw [leBytes, ofLeBytes, h, ih, Nat.pow_succ, Nat.mul_comm (256 ^ n) 256, Nat.mod_mul]

end Sys2Proof
end

