-- ==== Sys2Proof/Config.lean ====
section
/-! DEFINITION. What is fixed for the device, and the FREE VALUES: constants with no body, of which nothing can
be proved beyond their type. Each free value is named in the assumption log. -/

namespace Sys2Proof.Config

/-- Numbers of the package (01_device R16, R17, R23; 24_link R445, R449; 13_scope R270). -/
def computeCores : Nat := 384
def coresPerDie : Nat := 96
def systemCores : Nat := 16
def slotsPerDie : Nat := 48
def tokensPerLine : Nat := 512
def lineBytes : Nat := 128

/-- FREE VALUE (log 9): the n-th draw of the hardware random source (13_scope R271, R286; 19_queue R357).
The rule that a code is nonzero and differs from the previous one is kept by the operation that draws. -/
opaque randomCode : Nat → BitVec 24

/-- FREE VALUE (log 10): a choice among alternatives that the spec leaves open, such as the recorded holder
that a home asks for one token (10_line R222). -/
opaque pick : Nat → Nat

/-- FREE VALUE (log 11): a value that an instruction produces and that the spec does not state. -/
opaque freeWord : Nat → Word

/-- FREE VALUES (log 12): the parts of an image that the checks of 22_context R432 take: its header and payload, its public key, its
signature and its version. The spec does not give the image's layout. -/
opaque imageCovered : List Byte → List Byte
opaque imageKey : List Byte → List Byte
opaque imageSignature : List Byte → List Byte
opaque imageVersion : List Byte → Nat

/-- FREE VALUE (log 12): where the verified image's program begins (R432, R419). -/
opaque imageEntry : List Byte → DWord

/-- FREE VALUE (log 53): the payload of the n-th flit; R442 gives its 220 bits and not what they hold. -/
opaque flitPayload : Nat → BitVec 220

/-- FREE VALUE (log 59): PFC was negotiated with the peer of a port half, else PAUSE is sent (24_link R454). -/
opaque pfcNegotiated : Nat → Bool

end Sys2Proof.Config
end

