-- ==== Sys2Proof/Syntax.lean ====
section
/-! DEFINITION. The syntax: the decoded fields of an instruction word (03_encoding R54, R59..R65) and `Instr`, one
constructor per row of spec/opcode_table.json. The first 204 rows are encoded instructions: each carries its decoded
fields. The other 105 rows are the part's hardware steps (95_what_each_step_holds): each carries the objects it
acts on and, where the world outside the machine supplies something (a frame, a temperature, a flit), that datum. -/

namespace Sys2Proof

/-- The lengths that LEN selects (R54): 64, 96 or 128 bits. -/
inductive Len where
  | w64
  | w96
  | w128
  deriving DecidableEq, Repr, Inhabited

/-- The slot an instruction takes in the instruction stream, in bytes (R54). -/
def Len.slot : Len → Nat
  | .w64 => 8
  | .w96 => 16
  | .w128 => 16

/-- The decoded fields of one instruction (R59). `d`, `a`, `b`, `c` are operand codes of R66; what class a code
has is fixed by the instruction. `imm` is bits [127:64]: IMM32 zero-extended in the 96-bit form (R60), IMM64 or the
extended engine fields in the 128-bit form (R61), 0 in the 64-bit form. -/
structure Fields where
  len : Len := .w64
  fn : BitVec 4 := 0
  ch : Bool := false
  nd : Bool := false
  d : BitVec 8 := 0
  a : BitVec 8 := 0
  b : BitVec 8 := 0
  c : BitVec 8 := 0
  ty : BitVec 4 := 0
  mo : BitVec 4 := 0
  ax : BitVec 8 := 0
  imm : BitVec 64 := 0
  deriving DecidableEq, Repr, Inhabited

namespace Fields

/-- IMM32, bits [95:64] (R60). -/
def imm32 (f : Fields) : Word := f.imm.extractLsb' 0 32
/-- EA, bits [71:64] of a 128-bit engine form (R61). -/
def ea (f : Fields) : BitVec 8 := f.imm.extractLsb' 0 8
/-- EB, bits [79:72] (R61). -/
def eb (f : Fields) : BitVec 8 := f.imm.extractLsb' 8 8
/-- EC, bits [87:80] (R61). -/
def ec (f : Fields) : BitVec 8 := f.imm.extractLsb' 16 8
/-- ED, bits [95:88] (R61). -/
def ed (f : Fields) : BitVec 8 := f.imm.extractLsb' 24 8
/-- EI, bits [127:96] (R61). -/
def ei (f : Fields) : Word := f.imm.extractLsb' 32 32

end Fields

/-- The measured quantities that a housekeeping sample writes (25_housekeeping R457, R459): energies in µJ drawn
since the last sample (`partEnergy` by the rails of the partition's cores and the accesses to its pages, `dieEnergy` by each die's
mesh, L2 and links), powers in mW, temperatures in 1/16 °C, process-monitor counts, channel capacities. They come
from the sensors, which are outside the machine. -/
structure Reading where
  partEnergy : Nat := 0
  packageEnergy : Nat := 0
  dieEnergy : List Nat := []
  packagePower : Nat := 0
  modulePower : Nat := 0
  coreTemp : List Int := []
  processMonitor : List Nat := []
  dieTemp : List Int := []
  stackTemp : List Int := []
  channels : List Nat := []
  deriving DecidableEq, Repr, Inhabited

/-- The instructions and steps of the part: one constructor per row of spec/opcode_table.json: the encoded
instructions, then the steps that the part itself sets going, then those that time or the world outside brings. -/
inductive Instr where
  /-- `NOP` (R111): No operation; only the program counter advances, and with CH = 1 it counts as a chain member. -/
  | nop (f : Fields)
  /-- `BR` (R112): Unconditional relative branch by the signed IMM32 displacement. -/
  | br (f : Fields)
  /-- `BZ` (R112): Relative branch taken when s[A] is zero. -/
  | bz (f : Fields)
  /-- `BNZ` (R112): Relative branch taken when s[A] is nonzero. -/
  | bnz (f : Fields)
  /-- `BC` (R112): Relative branch taken when the typed condition holds between s[A] and s[B]. -/
  | bc (f : Fields)
  /-- `CALL` (R113): Call to a relative label; the return address is written to x[D]. -/
  | call (f : Fields)
  /-- `CALL_REG` (R113): Call to the register target x[A] after the alignment check; the return address is written to x[D]. -/
  | callReg (f : Fields)
  /-- `RET` (R113): Jump to the aligned address held in x[A], popping the return-address predictor. -/
  | ret (f : Fields)
  /-- `JMPI` (R113): Jump to x[A], plus an IMM32 offset in the 96-bit form, after the alignment check. -/
  | jmpi (f : Fields)
  /-- `BMZ` (R114): Branch when every bit of the mask triple is 0. -/
  | bmz (f : Fields)
  /-- `BMNZ` (R114): Branch when any bit of the mask triple is 1. -/
  | bmnz (f : Fields)
  /-- `MIF` (R99): Pushes an IF token and restricts the activity mask to the condition lanes. -/
  | mif (f : Fields)
  /-- `MELSE` (R99): Switches the mask to the else lanes and turns the IF token into an ELSE token. -/
  | melse (f : Fields)
  /-- `MEND` (R99): Closes an IF or ELSE token, or continues or exits a LOOP token. -/
  | mend (f : Fields)
  /-- `MLOOP` (R99): Pushes a LOOP token whose head is the next instruction. -/
  | mloop (f : Fields)
  /-- `MBRK` (R99): Removes the named lanes from the mask and from the tokens above the nearest LOOP token. -/
  | mbrk (f : Fields)
  /-- `MCONT` (R99): Acts as mbrk and also adds the lanes to the continue set of the nearest LOOP token. -/
  | mcont (f : Fields)
  /-- `MPUSH` (R99): Pushes a SAVE token and sets the mask to the named triple ANDed with the launched lanes. -/
  | mpush (f : Fields)
  /-- `MPOP` (R99): Restores the mask from the SAVE token on top and pops it. -/
  | mpop (f : Fields)
  /-- `WAITC` (R116): Waits until the selected memory counter, or both counters, are at or below n. -/
  | waitc (f : Fields)
  /-- `YIELD` (R117): Ends the group's turn; round-robin selection resumes after it. -/
  | yield (f : Fields)
  /-- `SLEEP` (R117): Stalls the group for a count of core cycles. -/
  | sleep (f : Fields)
  /-- `DONE` (R118): Starts the group's drain toward RETIRED. -/
  | done (f : Fields)
  /-- `TRAP` (R119): Raises SWTRAP with the 8-bit code from AX. -/
  | trap (f : Fields)
  /-- `BRKPT` (R119): Raises BREAK. -/
  | brkpt (f : Fields)
  /-- `SADD` (R123): Scalar add modulo 2^W. -/
  | sadd (f : Fields)
  /-- `SSUB` (R123): Scalar subtract modulo 2^W. -/
  | ssub (f : Fields)
  /-- `SMUL` (R123): Scalar multiply, keeping the low W bits. -/
  | smul (f : Fields)
  /-- `SMULH` (R123): Scalar multiply, keeping the high W bits of the exact product. -/
  | smulh (f : Fields)
  /-- `SDIV` (R124): Scalar division rounded toward zero, with the division-by-zero and overflow cases fixed. -/
  | sdiv (f : Fields)
  /-- `SREM` (R124): Scalar remainder taking the sign of the dividend, with the fixed cases. -/
  | srem (f : Fields)
  /-- `SAND` (R123): Scalar bitwise and. -/
  | sand (f : Fields)
  /-- `SOR` (R123): Scalar bitwise or. -/
  | sor (f : Fields)
  /-- `SXOR` (R123): Scalar bitwise exclusive or. -/
  | sxor (f : Fields)
  /-- `SANDN` (R123): Scalar a and not b. -/
  | sandn (f : Fields)
  /-- `SSHL` (R123): Scalar shift left by the count modulo W. -/
  | sshl (f : Fields)
  /-- `SSHR` (R123): Scalar logical shift right. -/
  | sshr (f : Fields)
  /-- `SSRA` (R123): Scalar arithmetic shift right. -/
  | ssra (f : Fields)
  /-- `SROT` (R123): Scalar rotate right. -/
  | srot (f : Fields)
  /-- `SMIN` (R123): Scalar minimum by type. -/
  | smin (f : Fields)
  /-- `SMAX` (R123): Scalar maximum by type. -/
  | smax (f : Fields)
  /-- `SCLZ` (R125): Counts the leading zero bits. -/
  | sclz (f : Fields)
  /-- `SPOPC` (R125): Counts the 1 bits. -/
  | spopc (f : Fields)
  /-- `SBREV` (R125): Reverses the bit order. -/
  | sbrev (f : Fields)
  /-- `SBFX` (R126): Extracts a bit field. -/
  | sbfx (f : Fields)
  /-- `SBFI` (R126): Inserts a bit field into C. -/
  | sbfi (f : Fields)
  /-- `SSEL` (R127): Selects a or b according to s[C]. -/
  | ssel (f : Fields)
  /-- `SCMP` (R127): Writes 1 or 0 by the condition. -/
  | scmp (f : Fields)
  /-- `SMOV` (R128): Copies a scalar register or pair, with extension by type. -/
  | smov (f : Fields)
  /-- `SLI` (R129): Loads an immediate constant. -/
  | sli (f : Fields)
  /-- `SLEA` (R130): Forms a 64-bit scaled address without making any access. -/
  | slea (f : Fields)
  /-- `SFADD` (R132): f32 add with one rounding. -/
  | sfadd (f : Fields)
  /-- `SFSUB` (R132): f32 subtract with one rounding. -/
  | sfsub (f : Fields)
  /-- `SFMUL` (R132): f32 multiply with one rounding. -/
  | sfmul (f : Fields)
  /-- `SFFMA` (R132): f32 fused multiply-add with one rounding. -/
  | sffma (f : Fields)
  /-- `SFMIN` (R133): f32 minimum, with −0 ordered below +0 and NaN operands handled. -/
  | sfmin (f : Fields)
  /-- `SFMAX` (R133): f32 maximum, with −0 ordered below +0 and NaN operands handled. -/
  | sfmax (f : Fields)
  /-- `SFCMP` (R134): f32 compare, writing 1 or 0. -/
  | sfcmp (f : Fields)
  /-- `SFCVT` (R135): Scalar conversion between integer, bf16 and f32 types. -/
  | sfcvt (f : Fields)
  /-- `SFSQRT` (R134): Correctly rounded f32 square root. -/
  | sfsqrt (f : Fields)
  /-- `SRD` (R138): Reads a per-group system register. -/
  | srd (f : Fields)
  /-- `SWR` (R138): Writes a per-group system register, field by field under its access codes. -/
  | swr (f : Fields)
  /-- `SGTIME` (R139): Reads the global timebase, never returning a value below the group's previous read. -/
  | sgtime (f : Fields)
  /-- `SRND` (R140): Writes a counter-keyed random word. -/
  | srnd (f : Fields)
  /-- `SMCNT` (R141): Counts the set lanes of a triple, or finds the lowest set lane. -/
  | smcnt (f : Fields)
  /-- `VADD` (R145): Element-wise integer add. -/
  | vadd (f : Fields)
  /-- `VSUB` (R145): Element-wise integer subtract. -/
  | vsub (f : Fields)
  /-- `VMUL` (R145): Element-wise integer multiply. -/
  | vmul (f : Fields)
  /-- `VMULH` (R145): Element-wise high half of the exact product. -/
  | vmulh (f : Fields)
  /-- `VMAD` (R145): Element-wise a·b + c, reduced once. -/
  | vmad (f : Fields)
  /-- `VAND` (R145): Element-wise and. -/
  | vand (f : Fields)
  /-- `VOR` (R145): Element-wise or. -/
  | vor (f : Fields)
  /-- `VXOR` (R145): Element-wise exclusive or. -/
  | vxor (f : Fields)
  /-- `VANDN` (R145): Element-wise a and not b. -/
  | vandn (f : Fields)
  /-- `VSHL` (R145): Element-wise shift left. -/
  | vshl (f : Fields)
  /-- `VSHR` (R145): Element-wise logical shift right. -/
  | vshr (f : Fields)
  /-- `VSRA` (R145): Element-wise arithmetic shift right. -/
  | vsra (f : Fields)
  /-- `VMIN` (R145): Element-wise minimum. -/
  | vmin (f : Fields)
  /-- `VMAX` (R145): Element-wise maximum. -/
  | vmax (f : Fields)
  /-- `VABS` (R145): Element-wise absolute value. -/
  | vabs (f : Fields)
  /-- `VCLZ` (R145): Element-wise count of leading zero bits. -/
  | vclz (f : Fields)
  /-- `VPOPC` (R145): Element-wise count of 1 bits. -/
  | vpopc (f : Fields)
  /-- `VBFX` (R146): Per-lane bit-field extract. -/
  | vbfx (f : Fields)
  /-- `VSEL` (R147): Per-lane select by a mask triple. -/
  | vsel (f : Fields)
  /-- `VCMP` (R148): Per-lane integer compare into a mask triple. -/
  | vcmp (f : Fields)
  /-- `VMOV` (R150): Copies the active lanes, with an optional retag. -/
  | vmov (f : Fields)
  /-- `VLID` (R149): Writes the lane index plus a scalar to each active lane. -/
  | vlid (f : Fields)
  /-- `VBC` (R149): Broadcasts a scalar to the active lanes. -/
  | vbc (f : Fields)
  /-- `VGET` (R151): Reads one lane into a scalar. -/
  | vget (f : Fields)
  /-- `VPUT` (R151): Writes a scalar into one lane. -/
  | vput (f : Fields)
  /-- `VPERM` (R153): Per-lane permutation by indices held in a register. -/
  | vperm (f : Fields)
  /-- `VSHUF` (R153): Rotate, up, down or butterfly shuffle of the lanes. -/
  | vshuf (f : Fields)
  /-- `VRED` (R155): Fixed-tree reduction of the lanes into a scalar. -/
  | vred (f : Fields)
  /-- `VSCAN` (R156): Inclusive or exclusive scan in lane order. -/
  | vscan (f : Fields)
  /-- `VHIST` (R157): Counts values into per-lane saturating bins. -/
  | vhist (f : Fields)
  /-- `VBINM` (R158): Merges the bins of all lanes into lanes of D. -/
  | vbinm (f : Fields)
  /-- `VCX` (R159): One compare-exchange stage of a sorting network. -/
  | vcx (f : Fields)
  /-- `VRND` (R160): Per-lane counter-keyed random words. -/
  | vrnd (f : Fields)
  /-- `VFADD` (R165): Float add, f32 or bf16 pairs. -/
  | vfadd (f : Fields)
  /-- `VFSUB` (R165): Float subtract. -/
  | vfsub (f : Fields)
  /-- `VFMUL` (R165): Float multiply. -/
  | vfmul (f : Fields)
  /-- `VFFMA` (R165): Float fused multiply-add. -/
  | vffma (f : Fields)
  /-- `VFDIV` (R168): Correctly rounded f32 division, with the special cases fixed. -/
  | vfdiv (f : Fields)
  /-- `VFSQRT` (R167): Correctly rounded square root. -/
  | vfsqrt (f : Fields)
  /-- `VFMIN` (R166): Float minimum. -/
  | vfmin (f : Fields)
  /-- `VFMAX` (R166): Float maximum. -/
  | vfmax (f : Fields)
  /-- `VFABS` (R166): Clears the sign bit of each element. -/
  | vfabs (f : Fields)
  /-- `VFNEG` (R166): Inverts the sign bit of each element. -/
  | vfneg (f : Fields)
  /-- `VFCMP` (R169): Float compare into a mask triple. -/
  | vfcmp (f : Fields)
  /-- `VFCLASS` (R170): Writes a one-hot class word per lane. -/
  | vfclass (f : Fields)
  /-- `VFRCP` (R167): Correctly rounded reciprocal. -/
  | vfrcp (f : Fields)
  /-- `VFRSQ` (R167): Correctly rounded reciprocal square root. -/
  | vfrsq (f : Fields)
  /-- `VFEXP2` (R167): Correctly rounded 2^x. -/
  | vfexp2 (f : Fields)
  /-- `VFLOG2` (R167): Correctly rounded log2. -/
  | vflog2 (f : Fields)
  /-- `VFSIN` (R167): Correctly rounded sine. -/
  | vfsin (f : Fields)
  /-- `VFCOS` (R167): Correctly rounded cosine. -/
  | vfcos (f : Fields)
  /-- `VFTANH` (R167): Correctly rounded tanh. -/
  | vftanh (f : Fields)
  /-- `VFERF` (R167): Correctly rounded erf. -/
  | vferf (f : Fields)
  /-- `VCVT` (R171): Converts lane elements between types, with parts. -/
  | vcvt (f : Fields)
  /-- `VBFMA` (R173): Fused bf16-pair dot product into f32. -/
  | vbfma (f : Fields)
  /-- `VQ4S` (R174): Chooses the Q4 scales of three blocks. -/
  | vq4s (f : Fields)
  /-- `VQ4P` (R176): Packs f32 values into Q4 codes. -/
  | vq4p (f : Fields)
  /-- `VQ4X` (R179): Expands Q4 codes to f32 or bf16. -/
  | vq4x (f : Fields)
  /-- `MSET` (R192): Forms moment pairs from two vector registers. -/
  | mset (f : Fields)
  /-- `MCOLL` (R193): Collapses moment pairs into mean and variance registers. -/
  | mcoll (f : Fields)
  /-- `MSAMP` (R194): Draws samples sigma·z + mu. -/
  | msamp (f : Fields)
  /-- `MADD` (R195): Moment add under a covariance mode. -/
  | madd (f : Fields)
  /-- `MSUB` (R195): Moment subtract under a covariance mode. -/
  | msub (f : Fields)
  /-- `MMUL` (R196): Moment multiply under a covariance mode. -/
  | mmul (f : Fields)
  /-- `MFMA` (R197): Unfused moment multiply then add. -/
  | mfma (f : Fields)
  /-- `MSCL` (R198): Scales a moment by a deterministic value. -/
  | mscl (f : Fields)
  /-- `MRELU` (R200): Moment rectifier. -/
  | mrelu (f : Fields)
  /-- `MEXP` (R201): Moment exponential. -/
  | mexp (f : Fields)
  /-- `MSIG` (R202): Moment logistic. -/
  | msig (f : Fields)
  /-- `MTANH` (R203): Moment tanh through the logistic. -/
  | mtanh (f : Fields)
  /-- `MLD` (R205): Loads moment pairs from memory. -/
  | mld (f : Fields)
  /-- `MST` (R206): Stores moment pairs to memory. -/
  | mst (f : Fields)
  /-- `MMOV` (R207): Copies moment pairs. -/
  | mmov (f : Fields)
  /-- `MCFG_MCR` (R208): Writes MCR[7:0] from AX. -/
  | mcfgMcr (f : Fields)
  /-- `MCFG_MRHO` (R208): Writes MRHO from IMM32 under the clamping of R187. -/
  | mcfgMrho (f : Fields)
  /-- `VLD` (R253): Vector load of 4 bytes per active lane. -/
  | vld (f : Fields)
  /-- `VLDU` (R253): Loads one word into every active lane. -/
  | vldu (f : Fields)
  /-- `VST` (R253): Vector store of 4 bytes per active lane. -/
  | vst (f : Fields)
  /-- `VATM` (R257): Per-lane atomic read-modify-write in ascending lane order. -/
  | vatm (f : Fields)
  /-- `VMRED` (R258): Per-lane memory-side reduction. -/
  | vmred (f : Fields)
  /-- `VFLD` (R261): Vector future load, reporting the refused lanes. -/
  | vfld (f : Fields)
  /-- `VFST` (R262): Vector future fill. -/
  | vfst (f : Fields)
  /-- `SLD` (R254): Scalar load. -/
  | sld (f : Fields)
  /-- `SST` (R254): Scalar store. -/
  | sst (f : Fields)
  /-- `SATM` (R256): Scalar atomic read-modify-write. -/
  | satm (f : Fields)
  /-- `SMRED` (R258): Scalar memory-side reduction. -/
  | smred (f : Fields)
  /-- `SFLD` (R261): Scalar future load. -/
  | sfld (f : Fields)
  /-- `SFST` (R262): Scalar future fill. -/
  | sfst (f : Fields)
  /-- `SRSV` (R264): Own load that records a reservation. -/
  | srsv (f : Fields)
  /-- `SCND` (R264): Conditional store on an unbroken reservation. -/
  | scnd (f : Fields)
  /-- `BSET` (R252): Translates a generic address into a base register. -/
  | bset (f : Fields)
  /-- `BSET_CLU` (R252): Binds a base register to the cluster-shared window named by a scope handle. -/
  | bsetClu (f : Fields)
  /-- `BINV` (R252): Invalidates one base register. -/
  | binv (f : Fields)
  /-- `BINV_ALL` (R252): Invalidates all eight base registers. -/
  | binvAll (f : Fields)
  /-- `FENCE` (R265): Orders the group's accesses by acquire, release or both, with no access of its own. -/
  | fence (f : Fields)
  /-- `CWB` (R267): Returns a dirty copy of the line to its home. -/
  | cwb (f : Fields)
  /-- `CINV` (R267): Gives up the core's copy of the line. -/
  | cinv (f : Fields)
  /-- `CP` (R343): Strided copy joining the open carriage. -/
  | cp (f : Fields)
  /-- `CPQ` (R344): Q4 decompression to bf16 joining the open carriage. -/
  | cpq (f : Fields)
  /-- `CPG` (R345): Row gather joining the open carriage. -/
  | cpg (f : Fields)
  /-- `SEAL` (R333): Seals the open carriage into a token register. -/
  | seal (f : Fields)
  /-- `TMMA` (R348): bf16 matrix multiply-accumulate into a tile. -/
  | tmma (f : Fields)
  /-- `TMMAG` (R348): Row-gathered matrix multiply-accumulate into a tile. -/
  | tmmag (f : Fields)
  /-- `TZERO` (R350): Zeroes a tile or a tile pair. -/
  | tzero (f : Fields)
  /-- `TLD` (R351): Loads a tile or pair from the scratchpad. -/
  | tld (f : Fields)
  /-- `TST` (R351): Stores a tile or pair to the scratchpad. -/
  | tst (f : Fields)
  /-- `TMAM` (R210): Moment matrix multiply with B deterministic. -/
  | tmam (f : Fields)
  /-- `TMAMM` (R210): Moment matrix multiply with both operands uncertain. -/
  | tmamm (f : Fields)
  /-- `SCGET` (R290): Makes a scope handle. -/
  | scget (f : Fields)
  /-- `SCQ` (R291): Queries the membership or state of a scope handle. -/
  | scq (f : Fields)
  /-- `SCFRZ` (R292): Pins a cluster slot with a frozen entry. -/
  | scfrz (f : Fields)
  /-- `SCTHAW` (R293): Lowers or removes a frozen entry. -/
  | scthaw (f : Fields)
  /-- `BAR` (R326): Arrives at a team barrier and waits for the leave. -/
  | bar (f : Fields)
  /-- `BARV` (R326): Arrives at a team barrier without waiting. -/
  | barv (f : Fields)
  /-- `BARW` (R327): Waits for the phase that barv entered, then leaves. -/
  | barw (f : Fields)
  /-- `TMQ` (R328): Team query. -/
  | tmq (f : Fields)
  /-- `QPUSH` (R371): Pushes a cart into a queue. -/
  | qpush (f : Fields)
  /-- `QPOP` (R372): Pops a cart from a queue, the stage queue or the data queue. -/
  | qpop (f : Fields)
  /-- `QDONE` (R373): Releases the held stream. -/
  | qdone (f : Fields)
  /-- `QSPAWN` (R374): Pushes a cart to the data queue of the core near an address. -/
  | qspawn (f : Fields)
  /-- `QJOIN` (R375): Decrements a join record and pushes its successor at zero. -/
  | qjoin (f : Fields)
  /-- `QSTAT` (R376): Queries a queue. -/
  | qstat (f : Fields)
  /-- `KLAUNCH` (R397): Launches a kernel descriptor. -/
  | klaunch (f : Fields)
  /-- `DEPART` (R397): Launches a kernel at a global time. -/
  | depart (f : Fields)
  /-- `DTBEG` (R398): Opens a deterministic block. -/
  | dtbeg (f : Fields)
  /-- `DTEND` (R398): Closes a deterministic block. -/
  | dtend (f : Fields)
  /-- `SYSC_RESUME` (R427): Answers a trap ticket with resume. -/
  | syscResume (f : Fields)
  /-- `SYSC_SKIP` (R427): Answers a trap ticket with skip. -/
  | syscSkip (f : Fields)
  /-- `SYSC_ABANDON` (R427): Answers a trap ticket with abandon. -/
  | syscAbandon (f : Fields)
  /-- `SYSC_CALL` (R435): System call that enters the next privilege mode. -/
  | syscCall (f : Fields)
  /-- `ERET` (R436): Returns from a trap on a system core. -/
  | eret (f : Fields)
  /-- `SRDP` (R437): Reads a privileged register. -/
  | srdp (f : Fields)
  /-- `SWRP` (R437): Writes a privileged register that has no row of its own. -/
  | swrp (f : Fields)
  /-- `TLBI_VA` (R409): Invalidates the translations of one page in a context. -/
  | tlbiVa (f : Fields)
  /-- `TLBI_CTX` (R409): Invalidates every translation of a context. -/
  | tlbiCtx (f : Fields)
  /-- `TLBI_ALL` (R409): Invalidates every translation of the partition. -/
  | tlbiAll (f : Fields)
  /-- `CTXS` (R438): Requests pre-emption of a group and completes once it is SAVED. -/
  | ctxs (f : Fields)
  /-- `CTXR` (R438): Restores a saved group on a named core. -/
  | ctxr (f : Fields)
  /-- `IDLE` (R439): Stalls a system core until a cart or a time arrives. -/
  | idle (f : Fields)
  /-- `UNASSIGNED_OPCODE` (R78): An instruction word with an unassigned opcode, or with LEN 11, is decoded and raises ILLEGAL at its first byte. -/
  | unassignedOpcode (op : BitVec 8) (len : BitVec 2)
  /-- `FETCH_FAULT` (R56): The fetch of an aligned 32-byte block takes a page fault, a protection fault or an uncorrectable soft error, raising PAGE, PROT or ECC before any instruction is decoded. -/
  | fetchFault (cause : FetchCause)
  /-- `PENDING_WRITE_COMPLETE` (R103): A pending register write completes and frees the group's scoreboard. -/
  | pendingWriteComplete (th : ThreadId) (tag : Nat)
  /-- `LOAD_COMPLETE` (R106): Every lane's returned value is written and LC falls by 1. -/
  | loadComplete (acc : Nat)
  /-- `STORE_PERFORMED` (R106): Every lane's write is performed at its required point and SC falls by 1. -/
  | storePerformed (acc : Nat)
  /-- `DRAINED` (R118): A done drain completes and the group becomes RETIRED. -/
  | drained (th : ThreadId)
  /-- `PREEMPT_SAVE` (R428): Once drained, the group's state is written to the save area and the group becomes SAVED. -/
  | preemptSave (th : ThreadId)
  /-- `HOME_TOKEN_REQUEST` (R222): Home serves a transient request for one token. -/
  | homeTokenRequest (acc line : Nat)
  /-- `HOME_ALL_TOKEN_REQUEST` (R222): Home serves a request for all tokens. -/
  | homeAllTokenRequest (acc line : Nat)
  /-- `HOME_PERSISTENT_REQUEST` (R223): A persistent request arrives at home and waits for activation. -/
  | homePersistentRequest (acc line : Nat)
  /-- `PERSISTENT_COMPLETION` (R223): A requester's completion arrives and home activates the next persistent request in rotation. -/
  | persistentCompletion (core line : Nat)
  /-- `PERSISTENT_FORWARD` (R223): A holder forwards every token it receives to the active persistent requester. -/
  | persistentForward (core line : Nat)
  /-- `HOME_SIS_LOAD` (R229): Home grants a lease for an sis miss. -/
  | homeSisLoad (acc line : Nat)
  /-- `HOME_WT_LOAD` (R216): Home reads the bytes for a wt load. -/
  | homeWtLoad (acc line : Nat)
  /-- `HOME_WRITE` (R231): Home performs a write or operation, stamps the line and invalidates clean holders. -/
  | homeWrite (acc lane : Nat)
  /-- `HOLDER_RECALL` (R227): A holder answers a recall after any atomic in progress completes. -/
  | holderRecall (core line : Nat)
  /-- `HOLDER_TOKEN_ASK` (R242): A holder sends the tokens that home asks for. -/
  | holderTokenAsk (core line count requester : Nat)
  /-- `TOKEN_RETURN` (R243): Returned tokens and any dirty data reach home, which stamps and updates the entry. -/
  | tokenReturn (msg : Nat)
  /-- `FORWARDED_MERGE` (R239): An owner merges a forwarded write into its copy and acknowledges. -/
  | forwardedMerge (acc lane owner : Nat)
  /-- `FORWARDED_SIS_READ` (R240): An owner answers a forwarded sis read. -/
  | forwardedSisRead (acc line owner : Nat)
  /-- `FORWARDED_WT_READ` (R240): An owner returns its bytes for a wt read. -/
  | forwardedWtRead (acc line owner : Nat)
  /-- `REDUCTION_REQUEST` (R259): A slice applies a reduction once, or re-acknowledges it through the replay filter. -/
  | reductionRequest (acc lane : Nat)
  /-- `REDUCTION_ACK_CONFIRM` (R259): The issuer confirms an acknowledgement and the entry leaves the replay filter. -/
  | reductionAckConfirm (acc lane : Nat)
  /-- `FUTURE_LOAD_REQUEST` (R261): A slice answers a future read, defers it, or refuses it. -/
  | futureLoadRequest (acc word : Nat)
  /-- `FUTURE_FILL` (R262): A slice fills a future word and answers its deferred requests. -/
  | futureFill (acc lane : Nat)
  /-- `TICKET_PERFORM` (R391): The ticket unit performs a staged entry of block CT at home under wt. -/
  | ticketPerform (part kern : Nat)
  /-- `REGROUP_PROMOTION` (R278): The affected cores' writes are acknowledged, cluster releases are promoted and windows migrate. -/
  | regroupPromotion (die : Nat)
  /-- `REGROUP_EVENT_END` (R278): New codes and members take effect, and the affected cores resume. -/
  | regroupEventEnd (die : Nat)
  /-- `BARRIER_ARRIVAL` (R316): An arrival reaches the barrier and is counted or rejected. -/
  | barrierArrival (th : ThreadId) (team : Nat)
  /-- `BARRIER_RETIREMENT` (R316): A member that has not arrived retires and is counted as arrived. -/
  | barrierRetirement (th : ThreadId) (team : Nat)
  /-- `BARRIER_LEAVE` (R316): The barrier completes its phase and sends the leaves. -/
  | barrierLeave (part kern team : Nat)
  /-- `ENGINE_OP_START` (R339): An engine takes an operation from its queue once its dependencies allow. -/
  | engineOpStart (core : Nat) (engine : EngineSel)
  /-- `ENGINE_OP_COMPLETE` (R340): An engine operation completes, and any tile changes all at once. -/
  | engineOpComplete (core : Nat) (engine : EngineSel)
  /-- `CARRIAGE_COMPLETE` (R333): Hardware writes the carriage status into the token register. -/
  | carriageComplete (th : ThreadId) (serial : Nat)
  /-- `LAUNCH_ACCEPT` (R380): The launch unit checks, places and accepts or refuses a launch. -/
  | launchAccept (part : Nat)
  /-- `KERNEL_END` (R388): All groups have retired; resources are freed and the completion record is written. -/
  | kernelEnd (part kern : Nat)
  /-- `MOVE_COMPLETE` (R412): A page's copy completes, its leaf is rewritten and BUSY clears. -/
  | moveComplete (part : Nat)
  /-- `BANKROLE_EFFECT` (R331): Changed bank groups are zeroed and the new BANKROLE takes effect. -/
  | bankroleEffect (part : Nat)
  /-- `PACKAGE_RESET` (R474): Package reset clears clocks and directories and runs the boot ROM. -/
  | packageReset
  /-- `TRAP_CART_RETRY` (R425): A refused trap-cart push is retried every 4096 mesh cycles. -/
  | trapCartRetry (th : ThreadId)
  /-- `SLEEP_EXPIRY` (R117): A sleep's count of core cycles runs out. -/
  | sleepExpiry (th : ThreadId)
  /-- `ENGINE_DRAIN_TIMEOUT` (R346): After 10 µs the engine operations still running are cancelled and recorded. -/
  | engineDrainTimeout (th : ThreadId)
  /-- `LCLK_TICK` (R228): The core's logical clock advances by one tick after LCLKPER core cycles. -/
  | lclkTick (core : Nat)
  /-- `PLT_DISTRIBUTION` (R235): The partition logical reference is distributed, raising NW and pulling up lagging clocks. -/
  | pltDistribution (part : Nat)
  /-- `CORE_POWER_GATE` (R236): A core discards its leases, returns its tokens, writes back dirty lines and gates. -/
  | corePowerGate (core : Nat)
  /-- `CORE_WAKE` (R236): A gated core wakes and its clock is pulled up. -/
  | coreWake (core : Nat)
  /-- `TRANSIENT_REQUEST_FAIL` (R222): A transient request fails on timeout or RETRY and is retried, going persistent after four failures. -/
  | transientRequestFail (acc line : Nat)
  /-- `LINE_EVICTION` (R242): A core evicts a line copy, returning its tokens and any dirty data. -/
  | lineEviction (core line : Nat)
  /-- `REDUCTION_REPLAY_TIMEOUT` (R259): A reduction with no acknowledgement within 2^16 mesh cycles is replayed. -/
  | reductionReplayTimeout (acc lane : Nat)
  /-- `DETSTALL_TIMEOUT` (R394): A staging stall of 2^24 core cycles raises DETSTALL. -/
  | detstallTimeout (th : ThreadId)
  /-- `SHARING_WINDOW_END` (R274): At a window's end the regroup engine forms proposals and may start a regroup event. -/
  | sharingWindowEnd (parts : List Nat)
  /-- `QCMD_CREATE` (R360): Creates a queue from its descriptor with a new check code. -/
  | qcmdCreate (part index : Nat)
  /-- `QCMD_SWAP` (R360): Swaps a queue out to memory. -/
  | qcmdSwap (part index : Nat)
  /-- `QCMD_UNSWAP` (R360): Reloads a swapped queue. -/
  | qcmdUnswap (part index : Nat)
  /-- `QCMD_DRAIN` (R360): Closes a queue to pushes and drains it. -/
  | qcmdDrain (part index : Nat)
  /-- `QCMD_DISCARD` (R360): Drops a queue's carts and destroys it. -/
  | qcmdDiscard (part index : Nat)
  /-- `QCMD_NONE` (R358): Command codes 0, 6 and 7 do nothing and set RES to 0x08. -/
  | qcmdNone (part index : Nat)
  /-- `QUEUE_AGING` (R362): A cart that has waited 2^20 mesh cycles moves up one level. -/
  | queueAging (queue : QueueId) (level : Nat)
  /-- `GOVERNOR_EVAL` (R366): The stage governor reassigns at most one group every 4096 mesh cycles. -/
  | governorEval (part kern : Nat)
  /-- `INGRESS_FRAME` (R451): A frame is steered, buffered and pushed as a FRAME cart, or dropped. -/
  | ingressFrame (half : Nat) (frame : List Byte) (badFcs : Bool)
  /-- `EGRESS_POP` (R453): A port half pops an egress cart and transmits the frame. -/
  | egressPop (half : Nat)
  /-- `EGRESS_COMPLETE` (R453): After the frame leaves, the port writes the completion record. -/
  | egressComplete (half : Nat)
  /-- `PAUSE_RECEIVED` (R454): A port honours a received PAUSE or PFC frame. -/
  | pauseReceived (half : Nat) (priorities : BitVec 8) (cycles : Nat)
  /-- `RX_BUFFER_HIGH` (R454): The receive buffer passes 384 KiB and flow control is sent. -/
  | rxBufferHigh (half : Nat)
  /-- `RX_BUFFER_LOW` (R454): The receive buffer falls below 128 KiB and the release is sent. -/
  | rxBufferLow (half : Nat)
  /-- `KLDB_LAUNCH` (R384): A write of KLDB launches a descriptor and clears VALID. -/
  | kldbLaunch (part : Nat) (desc : DWord)
  /-- `KCTL_KILL` (R389): A write of KCTL with KILL set kills kernel KN. -/
  | kctlKill (part kern : Nat)
  /-- `DEPARTURE_CHECK` (R386): At T − 4 µs the placed cores' timebase states are checked. -/
  | departureCheck (part kern : Nat)
  /-- `DEPARTURE_FIRE` (R386): A placed core allocates its groups when its GT copy reaches T. -/
  | departureFire (part kern core : Nat)
  /-- `MIGGO_MOVE` (R411): A write of MIGGO starts a page move or is refused. -/
  | miggoMove (part : Nat) (value : DWord)
  /-- `PIN_END` (R414): MIGHOLD elapses and the pinned page returns to RESIDENT. -/
  | pinEnd (part leaf : Nat)
  /-- `PCMD_START` (R419): Verifies the image and starts a partition. -/
  | pcmdStart (part desc : Nat)
  /-- `PCMD_STOP` (R419): Kills a partition's kernels and frees its items. -/
  | pcmdStop (part : Nat)
  /-- `PCMD_NONE` (R423): Command codes 0 and 3 set PSTAT to 0x1B. -/
  | pcmdNone (part : Nat)
  /-- `BANKROLE_WRITE` (R331): A swrp of BANKROLE stops placement and pre-empts the affected groups. -/
  | bankroleWrite (part : Nat) (value : DWord)
  /-- `LCLKPER_WRITE` (R474): A write of LCLKPER restarts every tick counter of the partition. -/
  | lclkperWrite (part : Nat) (value : Word)
  /-- `UPD_HOLD_WRITE` (R433): Setting or clearing UPD.HOLD holds or releases pops. -/
  | updHoldWrite (part : Nat) (hold : Bool)
  /-- `THERMAL_ALARM` (R431): A core's alarm makes the thermal unit migrate a resident group. -/
  | thermalAlarm (core : Nat) (temp : Int)
  /-- `THERMAL_THROTTLE` (R460): At 105 °C the core issues only on every second cycle. -/
  | thermalThrottle (core : Nat) (temp : Int)
  /-- `THERMAL_SHUTDOWN` (R460): At 115 °C on any diode the package enters reset. -/
  | thermalShutdown (die : Nat) (temp : Int)
  /-- `VOLTAGE_ADJUST` (R461): A die's regulator changes VCORE in steps of 5 mV. -/
  | voltageAdjust (die millivolts : Nat)
  /-- `HOUSEKEEPING_SAMPLE` (R457): A new sample is written into the housekeeping block under SEQ. -/
  | housekeepingSample (part : Nat) (reading : Reading)
  /-- `FLIT_RECEIVE` (R443): A receiver accepts or discards a flit, sending a NAK after a discard. -/
  | flitReceive (link : LinkId) (flit : BitVec 256) (room : Bool)
  /-- `NAK_RECEIVE` (R443): A sender resends from the SEQ that the NAK names. -/
  | nakReceive (link : LinkId) (seq : BitVec 8)
  /-- `NAK_REPEAT` (R443): The NAK is repeated every 1 µs until the expected flit arrives. -/
  | nakRepeat (link : LinkId)
  /-- `ACK_TIMEOUT` (R444): No ACK advances for 4 µs and the link enters RETRAIN. -/
  | ackTimeout (link : LinkId)
  /-- `RETRAIN_DONE` (R445): Retraining completes and replay resumes. -/
  | retrainDone (link : LinkId)
  /-- `RETRAIN_TIMEOUT` (R445): A retrain fails, and after three failures the link goes DOWN. -/
  | retrainTimeout (link : LinkId)
  /-- `TRAINING_DONE` (R445): Lanes train and the link goes UP. -/
  | trainingDone (link : LinkId) (peer : DWord)
  /-- `TRAINING_TIMEOUT` (R445): Training exceeds 1 ms and the link goes DOWN. -/
  | trainingTimeout (link : LinkId)
  /-- `DOWN_TIMEOUT` (R445): A die boundary that has been DOWN for 1 ms starts TRAINING. -/
  | downTimeout (link : LinkId)
  /-- `COUPLING_ENABLE` (R445): ENABLE set to 1 in a coupling record starts training. -/
  | couplingEnable (coupling : Nat)
  /-- `COUPLING_DISABLE` (R445): ENABLE set to 0 disables the coupling. -/
  | couplingDisable (coupling : Nat)
  /-- `GT_SYNC_SEND` (R455): The master sends GT; each copy measures its difference, takes the value and updates its SYNC state. -/
  | gtSyncSend
  /-- `TIME_BLOCK_POLL` (R456): The master reads the time block and applies a new STEP and RATE. -/
  | timeBlockPoll
  /-- `HOST_CXL_MEM_ACCESS` (R448): A host access through CXL.mem performs a wt load or store at home. -/
  | hostCxlMemAccess (addr : Nat) (write : Option (List Byte)) (count : Nat)
  /-- `BAR0_ACCESS` (R448): A host access through CXL.io to an unassigned BAR0 offset returns 0 and does nothing. -/
  | bar0Access (offset : Nat) (write : Option DWord)
  /-- `IDLE_TIME_REACHED` (R439): The global timebase reaches the time given to a stalled idle, which wakes with bit 1 set in s[D]. -/
  | idleTimeReached (th : ThreadId)
  /-- `CORRECTABLE_SOFT_ERROR` (R259): A correctable soft error on the path of a reduction request makes the request be replayed. -/
  | correctableSoftError (acc lane : Nat)
  /-- `THERMAL_ALARM_CLEAR` (R460): A core's TCORE falls below 90 °C and its thermal alarm clears. -/
  | thermalAlarmClear (core : Nat) (temp : Int)
  /-- `THERMAL_THROTTLE_END` (R460): A throttled core's temperature falls below 100 °C and it issues on every core cycle again. -/
  | thermalThrottleEnd (core : Nat) (temp : Int)
  /-- `PORT_HALF_UP` (R449): An Ethernet port half's link comes up and hardware writes STATE 1 UP in its record. -/
  | portHalfUp (half : Nat)
  /-- `PORT_HALF_DOWN` (R449): An Ethernet port half's link goes down and hardware writes STATE 0 DOWN in its record. -/
  | portHalfDown (half : Nat)
  /-- `IO_TABLE_RECORD_CHANGE` (R446): A changed port-half control byte or egress handle takes effect within 2^12 mesh cycles after the write is performed. -/
  | ioTableRecordChange (half : Nat)
  /-- `PAUSE_TIME_EXPIRY` (R454): The pause time of a received PAUSE or PFC frame runs out and transmission on the paused priority resumes. -/
  | pauseTimeExpiry (half priority : Nat)
  deriving DecidableEq, Repr, Inhabited

end Sys2Proof
end

