-- ==== Sys2Proof/Machine/State.lean ====
section
/-! DEFINITION. The state of the part, as plain data: every register, counter, table and queue that the spec names,
and the few fields of the model's own (`t`, `agenda`, `free` and the serial numbers). Collections are lists: a
register file in register order, a sparse table as pairs with its key (absent: the value at reset). -/

namespace Sys2Proof.Machine

/-! ### Faults and refusals -/

/-- What stops the machine with a fault: nothing. Every trap of the spec is delivered to software (22_context R421, R425) and
every wait goes on, so the type has no constructor and no step can end in a fault. -/
inductive Fault where
  deriving DecidableEq, Repr

/-- Instructions the model gives no meaning. -/
inductive Refusal where
  /-- Raised by an arm of `exec` for an instruction with no meaning yet; no arm is left so. Safe: the model stops. -/
  | notModelled (mnemonic : String)
  deriving DecidableEq, Repr

/-! ### Memory -/

/-- Bytes by address (00_scope R4): addresses strictly rising, no entry equal to what an unlisted address reads as. -/
abbrev Memory := List Host.Cell

/-- Sparse tables: keys strictly rising. -/
abbrev Table (α : Type) := List (Nat × α)

/-! ### Registers of a thread -/

/-- A 4-bit format tag (04_group R94). -/
abbrev Tag := BitVec 4

/-- A vector register: 96 lanes and a tag (R90, R94). -/
structure VReg where
  tag : Tag := 0
  lanes : List Word := List.replicate 96 0
  deriving DecidableEq, Repr, Inhabited

/-- A moment register: 96 pairs (09_moment R182, R184). -/
structure MReg where
  tag : Tag := 0
  mean : List Word := List.replicate 96 0
  var : List Word := List.replicate 96 0
  deriving DecidableEq, Repr, Inhabited

/-- A tile of 64 × 64 f32 elements, row by row (17_tile R348). An empty list stands for all +0. -/
structure Tile where
  tag : Tag := 0
  elems : List Word := []
  deriving DecidableEq, Repr, Inhabited

/-- A bypass latch's content: class and width, tag, value (03_encoding R72). -/
inductive Latch where
  | scalar (x : Word)
  | pair (x : DWord)
  | vector (r : VReg)
  | mask (z : Mask)
  deriving DecidableEq, Repr, Inhabited

/-- The per-group registers that `srd` and `swr` reach and that the group itself holds (05_scalar R136, R137). -/
structure SReg where
  lease : BitVec 8 := 10
  srseed : Word := 0
  mcr : BitVec 8 := 0
  mrho : Word := 0
  stage : BitVec 4 := 0
  teams : Word := 0
  statusLast : BitVec 8 := 0
  statusErr : Bool := false
  keylo : Word := 0
  keyhi : Word := 0
  deriving DecidableEq, Repr, Inhabited

/-- The registers that a chain's trap restores (R75). -/
structure Regs where
  pc : DWord := 0
  s : List Word := List.replicate 64 0
  v : List VReg := []
  m : List MReg := []
  lats : List Latch := []
  sr : SReg := {}
  deriving DecidableEq, Repr, Inhabited

/-- A chain in progress (R70): its head, its members so far, the registers as the head found them. -/
structure Chain where
  head : DWord
  count : Nat
  saved : Regs
  deriving DecidableEq, Repr, Inhabited

/-- The kinds of a base register (11 R246, 21_page R399). -/
inductive BaseKind where
  | global
  | regWindow
  | chip
  | cluster
  | scratch
  | slice
  deriving DecidableEq, Repr, Inhabited

/-- A leaf of the page tables as a walk decodes it (21_page R404): `pte` is the entry's physical address, `level`
its level, `page` the generic address of the page's first byte, `frame` FRAME as the leaf holds it. -/
structure Leaf where
  pte : Nat := 0
  level : Nat := 0
  page : Nat := 0
  dpol : Nat := 0
  state : Nat := 0
  loc : Nat := 0
  xe : Bool := false
  we : Bool := false
  re : Bool := false
  frame : Nat := 0
  deriving DecidableEq, Repr, Inhabited

/-- A base register (R246, 13_scope R283). For KIND GLOBAL, `leaf` is the translation that FRAME came from. -/
structure BaseReg where
  valid : Bool := false
  kind : BaseKind := .global
  vbase : DWord := 0
  leaf : Leaf := {}
  limit : Nat := 0
  slot : Option Nat := none
  deriving DecidableEq, Repr, Inhabited

/-- The kinds of reconvergence token (04_group, "The mask stack"). -/
inductive TokenKind where
  | iff
  | els
  | loop
  | save
  deriving DecidableEq, Repr, Inhabited

/-- A reconvergence token (R99). -/
structure Token where
  kind : TokenKind
  outer : Mask
  alt : Mask := 0
  cont : Mask := 0
  head : DWord := 0
  deriving DecidableEq, Repr, Inhabited

/-! ### Life of a thread -/

/-- A register of the scoreboard (R103). -/
inductive PReg where
  | s (n : Nat)
  | v (n : Nat)
  | m (n : Nat)
  deriving DecidableEq, Repr, Inhabited

/-- The value that a pending write of the special-function unit will leave (R103). -/
inductive PVal where
  | none
  | v (r : VReg)
  | m (r : MReg)
  deriving DecidableEq, Repr, Inhabited

/-- A pending register: which, the serial number of the writer, and the value it will write where it is known. -/
structure Pend where
  reg : PReg
  tag : Nat
  val : PVal := .none
  deriving DecidableEq, Repr, Inhabited

/-- The blocking conditions (R86, R107, R113..R118, 13 R279, 16 R319, 17 R334, R339, 19 R372, 20 R394, R397,
21 R413, 22 R439). -/
inductive Cond where
  | scoreboard (regs : List PReg)
  | counter (lc sc : Bool)
  | waitc (which n : Nat)
  | quiet
  | accesses (ids : List Nat)
  | barrier (team : Nat)
  | barrierArrive (team n slot : Nat) (wait : Bool)
  | cart (queue : QueueId) (d : Nat)
  | sleep (wakeAt : Nat)
  | drain
  | carriage
  | engine (e : EngineSel)
  | trap
  | staging (since need : Nat)
  | stagedValue (gid entry since : Nat)
  | regroup
  | launch (d : Option Nat)
  /-- A page on the move, by its leaf's address. -/
  | moving (pte : Nat)
  /-- Links on the way to a byte, by its key, that are not UP (24 R444). -/
  | link (key : Nat)
  | ctxs (target : ThreadId) (d : Option Nat)
  | bankrole
  | idle (queue : Option QueueId) (time : Option DWord) (d : Option Nat)
  | halted
  deriving DecidableEq, Repr, Inhabited

/-- The states of R86. -/
inductive RunState where
  | forming
  | ready
  | issuing
  | waiting (c : Cond)
  | parked
  | saved
  | retired
  deriving DecidableEq, Repr, Inhabited

/-- A reservation (11 R264): the line it covers (`none` in a private window), generic address, width in bytes. -/
structure Resv where
  line : Option Nat
  kind : BaseKind
  ea : DWord
  width : Nat
  deriving DecidableEq, Repr, Inhabited

/-- A barrier arrival record (16 R321). -/
structure Arrival where
  team : Nat
  phase : BitVec 16
  deriving DecidableEq, Repr, Inhabited

/-- The answers to a trap ticket (22 R427). -/
inductive Answer where
  | resume
  | skip
  | abandon
  deriving DecidableEq, Repr, Inhabited

/-- What an outstanding trap's ticket names (R427). -/
inductive TrapObject where
  | group
  | parked
  | engineOp (serial : Nat)
  | staged (entry : Nat)
  deriving DecidableEq, Repr, Inhabited

/-- An outstanding trap of a group (R425, R427). -/
structure TrapRec where
  seq : Nat
  object : TrapObject
  /-- The program counter stands past the instruction already (R119). -/
  past : Bool := false
  deriving DecidableEq, Repr, Inhabited

/-- A carriage (17 R333..R335): members issued, members completed, the failure with the lowest index, RST, and once
sealed the register of its token. -/
structure Carriage where
  /-- The number of carriages sealed before it. -/
  serial : Nat
  /-- The writer of its token register on the scoreboard. -/
  tag : Nat := 0
  nops : Nat := 0
  finished : Nat := 0
  fail : Option (Nat × Nat) := none
  rst : Bool := false
  token : Option Nat := none
  deriving DecidableEq, Repr, Inhabited

/-- The operations of the engines (17 R342, 09 R209). -/
inductive EngOp where
  | cp
  | cpq
  | cpg
  | tmma
  | tmmag
  | tzero
  | tld
  | tst
  | tmam
  | tmamm
  deriving DecidableEq, Repr, Inhabited

/-- Where an engine operand lies: the base register as read at issue, and the offset (R337). -/
structure EngAddr where
  base : BaseReg := {}
  off : Nat := 0
  deriving DecidableEq, Repr, Inhabited

/-- An engine operation with its operands, read at issue (R337, R339, R346). -/
structure EngOpRec where
  serial : Nat
  th : ThreadId
  op : EngOp
  carriage : Nat
  index : Nat
  tile : Nat := 0
  pair : Bool := false
  dst : EngAddr := {}
  src : EngAddr := {}
  aux : EngAddr := {}
  ext0 : Nat := 0
  ext1 : Nat := 0
  stride0 : Nat := 0
  stride1 : Nat := 0
  ty : Nat := 0
  mo : Nat := 0
  pol : Nat := 0
  idx : List Word := []
  mask : Mask := 0
  seed : Word := 0
  seedVar : Word := 0
  iaddr : DWord := 0
  /-- The die of the issuing core, which DSEL 0 names (21 R400). -/
  die : Nat := 0
  running : Bool := false
  suspended : Bool := false
  /-- The leaf of the page on the move that it waits for (21 R413). -/
  moving : Option Nat := none
  /-- The byte behind links that are not UP that it waits for (24 R444). -/
  link : Option Nat := none
  /-- Elements done, and words written of the block that `cpq` stands at. -/
  done : Nat := 0
  word : Nat := 0
  fail : Nat := 0
  deriving DecidableEq, Repr, Inhabited

/-- A control thread: a group (04_group) or the thread of a system core (22_context R421). -/
structure Thread where
  id : ThreadId
  /-- Core it is resident on: 0 to 383 compute, 384 + k for system core k (R16, R223). -/
  core : Nat
  /-- Context it runs in (R420): index within its partition. -/
  ctx : Nat := 0
  regs : Regs := {}
  chain : Option Chain := none
  lc : Nat := 0
  sc : Nat := 0
  bases : List BaseReg := List.replicate 8 {}
  stack : List Token := []
  ll : Mask := 0
  nTiles : Nat := 0
  tiles : Table Tile := []
  scrSize : Nat := 0
  scr : Memory := []
  slice : Memory := []
  run : RunState := .ready
  /-- The state left at the pre-emption (R86). -/
  left : RunState := .ready
  pend : List Pend := []
  /-- The unfinished-lane triple of a parked group (R108). -/
  u : Mask := 0
  /-- Set from Resolved until the parked instruction has re-executed: the lanes it acts on (R109). -/
  replay : Option Mask := none
  resv : Option Resv := none
  lastTime : DWord := 0
  /-- The greatest wts among the copies read since the previous acquire (10 R233). -/
  acqWts : Option (BitVec 16) := none
  arrivals : List Arrival := []
  leave : Bool := false
  frozen : List (Nat × Nat) := []
  stream : Option (QueueId × Word) := none
  subscribed : Bool := false
  pendingStage : BitVec 4 := 0
  block : Option Nat := none
  /-- Entries staged so far in the open block (22 R426, LANES of a staged-entry fault). -/
  blockPos : Nat := 0
  detstall : Bool := false
  carriage : Carriage := { serial := 0 }
  sealed : List Carriage := []
  /-- Engine operations that a pre-emption cancelled (17 R346). -/
  cancelled : List EngOpRec := []
  trapSeq : Nat := 0
  traps : List TrapRec := []
  /-- Trap carts that TRAPQ refused, and when each is tried again (R425). -/
  carts : List (List Word × Nat) := []
  action : Option Answer := none
  preempt : Bool := false
  preemptAt : Nat := 0
  /-- The core on which the thermal unit restores the group once it is saved (R431). -/
  moveTo : Option Nat := none
  residentSince : Nat := 0
  lastCore : Nat := 0
  deriving DecidableEq, Repr, Inhabited

/-! ### Accesses in flight -/

/-- The kinds of access (11 R253..R267). `op` is the FN of R256. -/
inductive AccKind where
  | load
  | store
  | atomic (op : Nat)
  | reduce (op : Nat)
  | futLoad
  | futFill
  | reserve
  | cond
  | cwb
  | cinv
  | fence
  deriving DecidableEq, Repr, Inhabited

/-- One lane of an access. `key` is the byte's key in `State.mem`; for a private window, its offset. `pol` is the policy
in force (10 R216); `patch` the bytes that the group's own staged entries give a load (20 R393): offset, the bits of memory kept, the bits
put over them; `noDefer` says that a future load of it is refused where it would be deferred (R393). Once it is done: `wts` is that of
the copy that it read or wrote, none where it touched no line; `kept` says that it read a copy that its core holds (14 R303). -/
structure LaneAcc where
  lane : Nat
  ea : DWord
  key : Nat := 0
  pol : Nat := 2
  patch : List (Nat × Byte × Byte) := []
  data : Nat := 0
  expect : Nat := 0
  noDefer : Bool := false
  value : Nat := 0
  wts : Option (BitVec 16) := none
  kept : Bool := false
  done : Bool := false
  refused : Bool := false
  deriving DecidableEq, Repr, Inhabited

/-- What an access writes when it completes (R253, R254, 09 R205). -/
inductive Dest where
  | none
  | v (n : Nat) (tag : Tag)
  | s (n : Nat) (ty : Nat)
  | x (n : Nat)
  | m (n : Nat) (pairs : Bool)
  | future (n z : Nat)
  | sFuture (n : Nat)
  deriving DecidableEq, Repr, Inhabited

/-- An access in flight (11 R249, R265). -/
structure Access where
  id : Nat
  th : ThreadId
  core : Nat
  kind : AccKind
  width : Nat
  scope : Nat := 0
  order : Nat := 0
  ty : Nat := 0
  lease : BitVec 8 := 10
  lanes : List LaneAcc := []
  dest : Dest := .none
  /-- The lanes that the instruction stands for: all of them, or those of a replay (04 R109). -/
  cover : Mask := BitVec.allOnes 96
  /-- An `srsv` whose group has trapped, parked or been pre-empted since: it records no reservation (R264). -/
  noResv : Bool := false
  space : BaseKind := .global
  started : Bool := false
  countLc : Bool := false
  countSc : Bool := false
  fails : Nat := 0
  /-- 16-bit sequence number of a reduction (R259). -/
  seq : BitVec 16 := 0
  deriving DecidableEq, Repr, Inhabited

/-- Tokens and data on their way home (10_line R221, R243). -/
structure Msg where
  id : Nat
  line : Nat
  core : Nat
  tokens : Nat
  data : Option (List Byte) := none
  clock : BitVec 16 := 0
  deriving DecidableEq, Repr, Inhabited

/-! ### Lines -/

/-- A core's copy of a line (R221, R242): tokens 1 to 512, or 0 for a lease copy. -/
structure Copy where
  line : Nat
  tokens : Nat
  dirty : Bool := false
  data : List Byte := []
  rts : BitVec 16 := 0
  wts : BitVec 16 := 0
  deriving DecidableEq, Repr, Inhabited

/-- A directory entry (R224), with the way it lies in (R225). -/
structure DirEntry where
  line : Nat
  way : Nat
  tokens : Nat := 512
  holders : List Nat := []
  dies : Option (BitVec 4) := none
  rts : BitVec 16 := 0
  wts : BitVec 16 := 0
  persistent : Option Nat := none
  deriving DecidableEq, Repr, Inhabited

/-- A line in service at its home and what waits for it (R215): asks not yet answered, the access served. -/
structure Service where
  line : Nat
  acc : Nat
  need : Nat
  asks : Nat
  waiting : List Instr := []
  deriving DecidableEq, Repr, Inhabited

/-- A deferred future request (11 R261): access, word key, its lanes. -/
structure Deferred where
  acc : Nat
  key : Nat
  lanes : List Nat
  deriving DecidableEq, Repr, Inhabited

/-- An identifier of the replay filter (R259). -/
structure ReplayId where
  core : Nat
  th : ThreadId
  seq : BitVec 16
  deriving DecidableEq, Repr, Inhabited

/-- A home slice (R224..R226, R234, R259, R261). -/
structure Home where
  nw : BitVec 16 := 0
  evrts : BitVec 16 := 0
  dir : List DirEntry := []
  service : List Service := []
  /-- Persistent requests waiting: arbitration number, line, access (R223); and the number served last. -/
  persistents : List (Nat × Nat × Nat) := []
  lastServed : Nat := 399
  deferred : List Deferred := []
  replay : List ReplayId := []
  deriving DecidableEq, Repr, Inhabited

/-! ### Cores -/

/-- A local copy of the global timebase (24_link R455): its value at core cycle `at`, its SYNC state, and the run of
small differences. -/
structure GtCopy where
  value : DWord := 0
  since : Nat := 0
  sync : Bool := false
  good : Nat := 0
  first : Bool := true
  deriving DecidableEq, Repr, Inhabited

/-- A cached translation (21 R406): the context's CTXID and the leaf. -/
structure TlbEntry where
  ctxid : Nat
  leaf : Leaf
  deriving DecidableEq, Repr, Inhabited

/-- A core (01_device R16, R18): compute core 0 to 383, or 384 + k for system core k. -/
structure Core where
  lclk : BitVec 16 := 0
  copies : List Copy := []
  gt : GtCopy := {}
  gated : Bool := false
  temp : Int := 0
  alarm : Bool := false
  throttle : Bool := false
  lastMigration : Option Nat := none
  tlb : List TlbEntry := []
  copyQ : List EngOpRec := []
  matrixQ : List EngOpRec := []
  deriving DecidableEq, Repr, Inhabited

/-- Privilege modes (22 R421, codes of ESTAT.PM). -/
inductive Mode where
  | user
  | supervisor
  | hypervisor
  deriving DecidableEq, Repr, Inhabited

/-- A trap bank (R421, R423). -/
structure Bank where
  epc : DWord := 0
  detail : BitVec 8 := 0
  code : BitVec 8 := 0
  eaddr : DWord := 0
  pm : Mode := .user
  deriving DecidableEq, Repr, Inhabited

/-- A system core's own registers (R421..R423), and the partition it serves (R419). -/
structure SysCore where
  mode : Mode := .hypervisor
  sup : Bank := {}
  hyp : Bank := {}
  svec : DWord := 0
  hvec : DWord := 0
  psel : BitVec 3 := 0
  deriving DecidableEq, Repr, Inhabited

/-! ### Queues -/

/-- The states of a queue (19 R360). -/
inductive QState where
  | free
  | active
  | swapped
  | draining
  | destroyed
  deriving DecidableEq, Repr, Inhabited

/-- A cart in a queue: its eight words and the mesh cycle at which its wait began (R353, R355). -/
structure QCart where
  words : List Word
  since : Nat
  deriving DecidableEq, Repr, Inhabited

/-- A queue (R355..R361). -/
structure Queue where
  id : QueueId
  part : Nat
  st : QState := .free
  code : BitVec 24 := 0
  ring : DWord := 0
  cap : Nat := 6
  scope : Nat := 3
  stream : Bool := false
  ingress : Bool := false
  drops : Word := 0
  levels : List (List QCart) := [[], [], [], []]
  held : List (Word × ThreadId) := []
  waiters : List (ThreadId × Nat) := []
  lastPop : Nat := 0
  /-- The mesh cycle up to which its aging moves have been made (R362). -/
  agedTo : Nat := 0
  deriving DecidableEq, Repr, Inhabited

/-! ### Kernels -/

/-- The launch descriptor as read (20 R379). -/
structure Desc where
  code : DWord := 0
  param : DWord := 0
  teamt : DWord := 0
  staget : DWord := 0
  ownt : DWord := 0
  shrl : DWord := 0
  done : DWord := 0
  doneq : DWord := 0
  ng : Nat := 0
  lanes : Nat := 0
  v8 : Nat := 0
  m : Nat := 0
  t : Nat := 0
  scr : Nat := 0
  ws : Nat := 0
  chip : Nat := 0
  start : Nat := 0
  psz : Nat := 0
  det : Bool := false
  pack : Bool := false
  stage : Nat := 0
  nb : Nat := 0
  shrn : Nat := 0
  cores : Nat := 0
  ownlo : DWord := 0
  ownlog : Nat := 0
  deriving DecidableEq, Repr, Inhabited

/-- The states of a barrier (16 R316). -/
inductive BarState where
  | idle
  | counting
  | releasing
  deriving DecidableEq, Repr, Inhabited

/-- A team with its barrier and its placement code (16 R312, R315; 13 R286). -/
structure Team where
  num : Nat
  members : List Nat
  code : BitVec 24 := 0
  st : BarState := .idle
  ph : BitVec 16 := 0
  e : Nat := 0
  a : Nat := 0
  arrived : List Nat := []
  waiting : List Nat := []
  deriving DecidableEq, Repr, Inhabited

/-- A stage of a kernel (19 R365). -/
structure Stage where
  handle : DWord := 0
  high : Word := 0
  low : Word := 0
  deriving DecidableEq, Repr, Inhabited

/-- A staged entry (20 R392): the writing operation of one lane, in program order by `serial`. -/
structure Staged where
  serial : Nat
  gid : Nat
  block : Nat
  pos : Nat
  iaddr : DWord
  /-- HEAD of its trap cart: slots from the chain's head to its instruction (22 R426). -/
  head : Nat := 0
  kind : AccKind
  ty : Nat
  width : Nat
  ea : DWord
  data : Nat
  expect : Nat := 0
  lane : Nat := 0
  dest : Dest := .none
  order : Nat := 0
  scope : Nat := 0
  held : Bool := false
  deriving DecidableEq, Repr, Inhabited

/-- A kernel (20 R383): its descriptor, placement, teams, stages and the ticket unit's state. -/
structure Kernel where
  desc : Desc := {}
  ctx : Nat := 0
  size : Nat := 0
  entry : DWord := 0
  params : List Word := []
  /-- Core of each GID at placement, and the placed cores (R381). -/
  cores : List Nat := []
  extra : List Nat := []
  chipBase : Table Nat := []
  pool : List (Nat × Nat) := []
  teams : List Team := []
  stages : List Stage := []
  depart : Option DWord := none
  awaiting : Bool := false
  ct : Nat := 0
  begun : List Nat := []
  closed : List Nat := []
  owners : List (Nat × Nat) := []
  staged : List Staged := []
  killed : Bool := false
  /-- Its end waits until its completion record can be written (21 R413, 24 R444). -/
  ending : Bool := false
  deriving DecidableEq, Repr, Inhabited

/-- Who asked for a launch (R384, R397). -/
inductive LaunchBy where
  | kldb
  | thread (id : ThreadId) (d : Option Nat)
  deriving DecidableEq, Repr, Inhabited

/-- A launch waiting at the launch unit (R383). -/
structure Launch where
  desc : DWord
  ctx : Nat
  time : Option DWord
  by_ : LaunchBy
  deriving DecidableEq, Repr, Inhabited

/-! ### Partitions -/

/-- A context (22 R420): the root of its tables (PTROOT.ROOT) and its trap queue. -/
structure Ctx where
  root : Nat := 0
  trapq : DWord := 0
  deriving DecidableEq, Repr, Inhabited

/-- An entry of the thrash detector (21 R414). -/
structure ThrashEntry where
  leaf : Nat
  w0 : Nat
  n : Nat
  pinEnd : Option Nat := none
  deriving DecidableEq, Repr, Inhabited

/-- A move in progress (21 R412). -/
structure Move where
  pte : Nat
  level : Nat
  oldFrame : Nat
  loc : Nat
  frame : Nat
  pin : Bool
  deriving DecidableEq, Repr, Inhabited

/-- The per-partition registers (17 R329, 13 R272, 19 R358, 20 R384, 21 R411, 22 R422, R423). -/
structure PReg32 where
  bankrole : DWord := 0xFFAAAA5555000000
  lclkper : BitVec 16 := 1024
  gtguard : Word := 32
  minres : Word := 200
  shwin : BitVec 5 := 22
  regmin : Word := 10000
  mign : BitVec 8 := 4
  migwin : Word := 100000
  mighold : Word := 1000000
  migpte : DWord := 0
  migBusy : Bool := false
  migRes : BitVec 8 := 0
  qtab : DWord := 0
  qcmdIndex : BitVec 16 := 0
  qcmdRes : BitVec 8 := 0
  qres : DWord := 0
  klRes : BitVec 8 := 0
  klValid : Bool := false
  klKn : BitVec 6 := 0
  kctlKn : BitVec 6 := 0
  hold : Bool := false
  pctx : BitVec 4 := 0
  deriving DecidableEq, Repr, Inhabited

/-- A partition (R418, R419). Bit sets are natural numbers with bit k set for item k. -/
structure Partition where
  running : Bool := false
  cores : Nat := 0
  mem : Nat := 0
  qbase : Nat := 0
  qnum : Nat := 0
  ports : Nat := 0
  cpl : Nat := 0
  nctx : Nat := 1
  image : Nat := 0
  rsvpool : Nat := 0
  reg : PReg32 := {}
  ctxs : Table Ctx := []
  kernels : Table Kernel := []
  launches : List Launch := []
  /-- Trap carts of groups that are gone, which TRAPQ refused: context, cart, when it is tried again (R425). -/
  lateCarts : List (Nat × List Word × Nat) := []
  plt : BitVec 16 := 0
  thrash : List ThrashEntry := []
  move : Option Move := none
  /-- A `swrp` of BANKROLE in progress (R331): the new value, the thread that wrote it, the groups it pre-empts. -/
  newRole : Option (DWord × Option ThreadId × List ThreadId) := none
  /-- Core cycle at which the tick counters of all its cores were 0 (10 R474). -/
  tickBase : Nat := 0
  /-- A release of `.clu` scope of its cores has been promoted (13 R280, R284). -/
  promoted : Bool := false
  winStart : Nat := 0
  winLog : Nat := 22
  energy : Nat := 0
  /-- SEQ of the housekeeping block (25 R457). -/
  seq : Nat := 0
  gt : GtCopy := {}
  deriving DecidableEq, Repr, Inhabited

/-! ### Scope, links, ports, dies -/

/-- A cluster slot (13 R270): `code` keeps the last code when the slot is free (R271). -/
structure Slot where
  inUse : Bool := false
  part : Nat := 0
  members : List Nat := []
  code : BitVec 24 := 0
  deriving DecidableEq, Repr, Inhabited

/-- A proposed set with the slot it takes (13 R277); `fresh` says that the slot receives a new check code. -/
structure RegroupSet where
  part : Nat
  slot : Nat
  members : List Nat
  fresh : Bool
  deriving DecidableEq, Repr, Inhabited

/-- A regroup event in progress on a die (13 R278): the sets with their slots, the slots freed, the affected cores, whether
the promotion point is past, and then the core cycle at which the event ends. -/
structure Regroup where
  sets : List RegroupSet
  freed : List Nat
  affected : List Nat
  promoted : Bool := false
  endAt : Nat := 0
  deriving DecidableEq, Repr, Inhabited

/-- A die: its regulator and monitors (25 R457, R461), its regroup engine (13 R274), its sharing counts (R273). -/
structure Die where
  vcore : Nat := 400
  pmon : Nat := 0
  tmax : Int := 0
  thbm : List Int := []
  regroup : Option Regroup := none
  lastRegroup : Option Nat := none
  counts : Table Nat := []
  gt : GtCopy := {}
  deriving DecidableEq, Repr, Inhabited

/-- The states of a link (24 R445). -/
inductive LinkState where
  | disabled
  | training
  | up
  | retrain
  | down
  deriving DecidableEq, Repr, Inhabited

/-- One direction of a link (R443..R445): the sender's replay buffer (SEQ and payload), its next SEQ, the NAKs that
named one SEQ; the receiver's expected SEQ and whether it has a NAK out; the state, failed retrains, entries into
RETRAIN, the peer's identifier. -/
structure Link where
  st : LinkState := .training
  buf : List (BitVec 8 × BitVec 220) := []
  nextSeq : BitVec 8 := 0
  nakSeq : Option (BitVec 8) := none
  naks : Nat := 0
  lastAck : Nat := 0
  expect : BitVec 8 := 0
  nakOut : Bool := false
  delivered : List (BitVec 220) := []
  /-- The held flits that are to be sent next, in order: new ones, and all from a NAK's SEQ on. -/
  resend : List (BitVec 8 × BitVec 220) := []
  /-- When the receiver sent its NAK last. -/
  nakAt : Nat := 0
  fails : Nat := 0
  retrains : Nat := 0
  peer : DWord := 0
  since : Nat := 0
  deriving DecidableEq, Repr, Inhabited

/-- A steering rule of a port half (24 R450). -/
structure Rule where
  value : List Byte
  mask : List Byte
  moff : Nat
  valid : Bool
  soff : Nat
  sid : Word
  queue : DWord
  pool : Nat
  slotLog : Nat
  cntLog : Nat
  sp : Nat
  entry : Nat
  deriving DecidableEq, Repr

/-- A frame in the receive buffer of a port half (24 R451, R454): its bytes, whether its FCS is bad, its ingress stamp, and the
rule that it matched when it came, with the rule's number. -/
structure RxFrame where
  bytes : List Byte
  badFcs : Bool
  stamp : DWord
  num : Nat
  rule : Rule
  deriving DecidableEq, Repr

/-- What a port half sends to stop its peer (24 R454). -/
inductive FlowFrame where
  | pfc
  | pause
  deriving DecidableEq, Repr

/-- An Ethernet port half (24 R449..R454). -/
structure Port where
  up : Bool := false
  ctl : BitVec 8 := 0
  egq : DWord := 0
  egHalt : Bool := false
  /-- The egress cart that it has taken, and the bytes of its frame once they are fetched (R453). -/
  tx : Option (List Word) := none
  txData : Option (List Byte) := none
  paused : List (Nat × Nat) := []
  /-- The receive buffer, oldest frame first (R454). -/
  rx : List RxFrame := []
  /-- The buffer has held more than 384 KiB, and not less than 128 KiB since; the flow control sent and not yet released. -/
  rxHigh : Bool := false
  flow : Option FlowFrame := none
  slots : Table Nat := []
  gt : GtCopy := {}
  deriving DecidableEq, Repr, Inhabited

/-- The master of the global timebase (R455, R456). -/
structure Master where
  value : DWord := 0
  since : Nat := 0
  rate : Int := 0
  step : DWord := 0
  deriving DecidableEq, Repr, Inhabited

/-- An access of the host through CXL.mem, within one line: the bytes to write, or how many to read (24 R448). -/
structure HostReq where
  addr : Nat
  count : Nat
  write : Option (List Byte)
  deriving DecidableEq, Repr, Inhabited

/-! ### The whole part -/

/-- The state of the package. -/
structure State where
  /-- Core cycles passed: the model's own clock (log 7). -/
  t : Nat := 0
  /-- Hardware steps in the order in which they come (log 8). -/
  agenda : List Instr := []
  /-- The thread that the next issue serves, and the others in round-robin order (R102). -/
  cur : Thread
  others : List Thread := []
  cores : Table Core := []
  sys : Table SysCore := []
  parts : Table Partition := []
  homes : Table Home := []
  queues : List Queue := []
  slots : Table Slot := []
  dies : Table Die := []
  links : List (LinkId × Link) := []
  ports : Table Port := []
  accs : List Access := []
  msgs : List Msg := []
  mem : Memory := []
  /-- Lines with an uncorrectable soft error (22 R424). -/
  ecc : List Nat := []
  gt : Master := {}
  pstat : BitVec 8 := 0
  bootStatus : BitVec 8 := 0
  flashA : List Byte := []
  flashB : List Byte := []
  fuseKey : List Byte := []
  fuseVersion : Nat := 0
  energy : Nat := 0
  power : Nat := 0
  modulePower : Nat := 0
  /-- The record of each second-tier channel (25 R457): 64 GiB each at reset (01 R23). -/
  channels : List Nat := List.replicate 96 64
  /-- Accesses of the host that wait to be performed, and what it has read, oldest first: through CXL.mem, address and bytes;
  through BAR0, offset and value (24 R448). -/
  hostReqs : List HostReq := []
  hostMem : List (Nat × List Byte) := []
  hostBar : List (Nat × Nat) := []
  /-- Serial number for accesses, operations, entries and messages; draws of free values (log 8). -/
  serial : Nat := 1
  free : Nat := 0
  deriving DecidableEq, Repr

/-- The thread of system core k as reset leaves it: halted until the boot ROM starts it (22 R432). It has no launched lanes, so that
its s60 to s62 read 0 whatever is written (log 2). -/
def sysThread (k : Nat) : Thread :=
  { id := .sys k, core := 384 + k, run := .waiting .halted }

/-- The machine right after reset (22 R432, 10 R474, 24 R445, 13 R270, 19 R360): clocks, NW, EVRTS and PLT 0, every
directory empty, memory with nothing listed, no partition, couplings DISABLED, die boundaries TRAINING; the reset of
the package is the first step. Registers the spec gives no reset value hold 0 (log 2). -/
def State.reset : State :=
  { agenda := [.packageReset], cur := sysThread 0,
    others := [sysThread 1, sysThread 2, sysThread 3, sysThread 4, sysThread 5, sysThread 6, sysThread 7, sysThread 8,
      sysThread 9, sysThread 10, sysThread 11, sysThread 12, sysThread 13, sysThread 14, sysThread 15] }

end Sys2Proof.Machine
end

