-- ==== Sys2Proof/Machine/Mem.lean ====
section
/-! DEFINITION. Named operations over the state's tables and memories (00_scope R4), and the accessors through which
every meaning reads and writes a part of the state. -/

namespace Sys2Proof.Machine

/-! ### Tables -/

/-- The entry of key `k`, or `d`. -/
def tget {α : Type} (d : α) (k : Nat) : Table α → α
  | [] => d
  | (k', x) :: t => if k' == k then x else tget d k t

/-- The entry of key `k`. -/
def tget? {α : Type} (k : Nat) : Table α → Option α
  | [] => none
  | (k', x) :: t => if k' == k then some x else tget? k t

/-- Sets the entry of key `k`; keys stay strictly rising. -/
def tset {α : Type} (k : Nat) (x : α) : Table α → Table α
  | [] => [(k, x)]
  | (k', y) :: t => if k' == k then (k, x) :: t else if k < k' then (k, x) :: (k', y) :: t else (k', y) :: tset k x t

/-- Removes the entry of key `k`. -/
def tdel {α : Type} (k : Nat) (t : Table α) : Table α := t.filter fun e => !(e.1 == k)

/-! ### Memory -/

/-- What an address that the memory does not list reads as: 0x00 (log 1). -/
def blank : Byte := 0

/-- Reads one byte. -/
def Memory.read (a : Nat) : Memory → Byte
  | [] => blank
  | (a', b) :: m => if a' == a then b else if a < a' then blank else Memory.read a m

/-- Writes one byte, keeping the canonical form: writing `blank` removes the entry. -/
def Memory.write (a : Nat) (b : Byte) : Memory → Memory
  | [] => if b == blank then [] else [(a, b)]
  | (a', b') :: m =>
    if a < a' then if b == blank then (a', b') :: m else (a, b) :: (a', b') :: m
    else if a' == a then if b == blank then m else (a, b) :: m
    else (a', b') :: Memory.write a b m

/-- `n` bytes from address `a`. -/
def Memory.readBytes (m : Memory) (a : Nat) : Nat → List Byte
  | 0 => []
  | n + 1 => m.read a :: Memory.readBytes m (a + 1) n

/-- Writes the bytes from address `a` on. -/
def Memory.writeBytes (a : Nat) : List Byte → Memory → Memory
  | [], m => m
  | b :: bs, m => Memory.writeBytes (a + 1) bs (m.write a b)

/-- The canonical form: addresses strictly rising, no entry equal to `blank`. -/
def Memory.wf : Memory → Bool
  | [] => true
  | (a, b) :: m => b != blank && (match m with | [] => true | (a', _) :: _ => decide (a < a')) && Memory.wf m

/-- An n-byte natural number at `a`, least significant byte first (R4). -/
def Memory.readNat (m : Memory) (a n : Nat) : Nat := ofLeBytes (m.readBytes a n)

/-- Writes the low `n` bytes of `x` at `a` (R4). -/
def Memory.writeNat (m : Memory) (a n x : Nat) : Memory := m.writeBytes a (leBytes n x)

/-! ### Lists -/

/-- Replaces element `n`; a list that is too short is first filled with default elements. -/
def lset {α : Type} [Inhabited α] : List α → Nat → α → List α
  | [], 0, x => [x]
  | [], n + 1, x => default :: lset [] n x
  | _ :: l, 0, x => x :: l
  | y :: l, n + 1, x => y :: lset l n x

/-- Replaces the bytes of `l` from offset `o` by `bs`. -/
def spliceBytes (l : List Byte) (o : Nat) (bs : List Byte) : List Byte :=
  l.take o ++ bs ++ l.drop (o + bs.length)

/-- Bit `k` of a bit set. -/
def bitSet (x k : Nat) : Bool := x / 2 ^ k % 2 == 1

/-- The members below `n` of a bit set, ascending. -/
def bitMembers (x n : Nat) : List Nat := (List.range n).filter fun k => bitSet x k

/-- The lanes of a triple, ascending (R10). -/
def Lanes (m : Mask) : List Nat := (List.range 96).filter fun i => m.getLsbD i

/-! ### Accessors -/

namespace State

def core (s : State) (c : Nat) : Core := tget {} c s.cores
def setCore (s : State) (c : Nat) (k : Core) : State := { s with cores := tset c k s.cores }
def sysCore (s : State) (k : Nat) : SysCore := tget {} k s.sys
def setSysCore (s : State) (k : Nat) (c : SysCore) : State := { s with sys := tset k c s.sys }
def part (s : State) (p : Nat) : Partition := tget {} p s.parts
def setPart (s : State) (p : Nat) (x : Partition) : State := { s with parts := tset p x s.parts }
def home (s : State) (h : Nat) : Home := tget {} h s.homes
def setHome (s : State) (h : Nat) (x : Home) : State := { s with homes := tset h x s.homes }
def slot (s : State) (k : Nat) : Slot := tget {} k s.slots
def setSlot (s : State) (k : Nat) (x : Slot) : State := { s with slots := tset k x s.slots }
def die (s : State) (d : Nat) : Die := tget {} d s.dies
def setDie (s : State) (d : Nat) (x : Die) : State := { s with dies := tset d x s.dies }
def port (s : State) (h : Nat) : Port := tget {} h s.ports
def setPort (s : State) (h : Nat) (x : Port) : State := { s with ports := tset h x s.ports }

def kernel? (s : State) (p n : Nat) : Option Kernel := tget? n (s.part p).kernels
def setKernel (s : State) (p n : Nat) (k : Kernel) : State :=
  let x := s.part p
  s.setPart p { x with kernels := tset n k x.kernels }

/-- The thread of identity `id`. -/
def thread? (s : State) (id : ThreadId) : Option Thread :=
  if s.cur.id == id then some s.cur else s.others.find? fun th => th.id == id

/-- Puts `th` back in the place of the thread with its identity. -/
def setThread (s : State) (th : Thread) : State :=
  if s.cur.id == th.id then { s with cur := th }
  else { s with others := s.others.map fun x => if x.id == th.id then th else x }

/-- Applies `f` to the thread of identity `id`, where there is one. -/
def onThread (s : State) (id : ThreadId) (f : Thread → Thread) : State :=
  match s.thread? id with
  | some th => s.setThread (f th)
  | none => s

/-- All threads: the one that issues next first. -/
def threads (s : State) : List Thread := s.cur :: s.others

/-- Applies `f` to every thread. -/
def mapThreads (s : State) (f : Thread → Thread) : State :=
  { s with cur := f s.cur, others := s.others.map f }

/-- A hardware step that follows, after those already due. -/
def push (s : State) (i : Instr) : State := { s with agenda := s.agenda ++ [i] }
def pushAll (s : State) (is : List Instr) : State := { s with agenda := s.agenda ++ is }

/-- A fresh serial number. -/
def fresh (s : State) : Nat × State := (s.serial, { s with serial := s.serial + 1 })

/-- The next free value (log 11). -/
def freeWord (s : State) : Word × State := (Config.freeWord s.free, { s with free := s.free + 1 })

/-- A choice below `n` that the spec leaves open (log 10). -/
def choose (s : State) (n : Nat) : Nat × State := (Config.pick s.free % (if n == 0 then 1 else n), { s with free := s.free + 1 })

/-- A check code from the hardware random source: nonzero and different from `prev` (13 R271, 19 R357; log 9). -/
def drawCode (s : State) (prev : BitVec 24) : BitVec 24 × State :=
  let c := Config.randomCode s.free
  let c1 := if c == 0 then 1 else c
  let c2 := if c1 == prev then (if c1 + 1 == 0 then 1 else c1 + 1) else c1
  (c2, { s with free := s.free + 1 })

/-- Mesh cycles passed: the mesh runs at 2.0 GHz, the cores at 2.5 GHz (00 R5, 01 R25). -/
def mesh (s : State) : Nat := s.t * 4 / 5

def acc? (s : State) (id : Nat) : Option Access := s.accs.find? fun a => a.id == id
def setAcc (s : State) (a : Access) : State :=
  { s with accs := s.accs.map fun x => if x.id == a.id then a else x }
def dropAcc (s : State) (id : Nat) : State := { s with accs := s.accs.filter fun a => !(a.id == id) }

def queue? (s : State) (q : QueueId) : Option Queue := s.queues.find? fun x => x.id == q
def setQueue (s : State) (q : Queue) : State :=
  if s.queues.any fun x => x.id == q.id then
    { s with queues := s.queues.map fun x => if x.id == q.id then q else x }
  else { s with queues := s.queues ++ [q] }

def link (s : State) (l : LinkId) : Link :=
  match s.links.find? fun e => e.1 == l with
  | some e => e.2
  | none => match l with
    | .boundary _ _ => { st := .training }
    | .coupling _ _ => { st := .disabled }
def setLink (s : State) (l : LinkId) (x : Link) : State :=
  if s.links.any fun e => e.1 == l then { s with links := s.links.map fun e => if e.1 == l then (l, x) else e }
  else { s with links := s.links ++ [(l, x)] }

end State

/-- The partition of a thread, and of a compute core: the running one whose item it is (R27). -/
def partOfCore (s : State) (c : Nat) : Option Nat :=
  (s.parts.find? fun e => e.2.running && bitSet e.2.cores c).map (·.1)

/-- The partition that a thread acts for: a group's own; on a system core the one PSEL names (22 R419, R422; log 13). -/
def partOf (s : State) : ThreadId → Nat
  | .grp p _ _ => p
  | .sys k => (s.sysCore k).psel.toNat

/-- The die of a core (R16): 96 compute cores or 4 system cores each. -/
def dieOfCore (c : Nat) : Nat := if c < 384 then c / 96 else (c - 384) / 4

/-- The cluster slot of a core (13 R270). -/
def slotOfCore (s : State) (c : Nat) : Option Nat :=
  (s.slots.find? fun e => e.2.inUse && e.2.members.contains c).map (·.1)

/-- A thread runs in user mode: every group, and a system core in user mode (R80, 22 R421). -/
def userMode (s : State) : ThreadId → Bool
  | .grp _ _ _ => true
  | .sys k => (s.sysCore k).mode == .user

/-- An operation that does not end normally. -/
inductive Stop where
  /-- Raises a trap: code, detail, faulting data address, LANES (22 R424, R426). -/
  | trap (code : Nat) (detail : Nat) (daddr : Nat) (lanes : Mask)
  /-- Raises PAGE on a memory access: kind, level, address, unfinished lanes, the state with the lanes below the fault
  in flight (11 R249). -/
  | park (detail : Nat) (daddr : Nat) (u : Mask) (s : State)
  /-- Stalls (04 R86). -/
  | wait (c : Cond)
  /-- Stalls with effects already made: the answer comes from a later step. -/
  | parkWait (s : State)
  deriving DecidableEq, Repr

/-- What a part of an instruction answers. -/
abbrev Res (α : Type) := Except Stop α

/-- Trap codes (22 R424). -/
def ILLEGAL : Nat := 1
def TAG : Nat := 2
def LATCH : Nat := 3
def MASKSTACK : Nat := 4
def BOUNDS : Nat := 5
def ALIGN : Nat := 6
def PAGE : Nat := 7
def PROT : Nat := 8
def NEGVAR : Nat := 9
def BARMISMATCH : Nat := 10
def SWTRAP : Nat := 11
def PRIV : Nat := 12
def ECC : Nat := 13
def DETSTALL : Nat := 14
def BREAK : Nat := 15

/-- The plain trap of a code. -/
def trap {α : Type} (code : Nat) : Res α := .error (.trap code 0 0 0)

/-- Mix32 (02_numbers R40). -/
def mix32 (x : Word) : Word :=
  let a := (x ^^^ (x >>> 16)) * 0x7FEB352D
  let b := (a ^^^ (a >>> 15)) * 0x846CA68B
  b ^^^ (b >>> 16)

end Sys2Proof.Machine
end

