-- ==== Sys2Proof/Machine/Fp.lean ====
section
/-! DEFINITION. Floating-point arithmetic (02_numbers R32..R53): operands decode to exact rationals, operations are
exact, and one rounding (R38) ends them. Formats are named by their precision p: 24 for f32, 8 for bf16; values are bit
patterns as natural numbers. -/

namespace Sys2Proof.Machine

/-- A decoded value (R32): `fin neg n d` is ±n/d, n and d positive. -/
inductive FVal where
  | nan
  | inf (neg : Bool)
  | zero (neg : Bool)
  | fin (neg : Bool) (n d : Nat)
  deriving DecidableEq, Repr, Inhabited

/-- The sign bit of a format. -/
def signBit (p : Nat) : Nat := if p == 8 then 2 ^ 15 else 2 ^ 31
/-- The canonical NaN (R34). -/
def canonNaN (p : Nat) : Nat := if p == 8 then 0x7FC0 else 0x7FC00000
/-- Infinity without its sign. -/
def infBits (p : Nat) : Nat := 255 * 2 ^ (p - 1)
def withSign (p : Nat) (neg : Bool) (bits : Nat) : Nat := if neg then bits + signBit p else bits

/-- Sign, biased exponent and fraction (R32). -/
def fNeg (p bits : Nat) : Bool := bits / signBit p % 2 == 1
def fExp (p bits : Nat) : Nat := bits / 2 ^ (p - 1) % 256
def fFrac (p bits : Nat) : Nat := bits % 2 ^ (p - 1)

/-- Decodes a bit pattern (R32). -/
def fDecode (p bits : Nat) : FVal :=
  let neg := fNeg p bits
  let e := fExp p bits
  let f := fFrac p bits
  if e == 255 then (if f == 0 then .inf neg else .nan)
  else if e == 0 then (if f == 0 then .zero neg else .fin neg f (2 ^ (125 + p)))
  else
    let m := 2 ^ (p - 1) + f
    if 126 + p ≤ e then .fin neg (m * 2 ^ (e - (126 + p))) 1 else .fin neg m (2 ^ (126 + p - e))

/-- The exponent of the least significant bit of a finite pattern of the format (R39). -/
def fLsb (p bits : Nat) : Int :=
  let e := fExp p bits
  (if e == 0 then 1 else (e : Int)) - 127 - ((p : Int) - 1)

/-- How a rounding decides (R37): the mode, and for `.sr` SRSEED and the exponent of the source's last bit (R39). -/
structure Rnd where
  mode : Nat := 0
  seed : Word := 0
  lsb : Int := 0
  deriving DecidableEq, Repr

/-- SrUp (R39): `rem`/`den` is the discarded fraction, `n` the count of discarded bit positions. -/
def srUp (seed : Word) (n rem den : Nat) : Bool :=
  let k := if n < 32 then n else 32
  let d := rem * 2 ^ k / den
  (mix32 (BitVec.ofNat 32 d ^^^ seed)).toNat % 2 ^ k < d

/-- Whether the magnitude goes up (R38): `q` the kept integer, `rem`/`den` the discarded fraction below 1, `pos` the
exponent of the kept last bit. -/
def goesUp (r : Rnd) (neg : Bool) (q rem den : Nat) (pos : Int) : Bool :=
  if rem == 0 then false
  else match r.mode with
    | 0 => den < 2 * rem || (2 * rem == den && q % 2 == 1)
    | 1 => false
    | 2 => !neg
    | 3 => neg
    | _ => srUp r.seed (pos - r.lsb).toNat rem den

/-- Floor(Log2(n/d)) (R38), for n and d positive. -/
def floorLog2 (n d : Nat) : Int :=
  let e := (Nat.log2 n : Int) - (Nat.log2 d : Int)
  let less := if e < 0 then decide (n * 2 ^ e.natAbs < d) else decide (n < d * 2 ^ e.toNat)
  if less then e - 1 else e

/-- Round(±n/d, m, p) (R38), as a bit pattern. -/
def roundTo (p : Nat) (r : Rnd) (neg : Bool) (n d : Nat) : Nat :=
  let e0 := floorLog2 n d
  let e := if e0 < -126 then -126 else e0
  let k := e - ((p : Int) - 1)
  let num := if k < 0 then n * 2 ^ k.natAbs else n
  let den := if k < 0 then d else d * 2 ^ k.toNat
  let q := num / den
  let q1 := if goesUp r neg q (num % den) den k then q + 1 else q
  let bits := (e + 126).toNat * 2 ^ (p - 1) + q1
  if infBits p ≤ bits then
    if r.mode == 1 || (r.mode == 2 && neg) || (r.mode == 3 && !neg) then withSign p neg (infBits p - 1)
    else withSign p neg (infBits p)
  else withSign p neg bits

/-- A bit pattern of a decoded value that needs no rounding decision but the given one. -/
def fEncode (p : Nat) (r : Rnd) : FVal → Nat
  | .nan => canonNaN p
  | .inf neg => withSign p neg (infBits p)
  | .zero neg => withSign p neg 0
  | .fin neg n d => roundTo p r neg n d

/-- A signed rational as a value; a zero takes the sign of R36. -/
def ofRat (mode : Nat) (x : Int) (d : Nat) : FVal :=
  if x == 0 then .zero (mode == 3) else .fin (x < 0) x.natAbs d

/-- The signed numerator. -/
def signed (neg : Bool) (n : Nat) : Int := if neg then -(n : Int) else n

def FVal.neg : FVal → FVal
  | .nan => .nan
  | .inf s => .inf !s
  | .zero s => .zero !s
  | .fin s n d => .fin (!s) n d

/-- The exact sum (R36, R132). -/
def FVal.add (mode : Nat) : FVal → FVal → FVal
  | .nan, _ => .nan
  | _, .nan => .nan
  | .inf s, .inf t => if s == t then .inf s else .nan
  | .inf s, _ => .inf s
  | _, .inf t => .inf t
  | .zero s, .zero t => if s == t then .zero s else .zero (mode == 3)
  | .zero _, y => y
  | x, .zero _ => x
  | .fin s n d, .fin t m e => ofRat mode (signed s n * e + signed t m * d) (d * e)

/-- The exact product (R36, R132). -/
def FVal.mul : FVal → FVal → FVal
  | .nan, _ => .nan
  | _, .nan => .nan
  | .inf _, .zero _ => .nan
  | .zero _, .inf _ => .nan
  | .inf s, .inf t => .inf (s != t)
  | .inf s, .fin t _ _ => .inf (s != t)
  | .fin s _ _, .inf t => .inf (s != t)
  | .zero s, .zero t => .zero (s != t)
  | .zero s, .fin t _ _ => .zero (s != t)
  | .fin s _ _, .zero t => .zero (s != t)
  | .fin s n d, .fin t m e => .fin (s != t) (n * m) (d * e)

/-- The quotient in the order of R168. -/
def FVal.div : FVal → FVal → FVal
  | .nan, _ => .nan
  | _, .nan => .nan
  | .zero _, .zero _ => .nan
  | .inf _, .inf _ => .nan
  | .inf s, .zero t => .inf (s != t)
  | .inf s, .fin t _ _ => .inf (s != t)
  | .fin s _ _, .zero t => .inf (s != t)
  | .zero s, .fin t _ _ => .zero (s != t)
  | .zero s, .inf t => .zero (s != t)
  | .fin s _ _, .inf t => .zero (s != t)
  | .fin s n d, .fin t m e => .fin (s != t) (n * e) (d * m)

/-- a + b, a − b, a · b, a · b + c, a / b of bit patterns, rounded once (R132, R165, R52). -/
def fAdd (p m a b : Nat) : Nat := fEncode p { mode := m } ((fDecode p a).add m (fDecode p b))
def fSub (p m a b : Nat) : Nat := fEncode p { mode := m } ((fDecode p a).add m (fDecode p b).neg)
def fMul (p m a b : Nat) : Nat := fEncode p { mode := m } ((fDecode p a).mul (fDecode p b))
def fFma (p m a b c : Nat) : Nat := fEncode p { mode := m } (((fDecode p a).mul (fDecode p b)).add m (fDecode p c))
def fDiv (p a b : Nat) : Nat := fEncode p {} ((fDecode p a).div (fDecode p b))

def isNaN (p bits : Nat) : Bool := fExp p bits == 255 && fFrac p bits != 0

/-- The order of R133 and of comparisons: a key that puts −0 below +0 and grows with the value. -/
def fOrdKey (p bits : Nat) : Int :=
  if fNeg p bits then -((bits % signBit p : Nat) : Int) - 1 else ((bits % signBit p : Nat) : Int)

/-- min and max (R133). -/
def fMin (p a b : Nat) : Nat :=
  if isNaN p a then (if isNaN p b then canonNaN p else b)
  else if isNaN p b then a
  else if fOrdKey p b < fOrdKey p a then b else a
def fMax (p a b : Nat) : Nat :=
  if isNaN p a then (if isNaN p b then canonNaN p else b)
  else if isNaN p b then a
  else if fOrdKey p a < fOrdKey p b then b else a

/-- A float condition (03 R64). -/
def fCond (p cond a b : Nat) : Bool :=
  let un := isNaN p a || isNaN p b
  let x := if a % signBit p == 0 then 0 else fOrdKey p a
  let y := if b % signBit p == 0 then 0 else fOrdKey p b
  match cond with
  | 0 => !un && decide (x = y)
  | 1 => un || !decide (x = y)
  | 2 => !un && decide (x < y)
  | 3 => !un && decide (x ≤ y)
  | 4 => !un && decide (y < x)
  | 5 => !un && decide (y ≤ x)
  | 6 => un
  | _ => !un

/-- Clears, or inverts, the sign (R166); a NaN becomes canonical. -/
def fAbs (p a : Nat) : Nat := if isNaN p a then canonNaN p else a % signBit p
def fNegate (p a : Nat) : Nat := if isNaN p a then canonNaN p else withSign p (!fNeg p a) (a % signBit p)

/-- The class word (R170). -/
def fClass (bits : Nat) : Nat :=
  let neg := fNeg 24 bits
  let e := fExp 24 bits
  if e == 255 then (if fFrac 24 bits != 0 then 2 ^ 8 else if neg then 2 ^ 0 else 2 ^ 7)
  else if e == 0 then
    (if fFrac 24 bits == 0 then (if neg then 2 ^ 3 else 2 ^ 4) else if neg then 2 ^ 2 else 2 ^ 5)
  else if neg then 2 ^ 1 else 2 ^ 6

/-- The exact sum of R45 of an f32 addend and pairs of operands of precision p, with one RNE rounding. An exact zero
is +0. -/
def fusedSum (c : Nat) (p : Nat) (terms : List (Nat × Nat)) : Nat :=
  let vs := fDecode 24 c :: terms.map fun t => (fDecode p t.1).mul (fDecode p t.2)
  match vs.foldl (FVal.add 0) (.zero false) with
  | .zero _ => 0
  | x => fEncode 24 {} x

/-! ### Square roots (R50, R134, R168) -/

/-- The integer square root, bit by bit from bit `n`. -/
def isqrtFrom : Nat → Nat → Nat → Nat
  | 0, x, r => if (r + 1) * (r + 1) ≤ x then r + 1 else r
  | n + 1, x, r =>
    let r1 := r + 2 ^ (n + 1)
    isqrtFrom n x (if r1 * r1 ≤ x then r1 else r)

/-- √(n/d) as a rational with a sticky last bit, close enough that RNE to f32 rounds the true root. -/
def sqrtRat (n d : Nat) : Nat × Nat :=
  let x := n * 4 ^ 110 / d
  let r := isqrtFrom 190 x 0
  (2 * r + (if r * r * d == n * 4 ^ 110 then 0 else 1), 2 ^ 111)

def fSqrt (a : Nat) : Nat :=
  match fDecode 24 a with
  | .nan => canonNaN 24
  | .inf neg => if neg then canonNaN 24 else infBits 24
  | .zero neg => withSign 24 neg 0
  | .fin neg n d => if neg then canonNaN 24 else
      let (x, y) := sqrtRat n d
      roundTo 24 {} false x y

def fRcp (a : Nat) : Nat := fDiv 24 0x3F800000 a

def fRsq (a : Nat) : Nat :=
  match fDecode 24 a with
  | .nan => canonNaN 24
  | .inf neg => if neg then canonNaN 24 else 0
  | .zero neg => withSign 24 neg (infBits 24)
  | .fin neg n d => if neg then canonNaN 24 else
      let (x, y) := sqrtRat d n
      roundTo 24 {} false x y

/-! ### Conversions (R48, R49) -/

/-- The range of an integer type code (R29, R63). -/
def intMin (ty : Nat) : Int :=
  match ty with
  | 1 => -(2 ^ 7)
  | 2 => -(2 ^ 15)
  | 3 => -(2 ^ 31)
  | 4 => -(2 ^ 63)
  | _ => 0
def intMax (ty : Nat) : Int :=
  match ty with
  | 1 => 2 ^ 7 - 1
  | 2 => 2 ^ 15 - 1
  | 3 => 2 ^ 31 - 1
  | 4 => 2 ^ 63 - 1
  | 5 => 2 ^ 8 - 1
  | 6 => 2 ^ 16 - 1
  | 7 => 2 ^ 32 - 1
  | _ => 2 ^ 64 - 1

/-- Saturation to a type's range (R49). -/
def saturate (ty : Nat) (x : Int) : Int := if x < intMin ty then intMin ty else if intMax ty < x then intMax ty else x

/-- ±n/d rounded to an integer (R49: R38 with q = 1). -/
def roundInt (r : Rnd) (neg : Bool) (n d : Nat) : Int :=
  let q := n / d
  signed neg (if goesUp r neg q (n % d) d 0 then q + 1 else q)

/-- The bits of a type: 8, 16, 32 or 64. -/
def typeBits (ty : Nat) : Nat :=
  match ty with
  | 1 | 5 => 8
  | 2 | 6 | 9 => 16
  | 4 | 8 => 64
  | _ => 32

/-- The integer that the low bits of `x` hold under an integer type. -/
def readInt (ty x : Nat) : Int :=
  let w := typeBits ty
  let y := x % 2 ^ w
  if ty ≤ 4 && 2 ^ (w - 1) ≤ y then (y : Int) - 2 ^ w else y

/-- The two's-complement image of an integer in `w` bits. -/
def imageOf (w : Nat) (x : Int) : Nat := (x % (2 ^ w : Int)).toNat

/-- Converts an element between the types of R135 and R171; codes by R63, 9 bf16, 10 and 0 f32. The result holds the
destination's bits. -/
def convert (src dst : Nat) (mode : Nat) (seed : Word) (x : Nat) : Nat :=
  let isF (t : Nat) : Bool := t == 9 || t == 10 || t == 0
  let pOf (t : Nat) : Nat := if t == 9 then 8 else 24
  if isF src then
    let p := pOf src
    let bits := x % 2 ^ (if p == 8 then 16 else 32)
    let r : Rnd := { mode, seed, lsb := fLsb p bits }
    if isF dst then fEncode (pOf dst) r (fDecode p bits)
    else match fDecode p bits with
      | .nan => 0
      | .inf neg => imageOf (typeBits dst) (if neg then intMin dst else intMax dst)
      | .zero _ => 0
      | .fin neg n d => imageOf (typeBits dst) (saturate dst (roundInt r neg n d))
  else
    let v := readInt src x
    if isF dst then fEncode (pOf dst) { mode, seed, lsb := 0 } (if v == 0 then .zero false else .fin (v < 0) v.natAbs 1)
    else imageOf (typeBits dst) (saturate dst v)

/-! ### Q4 codes (R41..R43) -/

/-- v(c) as a signed numerator over 64, for code type T; `none` for −0 (R43). -/
def q4Value (t c : Nat) : Option Int :=
  let mags : List Nat := match t with
    | 1 => [0, 32, 64, 96, 128, 192, 256, 384]
    | 2 => [0, 1, 2, 4, 8, 16, 32, 64]
    | _ => [0, 64, 128, 192, 256, 384, 512, 768]
  if t == 0 then some (if 8 ≤ c then ((c : Int) - 16) * 64 else (c : Int) * 64)
  else
    let m := mags.getD (c % 8) 0
    if 8 ≤ c then (if m == 0 then none else some (-(m : Int))) else some m

/-- The exact value of code c under a 20-bit scale (R43); `bad` for a malformed scale word. -/
def q4Decode (scale : Nat) (bad : Bool) (c : Nat) : FVal :=
  let t := scale / 2 ^ 18 % 4
  let se := scale / 2 ^ 10 % 256
  let sm := scale % 1024
  if bad || se == 255 then .nan
  else if se == 0 then .zero false
  else match q4Value t c with
    | none => .zero true
    | some v =>
      if v == 0 then .zero false
      else
        -- v/64 · (1024 + sm)/1024 · 2^(se - 127)
        let n := v.natAbs * (1024 + sm)
        if 127 ≤ se then .fin (v < 0) (n * 2 ^ (se - 127)) (2 ^ 16) else .fin (v < 0) n (2 ^ (16 + (127 - se)))

/-- Scale slot j of a 64-bit scale word, and whether the word is malformed (R42, R43). -/
def q4Scale (word j : Nat) : Nat × Bool := (word / 2 ^ (20 * j) % 2 ^ 20, word / 2 ^ 60 % 16 != 0)

/-! ### The fixed reduction tree (R46, R47) -/

/-- One level of the tree: neighbours combined. -/
def pairUp (op : Nat → Nat → Nat) : List Nat → List Nat
  | a :: b :: l => op a b :: pairUp op l
  | l => l

/-- The five levels of one beat. -/
def treeBeat (op : Nat → Nat → Nat) (l : List Nat) : Nat :=
  (pairUp op (pairUp op (pairUp op (pairUp op (pairUp op l))))).headD 0

/-- ReduceTree over 96 values whose inactive lanes already hold the identity (R46). -/
def reduceTree (op : Nat → Nat → Nat) (w : List Nat) : Nat :=
  op (op (treeBeat op (w.take 32)) (treeBeat op ((w.drop 32).take 32))) (treeBeat op (w.drop 64))

/-- Operation FN 0 to 5 on 32-bit or 64-bit values of a type (R47, 11 R256): add, and, or, xor, min, max. -/
def aluOp (fn ty w a b : Nat) : Nat :=
  if ty == 10 then
    match fn with
    | 0 => fAdd 24 0 a b
    | 4 => fMin 24 a b
    | 5 => fMax 24 a b
    | _ => 0
  else
    let t := if ty == 0 then 3 else ty
    match fn with
    | 0 => (a + b) % 2 ^ w
    | 1 => a &&& b
    | 2 => a ||| b
    | 3 => a ^^^ b
    | 4 => if readInt t b < readInt t a then b else a
    | _ => if readInt t a < readInt t b then b else a

/-- Identity(op) (R47). -/
def aluIdentity (fn ty : Nat) : Nat :=
  if ty == 10 then
    match fn with
    | 4 => 0x7F800000
    | 5 => 0xFF800000
    | _ => 0x80000000
  else
    match fn with
    | 1 => 0xFFFFFFFF
    | 4 => if ty == 7 then 0xFFFFFFFF else 0x7FFFFFFF
    | 5 => if ty == 7 then 0 else 0x80000000
    | _ => 0

/-- The new value of an atomic or reduction (11 R256): FN 6 exchanges, FN 7 compares bits. -/
def atomicNew (fn ty w old c expect : Nat) : Nat :=
  match fn with
  | 6 => c
  | 7 => if old == expect then c else old
  | _ => aluOp fn ty w old c

/-- A variance of n bits that a moment instruction writes: never −0 (02_numbers R44). -/
def plusZero (n x : Nat) : Nat := if x == 2 ^ (n - 1) then 0 else x

end Sys2Proof.Machine
end

