-- ==== Sys2Proof/Machine/Lines.lean ====
section
/-! DEFINITION. Lines, tokens, directories and logical time (10_line): what holders and homes do to one line, as named
operations on the state. A line is named by its number, the key of its first byte in `State.mem` div 128. -/

namespace Sys2Proof.Machine

/-! ### Keys: where a line's bytes lie in `State.mem` -/

/-- Byte `o` of the cluster-shared window of slot `k` (13 R281). -/
def keyCluster (k o : Nat) : Nat := 2 ^ 52 + k * 2 ^ 21 + o
/-- Address `a` of the peer module on coupling `k` (24 R447). -/
def keyPeer (k a : Nat) : Nat := 2 ^ 53 + k * 2 ^ 47 + a
/-- Host physical address `a` (R447). -/
def keyHost (a : Nat) : Nat := 2 ^ 60 + a

/-- The coupling whose peer memory holds the byte. -/
def couplingOf (key : Nat) : Option Nat :=
  if 2 ^ 53 ≤ key && key < 2 ^ 53 + 24 * 2 ^ 47 then some ((key - 2 ^ 53) / 2 ^ 47) else none

/-- The byte lies in host memory. -/
def inHost (key : Nat) : Bool := decide (2 ^ 60 ≤ key)

/-- The die that owns the memory behind a physical address (21 R402). -/
def dieOfPa (pa : Nat) : Nat :=
  if pa < 2 ^ 39 then pa / 2 ^ 36 / 2
  else if pa < 2 ^ 43 then (pa - 2 ^ 40) / 2 ^ 36 / 24
  else (pa - 2 ^ 43) / 2 ^ 25

/-- A physical address of R402. -/
def paExists (pa : Nat) : Bool :=
  pa < 2 ^ 39 || (2 ^ 40 ≤ pa && pa < 0x7000000000 * 16) || (2 ^ 43 ≤ pa && pa < 2 ^ 43 + 4 * 2 ^ 25)

/-- The slice of a line (R214). -/
def sliceOf (ln : Nat) : Nat :=
  (mix32 (BitVec.ofNat 32 ln ^^^ BitVec.ofNat 32 (ln / 2 ^ 32))).toNat % 96

/-- The members that the lines of a cluster slot's window are homed at: those that a regroup event past its promotion
point gives it, else its own (13 R278, R281, R282). -/
def windowMembers (s : State) (k : Nat) : List Nat :=
  match (s.die (k / 48)).regroup with
  | some r =>
    if r.promoted then match r.sets.find? fun x => x.slot == k with
      | some x => x.members
      | none => (s.slot k).members
    else (s.slot k).members
  | none => (s.slot k).members

/-- The home of a line (R214): slice 96·d + s of the package; 384 + k stands for the module behind coupling k, 408
for the host. -/
def homeOf (s : State) (ln : Nat) : Nat :=
  let key := ln * 128
  if key < 2 ^ 52 then 96 * dieOfPa key + sliceOf ln
  else if key < 2 ^ 53 then
    let k := (key - 2 ^ 52) / 2 ^ 21
    let mem := windowMembers s k
    mem.getD ((key - 2 ^ 52) % 2 ^ 21 / 128 % (if mem.length == 0 then 1 else mem.length)) 0
  else match couplingOf key with
    | some k => 384 + k
    | none => 408

/-! ### Routes (01_device R14, R15) -/

/-- The two dies that boundary b joins; `out` of its `LinkId` leads from the first to the second (R14). -/
def boundaryDies (b : Nat) : Nat × Nat :=
  match b with
  | 0 => (0, 1)
  | 1 => (2, 3)
  | 2 => (0, 2)
  | _ => (1, 3)

/-- The directed links from die a to die b: the horizontal boundary of a's row first, then the vertical one of b's column
(R15). -/
def route (a b : Nat) : List LinkId :=
  (if a % 2 == b % 2 then [] else [.boundary (a / 2) (a % 2 == 0)]) ++
  (if a / 2 == b / 2 then [] else [.boundary (2 + b % 2) (a / 2 == 0)])

/-- The die at which a line's home, the coupling to it (6 a die, R24) or the host link (die 0, R24) stands. -/
def homeDie (s : State) (ln : Nat) : Nat :=
  let h := homeOf s ln
  if h < 384 then h / 96 else if h < 408 then (h - 384) / 6 else 0

/-- A link takes new traffic: it is UP, and its sender holds fewer than 128 flits (24 R443, R444). -/
def linkReady (s : State) (l : LinkId) : Bool := (s.link l).st == .up && (s.link l).buf.length < 128

/-- Every link of the route is ready. -/
def pathReady (s : State) (a b : Nat) : Bool := (route a b).all (linkReady s)

/-- The links that a request from die d for a line uses: to its home, and over the coupling behind which it lies; and those
of the answer. -/
def pathLinks (s : State) (d key : Nat) : List LinkId :=
  let h := homeDie s (key / 128)
  route d h ++ (match couplingOf key with
    | some k => [.coupling k true]
    | none => []) ++ route h d

/-! ### Logical time (R229, R234) -/

/-- Time `a` is before `b` (R229). -/
def before (a b : BitVec 16) : Bool :=
  let d := (b - a).toNat
  1 ≤ d && d ≤ 32767

/-- The later of two times (R229). -/
def maxT (a b : BitVec 16) : BitVec 16 := if before a b then b else a

/-- The home's floor (R234). -/
def Home.floor (h : Home) : BitVec 16 := h.nw - 16384
/-- A time as the home reads it (R234). -/
def Home.readTime (h : Home) (x : BitVec 16) : BitVec 16 := if before x h.floor then h.floor else x
/-- ABS (R234). -/
def Home.abs (h : Home) : BitVec 16 := maxT h.evrts h.floor

/-- Sets a core's clock and discards the lease copies whose rts is now before it (R229). -/
def setClock (s : State) (c : Nat) (x : BitVec 16) : State :=
  let k := s.core c
  s.setCore c { k with lclk := x, copies := k.copies.filter fun y => y.tokens != 0 || !before y.rts x }

/-- The clock moves to Max(clock, x) (R231, R233, 12 R268). -/
def raiseClock (s : State) (c : Nat) (x : BitVec 16) : State :=
  let k := s.core c
  if before k.lclk x then setClock s c x else s

/-- A core that contacts a home is pulled up to the home's floor (R235). -/
def contact (s : State) (c h : Nat) : State := raiseClock s c (s.home h).floor

/-- An acquire side discards the core's lease copies granted before it, except the copy it read (14 R303). -/
def discardLeases (s : State) (c : Nat) (keep : List Nat) : State :=
  let k := s.core c
  s.setCore c { k with copies := k.copies.filter fun y => y.tokens != 0 || keep.contains y.line }

/-! ### Copies -/

def copy? (s : State) (c ln : Nat) : Option Copy := (s.core c).copies.find? fun y => y.line == ln

def dropCopy (s : State) (c ln : Nat) : State :=
  let k := s.core c
  s.setCore c { k with copies := k.copies.filter fun y => !(y.line == ln) }

def putCopy (s : State) (c : Nat) (y : Copy) : State :=
  let k := s.core c
  s.setCore c { k with copies := (k.copies.filter fun z => !(z.line == y.line)) ++ [y] }

/-- Discards a lease copy of the line, where the core holds one (R217). -/
def dropLease (s : State) (c ln : Nat) : State :=
  match copy? s c ln with
  | some y => if y.tokens == 0 then dropCopy s c ln else s
  | none => s

/-- The core keeps copies: its BANKROLE assigns a bank group to CACHE (R219, 17 R329). System cores keep copies
(log 13). -/
def keepsCopies (s : State) (c : Nat) : Bool :=
  if c < 384 then
    match partOfCore s c with
    | some p => (List.range 32).any fun g => (s.part p).reg.bankrole.toNat / 4 ^ g % 4 == 3
    | none => true
  else true

/-- Breaks the reservations on a line of the groups on a core, except that of `keep` (R241). -/
def breakResv (s : State) (c ln : Nat) (keep : Option ThreadId) : State :=
  s.mapThreads fun th =>
    match th.resv with
    | some r => if th.core == c && r.line == some ln && some th.id != keep then { th with resv := none } else th
    | none => th

/-- Breaks the reservations on a line that are recorded at its home, except that of `keep`: those of cores that keep no copies
(R219, R241), and those on host memory (24 R447). -/
def breakHomeResv (s : State) (ln : Nat) (keep : Option ThreadId) : State :=
  s.mapThreads fun th =>
    match th.resv with
    | some r => if r.line == some ln && (!keepsCopies s th.core || inHost (128 * ln)) && some th.id != keep then { th with resv := none }
      else th
    | none => th

/-! ### The sharing monitor (13 R273) -/

/-- The key of an unordered pair. -/
def pairKey (c e : Nat) : Nat := if c < e then c * 512 + e else e * 512 + c

/-- Adds bytes to W(c, e), for distinct compute cores of one die and one partition; the count saturates. -/
def addShare (s : State) (c e n : Nat) : State :=
  if c == e || 384 ≤ c || 384 ≤ e || c / 96 != e / 96 || partOfCore s c != partOfCore s e || partOfCore s c == none then s
  else
    let d := s.die (c / 96)
    let w := tget 0 (pairKey c e) d.counts + n
    s.setDie (c / 96) { d with counts := tset (pairKey c e) (if w < 2 ^ 32 then w else 2 ^ 32 - 1) d.counts }

/-! ### The directory -/

/-- H0 and H1 (R225). -/
def dirIndex (way ln : Nat) : Nat :=
  let k : Word := if way == 0 then 0x243F6A88 else 0x85A308D3
  (mix32 (BitVec.ofNat 32 ln ^^^ BitVec.ofNat 32 (ln / 2 ^ 32) ^^^ k)).toNat % 2 ^ 14

/-- The entry of a line; a line with no entry reads as all tokens at home and rts = wts = ABS (R224). Times are read
through the floor (R234). -/
def Home.entry (h : Home) (ln : Nat) : DirEntry :=
  match h.dir.find? fun e => e.line == ln with
  | some e => { e with rts := h.readTime e.rts, wts := h.readTime e.wts }
  | none => { line := ln, way := 0, rts := h.abs, wts := h.abs }

def Home.hasEntry (h : Home) (ln : Nat) : Bool := h.dir.any fun e => e.line == ln

/-- Places an entry in a way; an occupant moves to its slot of the other way, and so on for `fuel` moves. The second
component is the entry still displaced (R225). -/
def placeEntry : Nat → DirEntry → List DirEntry → List DirEntry × Option DirEntry
  | fuel, e, dir =>
    match dir.find? fun o => o.way == e.way && dirIndex o.way o.line == dirIndex e.way e.line with
    | none => (e :: dir, none)
    | some o =>
      let dir1 := e :: dir.filter fun x => !(x.line == o.line)
      match fuel with
      | 0 => (dir1, some o)
      | n + 1 => placeEntry n { o with way := 1 - o.way } dir1

/-- Writes back an entry that the directory holds, or inserts it (R225). -/
def Home.insert (h : Home) (e : DirEntry) : Home × Option DirEntry :=
  if h.hasEntry e.line then ({ h with dir := h.dir.map fun x => if x.line == e.line then { e with way := x.way } else x }, none)
  else
    let free (w : Nat) : Bool := !(h.dir.any fun o => o.way == w && dirIndex w o.line == dirIndex w e.line)
    if free 0 then ({ h with dir := { e with way := 0 } :: h.dir }, none)
    else if free 1 then ({ h with dir := { e with way := 1 } :: h.dir }, none)
    else
      let (dir, out) := placeEntry 8 { e with way := 0 } h.dir
      ({ h with dir }, out)

/-- The cores to which a request that needs holders is sent (R224). -/
def DirEntry.targets (e : DirEntry) : List Nat :=
  match e.dies with
  | none => e.holders
  | some v => (List.range 400).filter fun c => v.getLsbD (dieOfCore c)

/-- Records a holder: four pointers, then the die vector (R224). -/
def DirEntry.addHolder (e : DirEntry) (c : Nat) : DirEntry :=
  match e.dies with
  | some v => { e with dies := some (v ||| (1#4 <<< dieOfCore c)) }
  | none =>
    if e.holders.contains c then e
    else if e.holders.length < 4 then { e with holders := e.holders ++ [c] }
    else { e with holders := [], dies := some ((e.holders ++ [c]).foldl (fun v x => v ||| (1#4 <<< dieOfCore x)) 0) }

/-- Forgets a holder that has no token left; all tokens at home clear the holders (R243). -/
def DirEntry.dropHolder (e : DirEntry) (c : Nat) : DirEntry :=
  if e.tokens == 512 then { e with holders := [], dies := none }
  else { e with holders := e.holders.filter fun x => !(x == c) }

/-- The stamp of a write with clock `c` (R231, R238). -/
def DirEntry.stamp (e : DirEntry) (c : BitVec 16) : DirEntry :=
  let w := maxT (e.rts + 1) c
  { e with wts := w, rts := w }

/-! ### Tokens on the move -/

/-- The bytes of a line at home. -/
def homeBytes (s : State) (ln : Nat) : List Byte := s.mem.readBytes (ln * 128) 128

/-- Tokens, and dirty data with its owner's clock, reach home (R238, R243), on their way to an active persistent requester
(R223). The entry is one the directory holds. -/
def absorb (s : State) (ln core tokens : Nat) (data : Option (List Byte)) (clock : BitVec 16) : State :=
  let hi := homeOf s ln
  let h := s.home hi
  let e0 := h.entry ln
  let e1 := match data with
    | some _ => e0.stamp clock
    | none => e0
  let kept := match copy? s core ln with
    | some y => y.tokens != 0
    | none => false
  let e2 := { e1 with tokens := e1.tokens + tokens }
  let e2 := if kept && e2.tokens != 512 then e2 else e2.dropHolder core
  let h1 := { (h.insert e2).1 with nw := maxT h.nw e2.wts }
  let s1 := s.setHome hi h1
  let s2 := match data with
    | some bs => { s1 with mem := s1.mem.writeBytes (ln * 128) bs }
    | none => s1
  if e0.persistent.isSome then s2.push (.persistentForward core ln) else s2

/-- Messages that carry tokens of the line arrive (R221, R243). -/
def settle (s : State) (ln : Nat) : State :=
  let ms := s.msgs.filter fun m => m.line == ln
  ms.foldl (fun s m => absorb s ln m.core m.tokens m.data m.clock) { s with msgs := s.msgs.filter fun m => !(m.line == ln) }

/-- A holder gives up `n` of its tokens of a line to home (all when it holds no more), its dirty data first (R222,
R238, R241, R242). -/
def giveTokens (s : State) (c ln n : Nat) : State :=
  match copy? s c ln with
  | none => s
  | some y =>
    if y.tokens == 0 then s
    else
      let k := if n < y.tokens then n else y.tokens
      let clk := (s.core c).lclk
      let s1 := breakResv s c ln none
      let s2 := if k == y.tokens then dropCopy s1 c ln
        else putCopy s1 c { y with tokens := y.tokens - k, dirty := false }
      absorb s2 ln c k (if y.dirty then some y.data else none) clk

/-- The core that holds all 512 tokens (R224). -/
def ownerOf (s : State) (ln : Nat) : Option Nat :=
  ((s.home (homeOf s ln)).entry ln).targets.find? fun c =>
    match copy? s c ln with
    | some y => y.tokens == 512
    | none => false

/-- Every holder gives up all its tokens (R222, R226). Lease copies stay. -/
def gatherAll (s : State) (ln : Nat) : State :=
  ((s.home (homeOf s ln)).entry ln).targets.foldl (fun s c => giveTokens s c ln 512) s

/-- A recall (R226): every copy with tokens is discarded, EVRTS rises, the entry goes. -/
def recallLine (s : State) (ln : Nat) : State :=
  let s1 := gatherAll (breakHomeResv (settle s ln) ln none) ln
  let hi := homeOf s1 ln
  let h := s1.home hi
  if h.hasEntry ln then
    s1.setHome hi { h with evrts := maxT h.evrts (h.entry ln).rts, dir := h.dir.filter fun e => !(e.line == ln) }
  else s1

/-- Makes sure that the directory holds an entry for the line (R225, R243 ABSENT); a line displaced for good is
recalled. -/
def ensureEntry (s : State) (ln : Nat) : State :=
  let hi := homeOf s ln
  let h := s.home hi
  if h.hasEntry ln then s
  else
    let (h1, out) := h.insert (h.entry ln)
    let s1 := s.setHome hi h1
    match out with
    | none => s1
    | some o =>
      let h2 := s1.home hi
      recallLine (s1.setHome hi { h2 with dir := o :: h2.dir }) o.line

/-- Reads and rewrites the entry of a line at its home; NW follows its times (R234). -/
def onEntry (s : State) (ln : Nat) (f : DirEntry → DirEntry) : State :=
  let s1 := ensureEntry s ln
  let hi := homeOf s1 ln
  let h := s1.home hi
  let e := f (h.entry ln)
  s1.setHome hi { (h.insert e).1 with nw := maxT (maxT h.nw e.wts) e.rts }

def entryOf (s : State) (ln : Nat) : DirEntry := (s.home (homeOf s ln)).entry ln

/-- The current bytes of a line: the owner's, or home's. -/
def lineBytes (s : State) (ln : Nat) : List Byte :=
  match ownerOf s ln with
  | some c => match copy? s c ln with
    | some y => y.data
    | none => homeBytes s ln
  | none => homeBytes s ln

/-- A request from die d for the line of a byte can be served: the links to its home and back are ready, and those between
home, requester and every recorded holder (R15, 24 R444). -/
def lineReachable (s : State) (d key : Nat) : Bool :=
  let ln := key / 128
  let h := homeDie s ln
  (pathLinks s d key).all (linkReady s) &&
  ((entryOf s ln).targets.filter fun c => (copy? s c ln).isSome).all fun c =>
    pathReady s h (dieOfCore c) && pathReady s (dieOfCore c) h && pathReady s (dieOfCore c) d

/-- A data flit enters a link's replay buffer, next in order to be sent (24 R442, R443). Its payload, whose layout the spec
does not give, is a free value (log 53). -/
def sendFlit (s : State) (l : LinkId) : State :=
  let x := s.link l
  let f := (x.nextSeq, Config.flitPayload s.free)
  ({ s with free := s.free + 1 }).setLink l { x with buf := x.buf ++ [f], resend := x.resend ++ [f], nextSeq := x.nextSeq + 1,
                                                     lastAck := if x.buf.isEmpty then s.t else x.lastAck }

/-- The flits of a request from die d for the line of a byte, and of its answer, one on each link of their routes (R15). -/
def sendCrossing (s : State) (d key : Nat) : State := (pathLinks s d key).foldl sendFlit s

/-- Merges bytes into the owner's copy at byte offset `o` of the line; the copy becomes dirty (R239). The
reservations on the line break, at the owner and at home (R219, R241). -/
def mergeAt (s : State) (c ln o : Nat) (bs : List Byte) : State :=
  match copy? s c ln with
  | some y => putCopy (breakResv (breakHomeResv s ln none) c ln none) c { y with dirty := true, data := spliceBytes y.data o bs }
  | none => s

/-- A write or operation performed at home on `n` bytes at `key`, with the writer's clock (R217, R231, R239, R243): with
an owner it is stamped and merged into the owner's copy; else clean holders are invalidated and the bytes written at home,
where a reservation of the writing group stays (R241). Answers the old value and wts. Without a clock the writer is hardware,
whose clock plays no part. -/
def opHome (s : State) (key n : Nat) (clock : Option (BitVec 16)) (keep : Option ThreadId) (f : Nat → Nat) :
    State × Nat × BitVec 16 :=
  let ln := key / 128
  let s1 := breakHomeResv (ensureEntry (settle s ln) ln) ln keep
  match ownerOf s1 ln with
  | some c =>
    let s2 := onEntry s1 ln fun e => e.stamp (clock.getD e.rts)
    let old := ofLeBytes (((lineBytes s2 ln).drop (key % 128)).take n)
    (mergeAt s2 c ln (key % 128) (leBytes n (f old)), old, (entryOf s2 ln).wts)
  | none =>
    let s2 := onEntry (gatherAll s1 ln) ln fun e => e.stamp (clock.getD e.rts)
    let old := s2.mem.readNat key n
    ({ s2 with mem := s2.mem.writeNat key n (f old) }, old, (entryOf s2 ln).wts)

/-- A write of the bytes `bs` performed at home, within one line. Answers wts. -/
def writeHome (s : State) (key : Nat) (bs : List Byte) (clock : Option (BitVec 16)) : State × BitVec 16 :=
  let r := opHome s key bs.length clock none fun _ => ofLeBytes bs
  (r.1, r.2.2)

/-- A read at home under wt (R216, R240): the owner's bytes, or home's. Keeps no copy and makes no stamp. -/
def readHome (s : State) (key n : Nat) : Nat :=
  let ln := key / 128
  ofLeBytes (((lineBytes (settle s ln) ln).drop (key % 128)).take n)

/-- Recalls a line (R226) and answers the times that it had then, the stamp of a returned dirty copy among them (R238). -/
def recallTimes (s : State) (ln : Nat) : State × BitVec 16 × BitVec 16 :=
  let s1 := gatherAll (settle s ln) ln
  let e := entryOf s1 ln
  (recallLine s1 ln, e.rts, e.wts)

/-- A line's times at its home are set: it is inserted with them (13 R282, 21 R412). -/
def setTimes (s : State) (ln : Nat) (rts wts : BitVec 16) : State :=
  onEntry s ln fun x => { x with rts, wts }

/-- Moves a line to a new key (21 R412): the line is recalled, its bytes, rts and wts move; what was there before is
recalled first, so that no copy hides the bytes. -/
def moveLine (s : State) (old new : Nat) : State :=
  let (s1, rts, wts) := recallTimes s old
  let bs := homeBytes s1 old
  let s2 := setTimes (recallLine s1 new) new rts wts
  { s2 with mem := s2.mem.writeBytes (new * 128) bs }

/-- A holder sends its tokens of the line home as a message, with its dirty data (R242 "Eviction, gating", R267).
A lease copy is dropped. -/
def sendHome (s : State) (c ln : Nat) : State :=
  match copy? s c ln with
  | none => s
  | some y =>
    let s1 := dropCopy (breakResv s c ln none) c ln
    if y.tokens == 0 then s1
    else
      let (n, s2) := s1.fresh
      { s2 with msgs := s2.msgs ++ [{ id := n, line := ln, core := c, tokens := y.tokens,
                                      data := if y.dirty then some y.data else none, clock := (s2.core c).lclk }],
                agenda := s2.agenda ++ [.tokenReturn n] }

/-- Every line of a core goes home (R236, 17 R331 step 3). -/
def sendAllHome (s : State) (c : Nat) : State :=
  ((s.core c).copies.map (·.line)).foldl (fun s ln => sendHome s c ln) s

end Sys2Proof.Machine
end

