-- ==== Sys2Proof/Machine/Translate.lean ====
section
/-! DEFINITION. The generic address space (21_page R399..R407): windows, page walks, permissions, the TLB, and the
reads and writes that hardware makes in a context. -/

namespace Sys2Proof.Machine

/-- What an access needs of a leaf (R404). -/
inductive Perm where
  | load
  | store
  | rmw
  | fetch
  /-- Nothing: line maintenance neither loads nor stores. -/
  | none
  deriving DecidableEq, Repr

/-- The fault kind of R415. -/
def Perm.kind : Perm → Nat
  | .load => 0
  | .store => 1
  | .rmw => 1
  | .fetch => 2
  | .none => 0

/-- DETAIL of a memory trap: kind in [1:0], walk level in [3:2] (22 R426). -/
def memDetail (kind level : Nat) : Nat := kind + 4 * level

/-- How a translation ends when it gives no leaf: a trap code and the level that decided, a page on the move (R413), or links
on the way to a byte that are not UP (24 R444). -/
inductive NoLeaf where
  | fault (code level : Nat)
  | moving (pte : Nat)
  | link (key : Nat)
  deriving DecidableEq, Repr

/-- Bytes a leaf of a level maps (R403). -/
def pageBytes (level : Nat) : Nat :=
  match level with
  | 1 => 2 ^ 30
  | 2 => 2 ^ 21
  | _ => 2 ^ 16

/-- Index of a generic address at a level (R403). -/
def walkIndex (va level : Nat) : Nat :=
  match level with
  | 0 => va / 2 ^ 39 % 2 ^ 13
  | 1 => va / 2 ^ 30 % 2 ^ 9
  | 2 => va / 2 ^ 21 % 2 ^ 9
  | _ => va / 2 ^ 16 % 2 ^ 5

/-- The fields of an entry that is a leaf (R404). -/
def leafOf (e pte level va : Nat) : Leaf :=
  { pte, level, page := va / pageBytes level * pageBytes level, dpol := e / 2 ^ 60 % 8, state := e / 2 ^ 58 % 4,
    loc := e / 2 ^ 56 % 4, xe := bitSet e 55, we := bitSet e 54, re := bitSet e 53,
    frame := e / 2 ^ 16 % 2 ^ 36 * 2 ^ 16 }

/-- The page overlaps a page of the partition's reservation pool (R401, R404). -/
def overlapsPool (pool frame bytes : Nat) : Bool :=
  frame < 2 ^ 39 && (List.range (bytes / 2 ^ 30 + 1)).any fun i => bitSet pool (frame / 2 ^ 30 + i) && (i == 0 || frame + i * 2 ^ 30 < frame + bytes)

/-- A leaf entry is malformed (R404, 24 R447). -/
def leafMalformed (x : Partition) (e level : Nat) (l : Leaf) : Bool :=
  bitSet e 63 || bitSet e 52 || e / 4 % 2 ^ 14 != 0 || l.dpol == 0 || 5 ≤ l.dpol || l.state == 3 ||
  l.frame % pageBytes level != 0 ||
  (if l.loc ≤ 1 then
    !(paExists l.frame && paExists (l.frame + pageBytes level - 1)) || overlapsPool x.rsvpool l.frame (pageBytes level)
   else if l.loc == 2 then 24 ≤ l.frame / 2 ^ 47 || !bitSet x.cpl (l.frame / 2 ^ 47)
   else false)

/-- The walk from a table of a level (R403, R404), made by a core of die `d`, or by a unit beside the table; `fuel` is the
levels left. An entry behind links that are not ready is waited for (24 R444). -/
def walkFrom (s : State) (x : Partition) (d : Option Nat) (va : Nat) : Nat → Nat → Nat → Except NoLeaf Leaf
  | 0, _, _ => .error (.fault PROT 3)
  | fuel + 1, level, table =>
    let pte := table + 8 * walkIndex va level
    let e := readHome s pte 8
    let next := e / 2 ^ 8 % 2 ^ 44 * 2 ^ 8
    if (match d with
      | some c => !lineReachable s c pte
      | none => false) then .error (.link pte)
    else if !bitSet e 0 then .error (.fault PAGE level)
    else if bitSet e 1 then
      let l := leafOf e pte level va
      if level == 0 || leafMalformed x e level l then .error (.fault PROT level) else .ok l
    else if level == 3 || e / 2 ^ 52 != 0 || e / 2 % 2 ^ 7 != 0 || !paExists next then .error (.fault PROT level)
    else walkFrom s x d va fuel (level + 1) next

/-- The page walk of a context (R403) by a core of die `d`, or by a unit of the hardware. -/
def walkOn (s : State) (d : Option Nat) (p ctx va : Nat) : Except NoLeaf Leaf :=
  let x := s.part p
  walkFrom s x d va 4 0 (tget {} ctx x.ctxs).root

/-- The page walk of a context by a unit of the hardware. -/
def walk (s : State) (p ctx va : Nat) : Except NoLeaf Leaf := walkOn s none p ctx va

/-- The leaf allows the access (R404). An atomic or reduction to host memory raises PROT (24 R447). -/
def Leaf.allows (l : Leaf) : Perm → Bool
  | .load => l.re
  | .store => l.we
  | .rmw => l.re && l.we && l.loc != 3
  | .fetch => l.xe
  | .none => true

/-- The key in `State.mem` of a generic address under its leaf (R402, 24 R447). -/
def Leaf.key (l : Leaf) (va : Nat) : Nat :=
  let pa := l.frame + (va - l.page)
  match l.loc with
  | 2 => keyPeer (l.frame / 2 ^ 47) (pa % 2 ^ 47)
  | 3 => keyHost pa
  | _ => pa

/-- The leaf of physical address `pa` for an access that is not translated: hypervisor mode (log 14). -/
def flatLeaf (pa : Nat) : Leaf :=
  { level := 3, page := pa / 2 ^ 16 * 2 ^ 16, dpol := 2, xe := true, we := true, re := true, frame := pa / 2 ^ 16 * 2 ^ 16 }

/-- The leaf of an address through a core's TLB (R406): a cached one, else a walk whose leaf is cached. STATE 01 waits
(R413). -/
def lookup (s : State) (core p ctx va : Nat) : Except NoLeaf Leaf × State :=
  let k := s.core core
  let id := 16 * p + ctx
  match k.tlb.find? fun e => e.ctxid == id && e.leaf.page == va / pageBytes e.leaf.level * pageBytes e.leaf.level with
  | some e => (.ok e.leaf, s)
  | none =>
    match walkOn s (some (dieOfCore core)) p ctx va with
    | .error e => (.error e, s)
    | .ok l =>
      if l.state == 1 then (.error (.moving l.pte), s)
      else (.ok l, s.setCore core { k with tlb := k.tlb ++ [{ ctxid := id, leaf := l }] })

/-- The leaf of an address for a thread, no permission asked (11 R252): in hypervisor mode addresses are physical
(log 14); else the thread's context. -/
def lookupFor (s : State) (th : Thread) (va : Nat) : Except NoLeaf Leaf × State :=
  match th.id with
  | .grp p _ _ => lookup s th.core p th.ctx va
  | .sys k =>
    if (s.sysCore k).mode == .hypervisor then
      (if paExists va then .ok (flatLeaf va) else .error (.fault PROT 0), s)
    else lookup s th.core (partOf s th.id) 0 va

/-- Translation for a thread with the permission that its access needs (R404). -/
def translateFor (s : State) (th : Thread) (va : Nat) (perm : Perm) : Except NoLeaf Leaf × State :=
  match lookupFor s th va with
  | (.ok l, s1) => (if l.allows perm then .ok l else .error (.fault PROT l.level), s1)
  | r => r

/-! ### Windows -/

/-- The region of a generic address by its top byte (R399); `none`: PROT (11 R247). -/
def regionOf (va : Nat) : Option BaseKind :=
  match va / 2 ^ 56 with
  | 0xFB => some .regWindow
  | 0xFC => some .chip
  | 0xFD => some .cluster
  | 0xFE => some .scratch
  | 0xFF => some .slice
  | _ => if va < 2 ^ 52 then some .global else none

/-- The kernel of a thread. -/
def kernelOf (s : State) (th : Thread) : Kernel :=
  match th.id with
  | .grp p k _ => (s.kernel? p k).getD {}
  | .sys _ => {}

/-- Byte `o` of the chip scratchpad array that DSEL names, from a core on die `d`: its physical address (R400). -/
def chipKey (k : Kernel) (d va : Nat) : Option Nat :=
  let dsel := va / 2 ^ 32 % 16
  let o := va % 2 ^ 32
  let die := if dsel == 0 then some d else if 8 ≤ dsel && dsel ≤ 11 then some (dsel - 8) else none
  if va / 2 ^ 36 % 2 ^ 20 != 0 then none
  else match die with
    | none => none
    | some e => if k.desc.chip ≤ o then none else (tget? e k.chipBase).map fun b => 2 ^ 43 + e * 2 ^ 25 + b + o

/-! ### What hardware reads and writes in a context -/

/-- Not a trap code: a page on the move or a link that is not UP, for which hardware's access waits (R413, 24 R444). -/
def WAITS : Nat := 0x100

/-- Hardware's access to a byte need not wait for the coupling behind which it lies. -/
def hwReady (s : State) (key : Nat) : Bool :=
  match couplingOf key with
  | some k => linkReady s (.coupling k true)
  | none => true

/-- The key of a generic address for hardware acting in a context, with a kernel's chip scratchpad (R399, R400). The
fault is a trap code, or WAITS. -/
def hwKey (s : State) (p ctx : Nat) (k : Kernel) (va : Nat) (perm : Perm) : Except Nat Nat :=
  match regionOf va with
  | some .global =>
    match walk s p ctx va with
    | .ok l =>
      if l.state == 1 then .error WAITS
      else if !l.allows perm then .error PROT
      else if !hwReady s (l.key va) then .error WAITS
      else .ok (l.key va)
    | .error (.fault c _) => .error c
    | .error _ => .error WAITS
  | some .chip =>
    match chipKey k (dieOfCore (k.cores.headD 0)) va with
    | some key => .ok key
    | none => .error BOUNDS
  | _ => .error PROT

/-- What hardware's access that WAITS waits for. -/
def hwWait (s : State) (p ctx va : Nat) : Cond :=
  match walk s p ctx va with
  | .ok l => if l.state == 1 then .moving l.pte else .link (l.key va)
  | .error _ => .link 0

/-- Reads n bytes, n a power of two at most 128 and the address aligned, at home under wt. -/
def hwRead (s : State) (p ctx : Nat) (k : Kernel) (va n : Nat) : Except Nat Nat :=
  match hwKey s p ctx k va .load with
  | .ok key => .ok (readHome s key n)
  | .error c => .error c

/-- Reads `cnt` items of n bytes each. -/
def hwReadList (s : State) (p ctx : Nat) (k : Kernel) (va n : Nat) : Nat → Except Nat (List Nat)
  | 0 => .ok []
  | cnt + 1 =>
    match hwRead s p ctx k va n with
    | .error c => .error c
    | .ok x =>
      match hwReadList s p ctx k (va + n) n cnt with
      | .error c => .error c
      | .ok xs => .ok (x :: xs)

/-- Writes n bytes at home under wt, stamped by R231. -/
def hwWrite (s : State) (p ctx : Nat) (k : Kernel) (va n x : Nat) : Except Nat State :=
  match hwKey s p ctx k va .store with
  | .ok key => .ok (writeHome s key (leBytes n x) none).1
  | .error c => .error c

/-- Writes a list of items of n bytes each, stopping at the first fault. -/
def hwWriteList (s : State) (p ctx : Nat) (k : Kernel) (va n : Nat) : List Nat → Except Nat State
  | [] => .ok s
  | x :: xs =>
    match hwWrite s p ctx k va n x with
    | .error c => .error c
    | .ok s1 => hwWriteList s1 p ctx k (va + n) n xs

/-- A physical read and write at home under wt (24 R446, 25 R457). -/
def paRead (s : State) (pa n : Nat) : Nat := readHome s pa n
def paWrite (s : State) (pa n x : Nat) : State := (writeHome s pa (leBytes n x) none).1

/-! ### The states of a link and the coupling records (24 R445, R446) -/

/-- The first byte of a partition's I/O table (24 R446). -/
def ioTable (s : State) (p : Nat) : Nat := (s.part p).reg.qtab.toNat + 0x400000

/-- The running partition that holds a coupling. -/
def partOfCoupling (s : State) (k : Nat) : Option Nat := (s.parts.find? fun e => e.2.running && bitSet e.2.cpl k).map (·.1)

/-- The code of a link's state in its record (R446). -/
def LinkState.code : LinkState → Nat
  | .disabled => 0
  | .training => 1
  | .up => 2
  | .retrain => 3
  | .down => 4

/-- The coupling's record shows its state, its entries into RETRAIN and its peer (R446). -/
def writeCoupling (s : State) (k : Nat) : State :=
  match partOfCoupling s k with
  | none => s
  | some p =>
    let a := ioTable s p + 0x40 + 32 * k
    let l := s.link (.coupling k true)
    paWrite (paWrite (paWrite s (a + 1) 1 l.st.code) (a + 8) 8 l.retrains) (a + 16) 8 l.peer.toNat

/-- The other direction of a link. -/
def reverse : LinkId → LinkId
  | .boundary b out => .boundary b (!out)
  | .coupling k out => .coupling k (!out)

/-- The two directions of a link take a state. -/
def setLinkState (s : State) (l : LinkId) (st : LinkState) (g : Link → Link) : State :=
  let both := [l, reverse l].foldl (fun s d => s.setLink d (g { s.link d with st, since := s.t })) s
  match l with
  | .coupling k _ => writeCoupling both k
  | .boundary _ _ => both

/-- ENABLE set to 1 (R445): a coupling DISABLED or DOWN trains. -/
def couplingEnable (s : State) (k : Nat) : State :=
  let st := (s.link (.coupling k true)).st
  if st == .disabled || st == .down then setLinkState s (.coupling k true) .training id else s

/-- A byte written at `key`: a 1 written to ENABLE in the record of a coupling that is DOWN makes it train again (24 R445). -/
def enableAgain (s : State) (key : Nat) (b : Byte) : State :=
  match (List.range 24).find? fun k => (s.link (.coupling k true)).st == .down && b.getLsbD 0 &&
      s.parts.any fun e => e.2.running && bitSet e.2.cpl k && key == ioTable s e.1 + 0x40 + 32 * k with
  | some k => couplingEnable s k
  | none => s

/-- Bytes written from `key` on. -/
def enableAgains (s : State) (key : Nat) (bs : List Byte) : State :=
  if s.links.any fun e => e.2.st == .down then
    ((List.range bs.length).foldl (fun s i => enableAgain s (key + i) (bs.getD i 0)) s)
  else s

/-! ### Protected bytes (03 R57) -/

/-- The pieces of `n` bytes at generic address `a` that lie in one 64 KiB page each: address and size. -/
def pieces (a n : Nat) : List (Nat × Nat) :=
  if n == 0 then []
  else (List.range ((a + n - 1) / 65536 + 1 - a / 65536)).map fun i =>
    let lo := if i == 0 then a else (a / 65536 + i) * 65536
    let hi := (a / 65536 + i + 1) * 65536
    (lo, (if a + n < hi then a + n else hi) - lo)

/-- The bytes of code object and ownership table that a running kernel protects (03 R57, 20 R390): the byte at `key`, by
whatever context and address it is written. A kernel that awaits its departure does not run yet. -/
def protectedByte (s : State) (key : Nat) : Bool :=
  s.parts.any fun e => e.2.kernels.any fun x =>
    let k := x.2
    k.depart.isNone &&
    (pieces k.desc.code.toNat k.size ++ if k.desc.det then pieces k.desc.ownt.toNat (2 ^ (k.desc.ownlog - 10)) else []).any
      fun y => match walk s e.1 k.ctx y.1 with
        | .ok l => l.key y.1 ≤ key && key < l.key y.1 + y.2
        | .error _ => false

end Sys2Proof.Machine
end

