-- ==== Sys2Proof/Machine/Ops.lean ====
section
/-! DEFINITION. Named operations over registers, status, queues and traps: reading and writing scalar registers (03 R66,
R68, 04 R96), STATUS (05 R137), pushing and popping carts (19 R355..R372), and TAKING AN EXCEPTION (22 R421, R425,
R426), one operation for every trap of every instruction, with the return from one beside it (R427, R436). -/

namespace Sys2Proof.Machine

/-! ### Scalar registers -/

/-- s n (R66). s63 reads as 0 (R68). -/
def Regs.readS (r : Regs) (n : Nat) : Word := if n == 63 then 0 else r.s.getD n 0

/-- x n: the pair s n, s (n + 1) (R66). -/
def Regs.readX (r : Regs) (n : Nat) : DWord := r.readS (n + 1) ++ r.readS n

/-- z n: the triple s n to s (n + 2) as one lane set (04, "The activity mask"). -/
def Regs.readZ (r : Regs) (n : Nat) : Mask := r.readS (n + 2) ++ r.readS (n + 1) ++ r.readS n

/-- Writes s n: s63 discards the write (R68); s60 to s62 take it under the launched lanes (04 R96), of which
a system core has none (log 2). -/
def Regs.writeS (r : Regs) (ll : Mask) (n : Nat) (x : Word) : Regs :=
  if n == 63 then r
  else if 60 ≤ n then { r with s := lset r.s n (x &&& ll.extractLsb' (32 * (n - 60)) 32) }
  else { r with s := lset r.s n x }

/-- Writes x n: bits [31:0] to s n, bits [63:32] to s (n + 1) (R66). -/
def Regs.writeX (r : Regs) (ll : Mask) (n : Nat) (x : DWord) : Regs :=
  (r.writeS ll n (x.extractLsb' 0 32)).writeS ll (n + 1) (x.extractLsb' 32 32)

/-- Writes z n. -/
def Regs.writeZ (r : Regs) (ll : Mask) (n : Nat) (z : Mask) : Regs :=
  ((r.writeS ll n (z.extractLsb' 0 32)).writeS ll (n + 1) (z.extractLsb' 32 32)).writeS ll (n + 2) (z.extractLsb' 64 32)

/-- The activity mask z60. -/
def Regs.mask (r : Regs) : Mask := r.readZ 60

/-- Writes STATUS.LAST of a status-reporting instruction; a nonzero code sets ERR (05 R137). -/
def Regs.setStatus (r : Regs) (code : Nat) : Regs :=
  { r with sr := { r.sr with statusLast := BitVec.ofNat 8 code, statusErr := r.sr.statusErr || code % 256 != 0 } }

/-- Eight words from s n on (19 R353). -/
def Regs.readCart (r : Regs) (n : Nat) : List Word := (List.range 8).map fun i => r.readS (n + i)

/-- Writes a cart to s n to s (n + 7). -/
def Regs.writeCart (r : Regs) (ll : Mask) (n : Nat) (ws : List Word) : Regs :=
  (List.range 8).foldl (fun r i => r.writeS ll (n + i) (ws.getD i 0)) r

/-- A write that an earlier instruction makes to the thread's registers now. It stands when a chain in progress is undone,
so the registers as the chain's head found them take it too (R75 undoes the chain's own writes only; R103). -/
def Thread.land (th : Thread) (g : Regs → Regs) : Thread :=
  { th with regs := g th.regs, chain := th.chain.map fun c => { c with saved := g c.saved } }

/-- Goes on after an instruction of `n` bytes. -/
def Thread.next (th : Thread) (n : Nat) : Thread :=
  { th with regs := { th.regs with pc := th.regs.pc + BitVec.ofNat 64 n } }

/-- A waiting instruction of `n` bytes completes: the thread goes on, READY (R86 Wake); one that is SAVED does so at its restore. -/
def Thread.answer (th : Thread) (n : Nat) : Thread :=
  if th.run == .saved then { th.next n with left := .ready, replay := none } else { th.next n with run := .ready, replay := none }

/-- Drops the scoreboard entries of a writer. -/
def Thread.clearPend (th : Thread) (tag : Nat) : Thread := { th with pend := th.pend.filter fun p => p.tag != tag }

/-- Every access of the thread has been performed (11 R265, R217). -/
def quietThread (s : State) (id : ThreadId) : Bool := !(s.accs.any fun a => a.th == id)

/-- An acquire side of the thread of scope other than `.grp`: the core's lease copies go (14 R303). -/
def acquireSide (s : State) (id : ThreadId) : State :=
  match s.thread? id with
  | some th => discardLeases s th.core []
  | none => s

/-! ### Queues -/

/-- The fields of a queue handle (19 R356). -/
def qIndex (h : DWord) : Nat := (h.extractLsb' 0 16).toNat
def qChk (h : DWord) : BitVec 24 := h.extractLsb' 16 24
def qPush (h : DWord) : Bool := h.getLsbD 40
def qPop (h : DWord) : Bool := h.getLsbD 41
def qStat (h : DWord) : Bool := h.getLsbD 42
def qMalformed (h : DWord) : Bool := (h.extractLsb' 43 21).toNat != 0

/-- STATUS codes (19 R359, 13 R289, 20 R380, 22 R419). -/
def stOk : Nat := 0x00
def stStale : Nat := 0x01
def stFull : Nat := 0x02
def stTimeUnsync : Nat := 0x03
def stFnack : Nat := 0x07
def stHandle : Nat := 0x08
def stNoTeam : Nat := 0x09
def stEmpty : Nat := 0x0A
def stClosed : Nat := 0x0B
def stUnderflow : Nat := 0x0C
def stHeld : Nat := 0x0D
def stNotHeld : Nat := 0x0E
def stNoFit : Nat := 0x0F
def stBadDesc : Nat := 0x10
def stBadTeam : Nat := 0x11
def stLate : Nat := 0x12
def stKilled : Nat := 0x13
def stPinned : Nat := 0x14
def stBusy : Nat := 0x15
def stBadMove : Nat := 0x16
def stNoGroup : Nat := 0x17
def stState : Nat := 0x18
def stBadImage : Nat := 0x19
def stConflict : Nat := 0x1A
def stBadPart : Nat := 0x1B
def stBadLen : Nat := 0x1C

/-- The queue that a handle names for partition `p`, or the code of the first check that fails: malformed or the right
missing, then STALE (R357, R371). -/
def findQueue (s : State) (p : Nat) (h : DWord) (right : Bool) : Except Nat Queue :=
  if qMalformed h || !right then .error stHandle
  else
    let i := qIndex h
    let x := s.part p
    match s.queue? (.table i) with
    | some q =>
      if q.part != p || i < x.qbase || x.qbase + x.qnum ≤ i || q.st == .free || q.st == .destroyed || q.code != qChk h then
        .error stStale
      else .ok q
    | none => .error stStale

/-- Carts a queue holds on all levels. -/
def Queue.count (q : Queue) : Nat := q.levels.foldl (fun n l => n + l.length) 0

def Queue.level (q : Queue) (l : Nat) : List QCart := q.levels.getD l []

def Queue.setLevel (q : Queue) (l : Nat) (cs : List QCart) : Queue := { q with levels := lset q.levels l cs }

/-- A queue of a kernel's data queue, or of the queue table, as CREATE or the launch leaves it: empty (R360, R374). -/
def freshQueue (id : QueueId) (p : Nat) : Queue := { id, part := p, st := .active, cap := 10 }

/-- One aging move (R362): the first due cart of the level, if the next level has room. -/
def ageLevel (now : Nat) (q : Queue) (l : Nat) : Queue :=
  if 3 ≤ l || q.stream then q
  else
    match (q.level l).find? fun c => c.since + 2 ^ 20 ≤ now with
    | none => q
    | some c =>
      if (q.level (l + 1)).length < 2 ^ q.cap then
        (q.setLevel l ((q.level l).erase c)).setLevel (l + 1) (q.level (l + 1) ++ [{ c with since := now }])
      else q

/-- When the next aging move out of level `l` comes, and its cart: the cart that has waited longest, if the next level has
room; not before `clk` (R362). -/
def agingOf (q : Queue) (clk l : Nat) : Option (Nat × QCart) :=
  if 2 ^ q.cap ≤ (q.level (l + 1)).length then none
  else match q.level l with
    | [] => none
    | c :: cs =>
      let first := cs.foldl (fun b x => if x.since < b.since then x else b) c
      some (if clk < first.since + 2 ^ 20 then first.since + 2 ^ 20 else clk, first)

/-- The aging move that comes first, no later than `now`: its time, and the queue after it. Of moves in one cycle the upper
level's is first, so that the room it makes counts (R362). -/
def ageMove (now clk : Nat) (q : Queue) : Option (Nat × Queue) :=
  if q.stream then none
  else
    let best := [2, 1, 0].foldl (fun (b : Option (Nat × Nat × QCart)) l => match b, agingOf q clk l with
      | some x, some y => some (if y.1 < x.1 then (y.1, l, y.2) else x)
      | none, some y => some (y.1, l, y.2)
      | b, none => b) none
    match best with
    | some (t, l, c) =>
      if t ≤ now then some (t, (q.setLevel l ((q.level l).erase c)).setLevel (l + 1) (q.level (l + 1) ++ [{ c with since := t }]))
      else none
    | none => none

/-- The aging moves up to `now`, `fuel` at most, each at its own time. -/
def ageMoves : Nat → Nat → Nat → Queue → Queue
  | 0, _, _, q => q
  | fuel + 1, now, clk, q => match ageMove now clk q with
    | some (t, q1) => ageMoves fuel now t q1
    | none => q

/-- The queue at mesh cycle `now`, every aging move made at its time (R362): a cart moves three times at most. What was blocked
when the queue was last brought up to date moves no earlier than that. -/
def ageQueue (now : Nat) (q : Queue) : Queue :=
  if now < q.agedTo then q
  else { ageMoves (3 * q.levels.flatten.length) now q.agedTo q with agedTo := now }

/-- The cart that a pop returns: the head of the highest level (R362), or, stream-ordered, the oldest cart whose stream
no group holds (R367); with the queue that is left. -/
def Queue.take (q : Queue) : Option (List Word × Queue) :=
  if q.stream then
    match (q.level 0).find? fun c => !(q.held.any fun h => h.1 == c.words.getD 3 0) with
    | some c => some (c.words, q.setLevel 0 ((q.level 0).erase c))
    | none => none
  else
    match [3, 2, 1, 0].find? fun l => !(q.level l).isEmpty with
    | some l => match q.level l with
      | c :: cs => some (c.words, q.setLevel l cs)
      | [] => none
    | none => none

/-- A pop in mesh cycle `now`: taken before the aging moves of that cycle, which may use the room it makes (R362). -/
def Queue.pop (now : Nat) (q : Queue) : Option (List Word × Queue) :=
  match (ageQueue (now - 1) q).take with
  | some (ws, q1) => some (ws, ageQueue now q1)
  | none => none

/-- Pops on the queue are held: UPD.HOLD of its partition, except on the queues that a TRAPQ names (22 R433). -/
def popsHeld (s : State) (q : Queue) : Bool :=
  (s.part q.part).reg.hold &&
  match q.id with
  | .table i => !((s.part q.part).ctxs.any fun e => e.2.trapq != 0 && qIndex e.2.trapq == i && qChk e.2.trapq == q.code)
  | .data _ _ _ => true

/-! ### Queues in memory (R355, R360) -/

/-- The hardware's own store of items of n bytes in partition `p`; nothing where the translation stops it. -/
def hwPut (s : State) (p a n : Nat) (vs : List Nat) : State :=
  match hwWriteList s p 0 {} a n vs with
  | .ok s' => s'
  | .error _ => s

/-- The address of a queue's descriptor (R355). -/
def descAddr (s : State) (p i : Nat) : Nat := (s.part p).reg.qtab.toNat / 2 ^ 12 % 2 ^ 40 * 2 ^ 12 + 64 * i

/-- The ring of a level, and its array of push times (R355). -/
def Queue.ringAt (q : Queue) (l : Nat) : Nat := q.ring.toNat + l * 2 ^ (q.cap + 5)
def Queue.timesAt (q : Queue) (l : Nat) : Nat := q.ring.toNat + 2 ^ (q.cap + 7) + l * 2 ^ (q.cap + 2)

/-- Writes the heads, tails and carts of a queue to its descriptor and ring (R355, R360 SWAP). -/
def swapOut (s : State) (q0 : Queue) : State :=
  let q := ageQueue (s.mesh - 1) q0
  match q.id with
  | .data _ _ _ => s
  | .table i =>
    let a := descAddr s q.part i
    let s1 := (List.range 4).foldl (fun s l =>
      paWrite (paWrite s (a + 16 + 8 * l) 4 0) (a + 20 + 8 * l) 4 ((q.level l).length % 2 ^ 32)) s
    let s2 := (List.range 4).foldl (fun s l =>
      let cs := q.level l
      hwPut (hwPut s q.part (q.ringAt l) 4 ((cs.map (·.words)).flatten.map (·.toNat))) q.part (q.timesAt l) 4
        (cs.map fun c => c.since % 2 ^ 32)) s1
    s2.setQueue { q with st := .swapped }

/-- Puts a queue back; a SWAPPED one lies in memory, where its carts are rewritten (R360). -/
def storeQueue (s : State) (q : Queue) : State := if q.st == .swapped then swapOut s q else s.setQueue q

/-- A level of a queue as its descriptor and ring in memory hold it; `none` where they cannot be read. A push time is the latest
mesh cycle so far with its 32 bits. -/
def ringLevel (s : State) (q : Queue) (desc l : Nat) : Option (List QCart) :=
  let head := paRead s (desc + 16 + 8 * l) 4
  let n := (paRead s (desc + 20 + 8 * l) 4 + 2 ^ 32 - head) % 2 ^ 32
  let one (i : Nat) : Option QCart :=
    let k := (head + i) % 2 ^ q.cap
    match hwReadList s q.part 0 {} (q.ringAt l + 32 * k) 4 8, hwRead s q.part 0 {} (q.timesAt l + 4 * k) 4 with
    | .ok ws, .ok x => some { words := ws.map (BitVec.ofNat 32), since := s.mesh - (s.mesh + 2 ^ 32 - x) % 2 ^ 32 }
    | _, _ => none
  ((List.range (if n < 2 ^ q.cap then n else 2 ^ q.cap)).map one).foldr (fun c r => match c, r with
    | some x, some xs => some (x :: xs)
    | _, _ => none) (some [])

/-- A SWAPPED queue reloaded from its descriptor and ring (R360). Where they cannot be read, the carts stay as the unit wrote
them (log 58). -/
def reload (s : State) (q : Queue) : Queue :=
  match q.id with
  | .data _ _ _ => q
  | .table i =>
    let a := descAddr s q.part i
    let q1 := { q with drops := BitVec.ofNat 32 (paRead s (a + 48) 4) }
    match ringLevel s q a 0, ringLevel s q a 1, ringLevel s q a 2, ringLevel s q a 3 with
    | some x, some y, some z, some w => { q1 with levels := [x, y, z, w] }
    | _, _, _, _ => q1

/-- The ACTIVE queues of the unit of die (index mod 4). -/
def unitActive (s : State) (u : Nat) : List Queue :=
  s.queues.filter fun q => q.st == .active && match q.id with
    | .table i => i % 4 == u
    | .data _ _ _ => false

/-- Room for one more ACTIVE queue in a unit, which holds 1024: where it is full, the ACTIVE queue with no waiting popper whose
last pop is oldest is swapped out (R360). `none`: every queue has a waiting popper. -/
def makeRoom (s : State) (u : Nat) : Option State :=
  let qs := unitActive s u
  if qs.length < 1024 then some s
  else
    match qs.filter fun q => q.waiters.isEmpty with
    | [] => none
    | q :: rest => some (swapOut s (rest.foldl (fun b x => if x.lastPop < b.lastPop then x else b) q))

/-- A queue that a pop or UNSWAP takes out of SWAPPED: reloaded, and ACTIVE where its unit has room (R360). -/
def unswapFor (s : State) (q : Queue) : State × Queue :=
  if q.st == .swapped then
    match makeRoom s (match q.id with
      | .table i => i % 4
      | .data _ _ _ => 0) with
    | some s1 =>
      let q1 := { reload s1 q with st := .active }
      (s1.setQueue q1, q1)
    | none => (s, reload s q)
  else (s, q)

/-! ### Push and pop -/

/-- Delivers a cart to a waiting or popping thread: registers, stream, STATUS 0x00, and the acquire (R372). -/
def deliver (s : State) (q : Queue) (id : ThreadId) (d : Nat) (ws : List Word) : State :=
  let s1 := storeQueue s { q with
    held := if q.stream then q.held ++ [(ws.getD 3 0, id)] else q.held, lastPop := s.mesh }
  let s2 := s1.onThread id fun th =>
    { th with regs := (th.regs.writeCart th.ll d ws).setStatus stOk,
              stream := if q.stream then some (q.id, ws.getD 3 0) else th.stream }
  acquireSide s2 id

/-- Answers every waiting popper of a queue with a code and no cart (R360). -/
def answerAll (s : State) (q : Queue) (code : Nat) : State :=
  q.waiters.foldl (fun s w => s.onThread w.1 fun th => { th.answer 8 with regs := (th.answer 8).regs.setStatus code })
    (s.setQueue { q with waiters := [] })

/-- A DRAINING queue with every level empty and no stream held is destroyed (R360). -/
def drainCheck (s : State) (id : QueueId) : State :=
  match s.queue? id with
  | some q => if q.st == .draining && q.count == 0 && q.held.isEmpty then
      answerAll (s.setQueue { q with st := .destroyed }) { q with st := .destroyed } stClosed
    else s
  | none => s

/-- Serves waiting poppers in the order of their pops, `fuel` at most (R361, R372). -/
def serveWaiters : Nat → State → QueueId → State
  | 0, s, _ => s
  | fuel + 1, s, id =>
    match s.queue? id with
    | none => s
    | some q0 =>
      if popsHeld s q0 || q0.waiters.isEmpty then s
      else
        let (s1, q) := unswapFor s q0
        match q.waiters, q.pop s1.mesh with
        | w :: ws, some (c, q1) =>
          let s2 := deliver s1 { q1 with waiters := ws } w.1 w.2 c
          serveWaiters fuel (s2.onThread w.1 fun th => th.answer 8) id
        | _, _ => s1

/-- Serves what it can and then takes the drain row (R360). -/
def serve (s : State) (id : QueueId) : State :=
  let n := match s.queue? id with
    | some q => q.waiters.length
    | none => 0
  drainCheck (serveWaiters n s id) id

/-- Appends a cart at the tail of its level (R371), or of level 0 of a stream-ordered queue; in a SWAPPED queue the cart
goes to the ring in memory (R360). Answers the STATUS code. -/
def pushCart (s : State) (q0 : Queue) (ws : List Word) (level : Nat) : Nat × State :=
  let q := ageQueue (s.mesh - 1) q0
  let l := if q.stream then 0 else level
  if q.st == .draining then (stClosed, s)
  else if 2 ^ q.cap ≤ (q.level l).length then (stFull, s)
  else (stOk, serve (storeQueue s (q.setLevel l (q.level l ++ [{ words := ws, since := s.mesh }]))) q.id)

/-- PRIO of a cart (R353). -/
def cartPrio (ws : List Word) : Nat := (ws.getD 0 0).toNat / 2 ^ 8 % 4

/-- `qpush` of a cart by partition `p` through a handle with the PUSH right (R371). -/
def pushHandle (s : State) (p : Nat) (h : DWord) (ws : List Word) : Nat × State :=
  match findQueue s p h (qPush h) with
  | .error c => (c, s)
  | .ok q => pushCart s q ws (cartPrio ws)

/-- Drops all carts, releases streams with no release ordering, answers waiting poppers STALE (R360 DISCARD, R368). -/
def discardQueue (s : State) (q : Queue) (st : QState) : State :=
  let q1 := { q with st, levels := [[], [], [], []], held := [] }
  let s1 := q.held.foldl (fun s h => s.onThread h.2 fun th => { th with stream := none }) (s.setQueue q1)
  answerAll s1 q1 stStale

/-- The group's stream is released (R368, R373). -/
def releaseStream (s : State) (id : ThreadId) : State :=
  match s.thread? id with
  | some th =>
    match th.stream with
    | none => s
    | some (qid, _) =>
      let s1 := s.setThread { th with stream := none }
      match s1.queue? qid with
      | some q => serve (s1.setQueue { q with held := q.held.filter fun h => !(h.2 == id) }) qid
      | none => s1
  | none => s

/-! ### Taking an exception -/

/-- A trap, a parking or a pre-emption of the thread: its reservation breaks, and an `srsv` in flight will record none (11
R264). -/
def breakOwnResv (s : State) (id : ThreadId) : State :=
  let s1 : State := { s with
    accs := s.accs.map fun a => if a.th == id && a.kind == .reserve then { a with noResv := true } else a }
  s1.onThread id fun th => { th with resv := none }

/-- The fields of TICKET (22 R426): GID, kernel number, sequence. -/
def ticketOf (id : ThreadId) (seq : Nat) : Nat :=
  match id with
  | .grp _ k g => g % 2 ^ 14 + k % 64 * 2 ^ 14 + seq % 16 * 2 ^ 20
  | .sys _ => 0

/-- The eight words of a 256-bit cart value. -/
def cartWords (x : Nat) : List Word := (List.range 8).map fun i => BitVec.ofNat 32 (x / 2 ^ (32 * i))

/-- The trap cart (22 R426). -/
def trapCart (head code detail ticket iaddr daddr lanes : Nat) : List Word :=
  cartWords (2 + head % 16 * 2 ^ 4 + 3 * 2 ^ 8 + code % 16 * 2 ^ 10 + detail % 256 * 2 ^ 16 + ticket % 2 ^ 24 * 2 ^ 24 +
    iaddr % 2 ^ 52 * 2 ^ 48 + daddr % 2 ^ 52 * 2 ^ 100 + lanes % 2 ^ 96 * 2 ^ 160)

/-- Pushes a trap cart at level 3 to TRAPQ of a context, the rights check skipped; `none` where it is refused (R425). -/
def offerTrapCart (s : State) (p ctx : Nat) (ws : List Word) : Option State :=
  match findQueue s p (tget {} ctx (s.part p).ctxs).trapq true with
  | .error _ => none
  | .ok q =>
    match pushCart s q ws 3 with
    | (0, s1) => some s1
    | _ => none

/-- Pushes a trap cart at level 3 to TRAPQ of a group's context, the rights check skipped; a refused push is kept for a
retry 4096 mesh cycles later (R425). -/
def sendTrapCart (s : State) (id : ThreadId) (ws : List Word) : State :=
  match s.thread? id, id with
  | some th, .grp p _ _ =>
    match offerTrapCart s p th.ctx ws with
    | some s1 => s1
    | none => s.setThread { th with carts := th.carts ++ [(ws, s.t + 5120)] }
  | _, _ => s

/-- The traps whose resume point is the next instruction (R119). -/
def resumesNext (code : Nat) : Bool := code == SWTRAP || code == BREAK

/-- Records a trap as outstanding under the next sequence number and sends its cart (R425, R427). -/
def raiseCart (s : State) (id : ThreadId) (object : TrapObject) (head code detail iaddr daddr lanes : Nat) : State :=
  match s.thread? id with
  | none => s
  | some th =>
    let seq := th.trapSeq
    let s1 := s.setThread { th with trapSeq := (seq + 1) % 16,
                                    traps := (th.traps.filter fun r => r.seq != seq) ++
                                      [{ seq, object, past := object == .group && resumesNext code }] }
    sendTrapCart s1 id (trapCart head code detail (ticketOf id seq) iaddr daddr lanes)

/-- The mode that handles a trap taken in a mode (22 R421); `call` says that it is a `sysc` call. -/
def handlerMode (m : Mode) (code : Nat) (call : Bool) : Mode :=
  match m with
  | .user => .supervisor
  | .supervisor => if code == PRIV || call then .hypervisor else .supervisor
  | .hypervisor => .hypervisor

/-- Entry of a trap on system core k (R421): the handling mode's bank takes EPC, ECAUSE, EADDR and ESTAT.PM; the mode
changes and the pc takes the vector. -/
def enterTrap (s : State) (k code detail daddr : Nat) (epc : DWord) (call : Bool) : State :=
  let c := s.sysCore k
  let bank : Bank := { epc, detail := BitVec.ofNat 8 detail, code := BitVec.ofNat 8 code, eaddr := BitVec.ofNat 64 daddr,
                       pm := c.mode }
  let m := handlerMode c.mode code call
  let c1 := if m == .hypervisor then { c with mode := m, hyp := bank } else { c with mode := m, sup := bank }
  let vec := if m == .hypervisor then c.hvec else c.svec
  (breakOwnResv (s.setSysCore k c1) (.sys k)).onThread (.sys k) fun th =>
    { th with regs := { th.regs with pc := vec, lats := [] }, chain := none, run := .ready }

/-- TAKING A TRAP. In a group: the chain's writes are undone (03 R75), the reservation breaks (11 R264), the trap cart
goes to TRAPQ, and the group is WAITING on "trap" (04 R86); the lanes that a replay still owes stay (04 R109). On a system
core: `enterTrap`, with the address of the trapping instruction itself in EPC (22 R421; log 52). -/
def takeTrap (s : State) (id : ThreadId) (code detail daddr : Nat) (lanes : Mask) : State :=
  match id with
  | .sys k =>
    match s.thread? id with
    | none => s
    | some th =>
      let undone := (th.chain.map (·.saved)).getD th.regs
      let epc := if resumesNext code then th.regs.pc + 8 else th.regs.pc
      enterTrap (s.setThread { th with regs := undone }) k code detail daddr epc false
  | .grp _ _ _ =>
    match s.thread? id with
    | none => s
    | some th =>
      let iaddr := th.regs.pc
      let undone := (th.chain.map (·.saved)).getD th.regs
      let regs := if resumesNext code then { undone with pc := iaddr + 8 } else undone
      let head := match th.chain with
        | some c => (iaddr - c.head).toNat / 8
        | none => 0
      let s1 := s.setThread { th with regs := { regs with lats := [] }, chain := none, run := .waiting .trap,
                                      replay := if resumesNext code then none else th.replay }
      raiseCart (breakOwnResv s1 id) id .group head code detail iaddr.toNat daddr lanes.toNat

/-- PARKING on PAGE (04 R108, 21 R415): the group keeps the unfinished lanes and is PARKED. Where the fetch of a replay
faults, its cart names no lane (21 R415) and the lanes that the replay owes stay (04 R109). On a system core PAGE is an
ordinary trap (22 R421). -/
def takePark (s : State) (id : ThreadId) (detail daddr : Nat) (u : Mask) : State :=
  match id with
  | .sys _ => takeTrap s id PAGE detail daddr 0
  | .grp _ _ _ =>
    match s.thread? id with
    | none => s
    | some th =>
      let iaddr := th.regs.pc
      let undone := (th.chain.map (·.saved)).getD th.regs
      let head := match th.chain with
        | some c => (iaddr - c.head).toNat / 8
        | none => 0
      let s1 := s.setThread { th with regs := { undone with lats := [] }, chain := none, run := .parked,
                                      u := if u == 0 then th.replay.getD 0 else u, replay := none }
      raiseCart (breakOwnResv s1 id) id .parked head PAGE detail iaddr.toNat daddr u.toNat

/-- Stalls the issuing thread (04 R86); a member after a chain's head waits in ISSUING (R87). -/
def stall (s : State) (id : ThreadId) (c : Cond) : State :=
  s.onThread id fun th => { th with run := if th.chain.isSome then .issuing else .waiting c }

/-- The outcome of an instruction of thread `id` that answered `r`: the machine always goes on. -/
def conclude (s : State) (id : ThreadId) (r : Res State) : Host.Outcome State Fault Refusal :=
  match r with
  | .ok s1 => .next s1
  | .error (.trap code detail daddr lanes) => .next (takeTrap s id code detail daddr lanes)
  | .error (.park detail daddr u s1) => .next (takePark s1 id detail daddr u)
  | .error (.wait c) => .next (stall s id c)
  | .error (.parkWait s1) => .next s1

/-- RETURN FROM A TRAP on system core k (22 R436): the pc takes EPC of the current mode's bank and the mode ESTAT.PM;
a PM above the current mode raises PRIV. -/
def returnFromTrap (s : State) (k : Nat) : Res State :=
  let c := s.sysCore k
  match c.mode with
  | .user => trap PRIV
  | .supervisor =>
    if c.sup.pm == .hypervisor then trap PRIV
    else .ok ((s.setSysCore k { c with mode := c.sup.pm }).onThread (.sys k) fun th => { th with regs := { th.regs with pc := c.sup.epc } })
  | .hypervisor =>
    .ok ((s.setSysCore k { c with mode := c.hyp.pm }).onThread (.sys k) fun th => { th with regs := { th.regs with pc := c.hyp.epc } })

end Sys2Proof.Machine
end

