-- ==== Sys2Proof/Machine/Flags.lean ====
section
/-! DEFINITION. Format tags (04_group R94, R95), the conditions of compares (03 R64), and the status codes that computing
instructions report (05 R137, 07 R175, R178). -/

namespace Sys2Proof.Machine

/-! ### Tags (R94) -/

def RAW : Tag := 0
def I32 : Tag := 1
def N32 : Tag := 2
def F32 : Tag := 3
def BF16X2 : Tag := 4
def I16X2 : Tag := 5
def N16X2 : Tag := 6
def I8X4 : Tag := 7
def N8X4 : Tag := 8
def Q4X8 : Tag := 9
def MOM : Tag := 10
def ACC : Tag := 11
def MACC : Tag := 12

/-- The tag of an integer type code (06 R142); code 0 is `.i32`. -/
def tagOfInt (ty : BitVec 4) : Tag :=
  match ty.toNat with
  | 1 => I8X4
  | 2 => I16X2
  | 5 => N8X4
  | 6 => N16X2
  | 7 => N32
  | _ => I32

/-- The tag of any type code that a vector register can hold (06 R150, 07 R162); code 0 is left to the entry. -/
def tagOfTy (ty : BitVec 4) : Tag :=
  match ty.toNat with
  | 9 => BF16X2
  | 10 => F32
  | 11 => Q4X8
  | _ => tagOfInt ty

/-- The tag of a float form (07 R162). -/
def tagOfFloat (ty : BitVec 4) : Tag := if ty == 9 then BF16X2 else F32

/-- The tag check of a source (R95): RAW matches every expectation; codes 13 to 15 match none. -/
def tagOk (expected : List Tag) (t : Tag) : Bool := t == RAW || (t.toNat ≤ 12 && expected.contains t)

/-- A source that expects "any" (R95). -/
def tagAny (t : Tag) : Bool := t.toNat ≤ 12

/-- Raises TAG unless the check holds. -/
def needTag (ok : Bool) : Res Unit := if ok then .ok () else trap TAG

/-! ### Conditions (R64) -/

/-- An integer condition on values read in the instruction's type. -/
def intCond (cond : Nat) (a b : Int) : Bool :=
  match cond with
  | 0 => a == b
  | 1 => a != b
  | 2 => decide (a < b)
  | 3 => decide (a ≤ b)
  | 4 => decide (b < a)
  | _ => decide (b ≤ a)

/-! ### Status codes (07 R175, R178) -/

def stQNan : Nat := 0x04
def stQRange : Nat := 0x05
def stQSat : Nat := 0x06

end Sys2Proof.Machine
end

