-- ==== Sys2Proof/Decode.lean ====
section
/-! DEFINITION. Decoding (03_encoding R54..R81): the layout of a word, the operand classes, one `Row` per encoding
entry of the spec (04 R110, 05 R122 and R131, 06 R144, 07 R164, 09 R191, 11 R251, 13 R289, 16 R325, 17 R342, 19 R370,
20 R396, 21 R408, 22 R434), the checks of R81 steps 2 to 7, and the encoder written from the same entries. -/

namespace Sys2Proof

/-- The operand classes of R66 as an encoding entry names them. `vd` and `sd` are V and S as destinations, which
take no latch and no special code; `cart` is a field of R370. -/
inductive Cls where
  | none
  | v
  | vd
  | s
  | sd
  | x
  | z
  | m
  | t
  | tm
  | br
  | cart
  deriving DecidableEq, Repr, Inhabited

/-- What AX holds (R59, R65). -/
inductive AxKind where
  /-- Reserved, 0. -/
  | zero
  /-- Any value below the bound. -/
  | below (bound : Nat)
  /-- Policy and scope (R65). -/
  | ps
  /-- Scope, with POL 0. -/
  | scope
  deriving DecidableEq, Repr, Inhabited

/-- How an instruction may stand in a chain (R71). -/
inductive ChainRole where
  | no
  | member
  | tail
  deriving DecidableEq, Repr, Inhabited

/-- One encoding entry, for the FN, length, TY and AX that the fields show. -/
structure Row where
  /-- Major opcode (R76). -/
  op : Nat
  /-- FN values that the entry assigns (R77). -/
  fns : List Nat := [0]
  /-- Lengths that the entry accepts (R62). -/
  lens : List Len := [.w64]
  d : Cls := .none
  a : Cls := .none
  b : Cls := .none
  c : Cls := .none
  ea : Cls := .none
  eb : Cls := .none
  ec : Cls := .none
  ed : Cls := .none
  /-- EI[15:0] and EI[31:16] are used (R61). -/
  eiLo : Bool := false
  eiHi : Bool := false
  /-- B is taken from the immediate in the longer forms (R60). -/
  immB : Bool := false
  tys : List Nat := [0]
  mos : List Nat := [0]
  ax : AxKind := .zero
  /-- ND = 1 is legal (R74). -/
  nd : Bool := false
  chain : ChainRole := .no
  /-- Executed on system cores (R79). -/
  sys : Bool := false
  /-- Raises PRIV in user mode (R80). -/
  priv : Bool := false
  /-- The entry's further demands on the fields that raise ILLEGAL. -/
  extra : Bool := true
  deriving DecidableEq, Repr

/-- Why a word is not an instruction: the check of R81 that it fails. All raise ILLEGAL. -/
inductive DecodeError where
  /-- Fewer bytes than the base word: no instruction begins here. -/
  | truncated
  /-- R55: the slot crosses a 32-byte boundary. -/
  | crossesBlock
  /-- R54: the pad word is not zero. -/
  | padNonzero
  /-- R77: the opcode assigns no such FN. -/
  | unassignedFn
  /-- R62: the entry does not accept the length. -/
  | lenNotAccepted
  /-- R63: TY is reserved or not accepted. -/
  | badType
  /-- R64: MO is reserved or not accepted. -/
  | badMode
  /-- R65: AX is reserved or not accepted. -/
  | badAx
  /-- R61: an unused extended field is not zero. -/
  | badExtended
  /-- R66, R67: an operand code illegal for its class, or an unused operand field that is not zero. -/
  | badOperand
  /-- R74: the rules of ND. -/
  | badNd
  /-- The entry's own demand, such as an immediate that does not fit its element (R143). -/
  | badEntry
  deriving DecidableEq, Repr, Inhabited

/-! ### Operand codes -/

/-- Code `x` is legal in a field of class `c`; `bcast` says whether code 252 is (R66, R67). -/
def Cls.accepts (c : Cls) (bcast : Bool) (x : BitVec 8) : Bool :=
  let n := x.toNat
  match c with
  | .none => n == 0
  | .v => n ≤ 251 || (n == 252 && bcast) || n == 253 || n == 254
  | .vd => n ≤ 247
  | .s => n < 64 || (248 ≤ n && n ≤ 251)
  | .sd => n < 64
  | .x => n < 64 && n % 2 == 0
  | .z => n ≤ 60 && n % 3 == 0
  | .m => n < 32
  | .t => n < 8
  | .tm => n < 8 && n % 2 == 0
  | .br => n < 8
  | .cart => n ≤ 48 && n % 8 == 0

/-- The entry takes B from the immediate in this form (R60). -/
def Row.bImm (r : Row) (f : Fields) : Bool := r.immB && f.len != .w64

/-- The class of field B in this form: reserved where the immediate stands for it (R60). -/
def Row.bCls (r : Row) (f : Fields) : Cls := if r.bImm f then .none else r.b

/-- Field A or B broadcasts a scalar (R67). -/
def Row.usesBcast (r : Row) (f : Fields) : Bool :=
  (r.a == .v && f.a == 252) || (r.bCls f == .v && f.b == 252)

/-- AX is accepted (R65 and the entry). -/
def AxKind.accepts (k : AxKind) (ax : BitVec 8) : Bool :=
  let n := ax.toNat
  match k with
  | .zero => n == 0
  | .below bound => n < bound
  | .ps => n < 64 && n % 8 ≤ 4 && n / 8 ≤ 4
  | .scope => n < 64 && n % 8 == 0 && n / 8 ≤ 4

/-- The field C is legal: a scalar register where A or B is code 252, else its own class (R67). -/
def Row.acceptsC (r : Row) (f : Fields) : Bool :=
  if r.usesBcast f then r.c == .none && f.c.toNat < 64 else r.c.accepts false f.c

/-- The immediate bits agree with the length and with the extended fields the entry uses (R60, R61). -/
def Row.acceptsImm (r : Row) (f : Fields) : Bool :=
  match f.len with
  | .w64 => f.imm == 0
  | .w96 => f.imm.toNat < 2 ^ 32
  | .w128 =>
    if r.op / 16 == 14 then
      r.ea.accepts false f.ea && r.eb.accepts false f.eb && r.ec.accepts false f.ec && r.ed.accepts false f.ed &&
      (r.eiLo || f.ei.toNat % 65536 == 0) && (r.eiHi || f.ei.toNat / 65536 == 0)
    else true

/-- R81 steps 5 to 7 on decoded fields, and the entry's FN (step 4). -/
def Row.check (r : Row) (f : Fields) : Except DecodeError Unit :=
  if !r.fns.contains f.fn.toNat then .error .unassignedFn
  else if !r.lens.contains f.len then .error .lenNotAccepted
  else if !r.tys.contains f.ty.toNat then .error .badType
  else if !r.mos.contains f.mo.toNat then .error .badMode
  else if !r.ax.accepts f.ax then .error .badAx
  else if !r.acceptsImm f then .error .badExtended
  else if f.nd && (!r.nd || f.d != 0) then .error .badNd
  else if !(r.d.accepts false f.d && r.a.accepts true f.a && (r.bCls f).accepts true f.b && r.acceptsC f) then
    .error .badOperand
  else if !r.extra then .error .badEntry
  else .ok ()

/-- The fields are those of a legal instruction of this entry. -/
def Row.legal (r : Row) (f : Fields) : Bool :=
  match r.check f with
  | .ok _ => true
  | .error _ => false

/-! ### The entries -/

/-- The type set "int" of R142. -/
def tysInt : List Nat := [0, 1, 2, 3, 5, 6, 7]
/-- The 32-bit integer types of R144. -/
def tysI32 : List Nat := [0, 3, 7]
/-- The types of the scalar integer block (R120). -/
def tysScalar : List Nat := [0, 3, 4, 7, 8]
/-- The float types of R162. -/
def tysFloat : List Nat := [0, 9, 10]
/-- The tags that R150 and R253 name. -/
def tysTag : List Nat := [0, 1, 2, 3, 5, 6, 7, 9, 10, 11]
/-- Order codes of loads, of stores and reductions, and of atomics (R265). -/
def ordLoad : List Nat := [0, 1, 4]
def ordStore : List Nat := [0, 2, 4]
def ordAtomic : List Nat := [0, 1, 2, 3, 4]

/-- Types 4 and 8 are 64 bits wide (R120, R254). -/
def wide (ty : BitVec 4) : Bool := ty == 4 || ty == 8
/-- Class T of R120, as a source and as a destination. -/
def clsT (ty : BitVec 4) : Cls := if wide ty then .x else .s
def clsTd (ty : BitVec 4) : Cls := if wide ty then .x else .sd
/-- A 96-bit or 64-bit form. -/
def lens6496 : List Len := [.w64, .w96]
/-- The lengths of a scalar integer form with an immediate (R62, R121). -/
def lensScalar (ty : BitVec 4) : List Len := if wide ty then [.w64, .w96, .w128] else [.w64, .w96]

/-- Element width of an integer type (R142). -/
def intWidth (ty : BitVec 4) : Nat :=
  match ty.toNat with
  | 1 | 5 => 8
  | 2 | 6 => 16
  | 4 | 8 => 64
  | _ => 32

/-- i types read two's complement; n types read natural (R120, R142). -/
def isSigned (ty : BitVec 4) : Bool := ty.toNat ≤ 4

/-- R143: IMM32 is the element's extension by the type. -/
def immFits (f : Fields) : Bool :=
  f.len == .w64 ||
    (let w := intWidth f.ty
     let e := f.imm32.toNat % 2 ^ w
     let x := if isSigned f.ty && e ≥ 2 ^ (w - 1) then e + (2 ^ 32 - 2 ^ w) else e
     f.imm32.toNat == x)

/-- R163: under bf16 the upper half of IMM32 is 0. -/
def immFitsFloat (f : Fields) : Bool := f.len == .w64 || f.ty != 9 || f.imm32.toNat < 65536

/-- R126, R146: bits [31:16] of an immediate field specification are 0. -/
def specFits (f : Fields) : Bool := f.len == .w64 || f.imm32.toNat < 65536

/-- R135: the rounding code of a conversion; between integer types, and from bf16 to f32, only code 0. -/
def cvtRound (src dst : Nat) (mo : BitVec 4) : Bool :=
  let isInt (k : Nat) : Bool := 1 ≤ k && k ≤ 8
  !((isInt src && isInt dst) || (src == 9 && (dst == 10 || dst == 0))) || mo == 0

/-- Elements per 32-bit lane of a type code (R172). -/
def elemsPerLane (ty : Nat) : Nat :=
  match ty with
  | 1 | 5 => 4
  | 2 | 6 | 9 => 2
  | _ => 1

/-- R172: the number of parts k. -/
def cvtParts (src dst : Nat) : Nat :=
  let es := elemsPerLane src
  let ed := elemsPerLane dst
  if ed ≥ es then ed / es else es / ed

/-- R209, R342, R348: a stride field is a multiple of 4. -/
def strides4 (f : Fields) : Bool := (f.ei.toNat % 65536) % 4 == 0 && (f.ei.toNat / 65536) % 4 == 0

/-- R154, R256: the bitwise operations do not take f32. -/
def floatOpLegal (f : Fields) : Bool := !(f.ty == 10 && [1, 2, 3].contains (f.fn.toNat % 8))

/-- A branch by IMM32, whose three low bits are 0 (R112). -/
def rowBr (op : Nat) (f : Fields) (a b : Cls := .none) (sys : Bool := true) : Row :=
  { op, lens := [.w96], a, b, sys, extra := f.imm32.toNat % 8 == 0 }

def rowScalar2 (op : Nat) (f : Fields) : Row :=
  { op, lens := lensScalar f.ty, d := clsTd f.ty, a := clsT f.ty, b := clsT f.ty, immB := true,
    tys := tysScalar, nd := true, chain := .member, sys := true }

def rowScalar1 (op : Nat) (f : Fields) : Row :=
  { op, d := clsTd f.ty, a := clsT f.ty, tys := tysScalar, nd := true, chain := .member, sys := true }

def rowSf (op : Nat) (mos : List Nat) (c : Cls := .none) : Row :=
  { op, lens := lens6496, d := .sd, a := .s, b := .s, c, immB := true, tys := [0, 10], mos, nd := true,
    chain := .member, sys := true }

def rowV2 (op : Nat) (f : Fields) (c : Cls := .none) : Row :=
  { op, lens := lens6496, d := .vd, a := .v, b := .v, c, immB := true, tys := tysInt, nd := true,
    chain := .member, extra := immFits f }

def rowV1 (op : Nat) (tys : List Nat) (mos : List Nat := [0]) : Row :=
  { op, d := .vd, a := .v, tys, mos, nd := true, chain := .member }

def rowVf2 (op : Nat) (f : Fields) (tys mos : List Nat) (c : Cls := .none) (d : Cls := .vd) : Row :=
  { op, lens := lens6496, d, a := .v, b := .v, c, immB := true, tys, mos, nd := true,
    chain := .member, extra := immFitsFloat f }

def rowVSimm (op : Nat) (d a : Cls) (tys fns : List Nat) (c : Cls := .none) : Row :=
  { op, lens := lens6496, d, a, b := .s, c, immB := true, tys, fns, nd := true, chain := .member }

def rowM (op : Nat) (fns : List Nat) (a b : Cls) (c : Cls := .none) (d : Cls := .m) : Row :=
  { op, fns, d, a, b, c, nd := true }

/-- The offset class of a vector access by FN (R204, R251): lanes, scalar, immediate. -/
def clsOffset (fn : BitVec 4) : Cls :=
  match fn.toNat with
  | 0 => .v
  | 1 => .s
  | _ => .none

def lensOffset (fn : BitVec 4) : List Len := if fn.toNat ≥ 2 then [.w96] else [.w64]

def rowSmem (op : Nat) (d c : Cls) (tys mos fns : List Nat) (chain : ChainRole) : Row :=
  { op, fns, lens := lens6496, d, a := .br, b := .s, c, immB := true, tys, mos, ax := .ps,
    nd := d != .none, chain, sys := true }

def rowEng (op : Nat) (d a b c ea eb ec : Cls) (mos : List Nat) (ax : AxKind) (extra : Bool) : Row :=
  { op, lens := [.w128], d, a, b, c, ea, eb, ec, eiLo := true, eiHi := true, mos, ax, extra }

/-- R191, R342: rounding codes 1 to 4 only with `.bf16`. -/
def mosStore (ty : BitVec 4) : List Nat := if ty == 9 then [0, 1, 2, 3, 4] else [0]

def rowSync (op fn : Nat) (d a b : Cls := .none) (ax : AxKind := .zero) (nd : Bool := false) (sys : Bool := false) :
    Row := { op, fns := [fn], d, a, b, ax, nd, sys }

/-- R422: FN is the context for PTROOT and TRAPQ, the bank for 0x30 to 0x33, else 0. -/
def privFn (f : Fields) : Bool :=
  let n := f.ax.toNat
  n == 0 || n == 1 || (0x30 ≤ n && n ≤ 0x33 && f.fn.toNat ≤ 1) || f.fn == 0

/-- R422: the numbers that name a register. -/
def privKnown (n : Nat) : Bool :=
  n ≤ 1 || (0x10 ≤ n && n ≤ 0x23) || (0x30 ≤ n && n ≤ 0x36) || n == 0x38 || n == 0x39

def fnsAll : List Nat := [0, 1, 2, 3, 4, 5, 6, 7, 8, 9, 10, 11, 12, 13, 14, 15]

/-- The encoding entry of an encoded instruction, for its own fields; `none` for the hardware steps, which have no
encoding. AX of a 96- or 128-bit `sli` is reserved, and `mcoll` with ND = 1, which names no register in field D, is legal with v0 in
field B (log 63). -/
def row : Instr → Option Row
  -- 04_group R110
  | .nop _ => some { op := 0x00, chain := .member, sys := true }
  | .br f => some (rowBr 0x01 f)
  | .bz f => some (rowBr 0x02 f (a := .s))
  | .bnz f => some (rowBr 0x03 f (a := .s))
  | .bc f => some { rowBr 0x04 f (a := .s) (b := .s) with tys := [0, 3, 7, 10], mos := if f.ty == 10 then [0, 1, 2, 3, 4, 5, 6, 7] else [0, 1, 2, 3, 4, 5] }
  | .call _ => some { op := 0x05, lens := [.w96], d := .x, nd := true, sys := true }
  | .callReg _ => some { op := 0x05, fns := [1], d := .x, a := .x, nd := true, sys := true }
  | .ret _ => some { op := 0x06, a := .x, sys := true }
  | .jmpi _ => some { op := 0x07, lens := lens6496, a := .x, sys := true }
  | .bmz f => some (rowBr 0x08 f (a := .z) (sys := false))
  | .bmnz f => some (rowBr 0x09 f (a := .z) (sys := false))
  | .mif _ => some { op := 0x0A, a := .z }
  | .melse _ => some { op := 0x0B }
  | .mend _ => some { op := 0x0C }
  | .mloop _ => some { op := 0x0D }
  | .mbrk _ => some { op := 0x0E, a := .z }
  | .mcont _ => some { op := 0x0F, a := .z }
  | .mpush _ => some { op := 0x10, a := .z }
  | .mpop _ => some { op := 0x11 }
  | .waitc _ => some { op := 0x12, fns := [0, 1, 2], ax := .below 64, sys := true }
  | .yield _ => some { op := 0x13, sys := true }
  | .sleep f => some { op := 0x14, lens := lens6496, a := if f.len == .w64 then .s else .none, sys := true }
  | .done _ => some { op := 0x15, sys := true }
  | .trap _ => some { op := 0x16, ax := .below 256, sys := true }
  | .brkpt _ => some { op := 0x17, sys := true }
  -- 05_scalar R122
  | .sadd f => some (rowScalar2 0x20 f)
  | .ssub f => some (rowScalar2 0x21 f)
  | .smul f => some (rowScalar2 0x22 f)
  | .smulh f => some (rowScalar2 0x23 f)
  | .sdiv f => some (rowScalar2 0x24 f)
  | .srem f => some (rowScalar2 0x25 f)
  | .sand f => some (rowScalar2 0x26 f)
  | .sor f => some (rowScalar2 0x27 f)
  | .sxor f => some (rowScalar2 0x28 f)
  | .sandn f => some (rowScalar2 0x29 f)
  | .sshl f => some (rowScalar2 0x2A f)
  | .sshr f => some (rowScalar2 0x2B f)
  | .ssra f => some (rowScalar2 0x2C f)
  | .srot f => some (rowScalar2 0x2D f)
  | .smin f => some (rowScalar2 0x2E f)
  | .smax f => some (rowScalar2 0x2F f)
  | .sclz f => some (rowScalar1 0x30 f)
  | .spopc f => some (rowScalar1 0x31 f)
  | .sbrev f => some (rowScalar1 0x32 f)
  | .sbfx f => some { rowScalar1 0x33 f with lens := lens6496, b := .s, immB := true, extra := specFits f }
  | .sbfi f => some { rowScalar1 0x34 f with lens := lens6496, b := .s, immB := true, c := clsT f.ty, extra := specFits f }
  | .ssel f => some { rowScalar2 0x35 f with c := .s }
  | .scmp f => some { rowScalar2 0x36 f with d := .sd, mos := [0, 1, 2, 3, 4, 5] }
  | .smov f => some { rowScalar1 0x37 f with tys := [0, 1, 2, 3, 4, 5, 6, 7, 8] }
  | .sli f => some { op := 0x38, lens := lensScalar f.ty, d := clsTd f.ty, tys := tysScalar, ax := if f.len == .w64 then .below 256 else .zero, nd := true, chain := .member, sys := true }
  | .slea _ => some { op := 0x39, lens := lens6496, d := .x, a := .x, b := .s, tys := tysI32, ax := .below 8, nd := true, chain := .member, sys := true }
  -- 05_scalar R131
  | .sfadd _ => some (rowSf 0x40 [0, 1, 2, 3])
  | .sfsub _ => some (rowSf 0x41 [0, 1, 2, 3])
  | .sfmul _ => some (rowSf 0x42 [0, 1, 2, 3])
  | .sffma _ => some (rowSf 0x43 [0, 1, 2, 3] (c := .s))
  | .sfmin _ => some (rowSf 0x44 [0])
  | .sfmax _ => some (rowSf 0x45 [0])
  | .sfcmp _ => some (rowSf 0x46 [0, 1, 2, 3, 4, 5, 6, 7])
  | .sfcvt f => some { op := 0x47, fns := [0, 1, 2, 3, 4, 5, 6, 7, 8, 9, 10], d := clsTd f.ty, a := clsT f.fn, tys := [1, 2, 3, 4, 5, 6, 7, 8, 9, 10], mos := [0, 1, 2, 3, 4], nd := true, chain := .member, sys := true, extra := cvtRound f.fn.toNat f.ty.toNat f.mo }
  | .sfsqrt _ => some { op := 0x48, d := .sd, a := .s, tys := [0, 10], nd := true, chain := .member, sys := true }
  | .srd _ => some { op := 0x49, d := .sd, ax := .below 16, nd := true, sys := true }
  | .swr f => some { op := 0x4A, a := .s, ax := .below 16, sys := true, extra := [4, 6, 7, 8, 13, 14, 15].contains f.ax.toNat }
  | .sgtime _ => some { op := 0x4B, d := .x, nd := true, sys := true }
  | .srnd f => some { op := 0x4C, fns := [0, 1], d := .sd, a := .s, b := if f.fn == 0 then .x else .none, nd := true, chain := .member, sys := true }
  | .smcnt _ => some { op := 0x4D, fns := [0, 1], d := .sd, a := .z, nd := true, sys := true }
  -- 06_vector R144
  | .vadd f => some (rowV2 0x50 f)
  | .vsub f => some (rowV2 0x51 f)
  | .vmul f => some (rowV2 0x52 f)
  | .vmulh f => some (rowV2 0x53 f)
  | .vmad f => some (rowV2 0x54 f (c := .v))
  | .vand f => some (rowV2 0x55 f)
  | .vor f => some (rowV2 0x56 f)
  | .vxor f => some (rowV2 0x57 f)
  | .vandn f => some (rowV2 0x58 f)
  | .vshl f => some (rowV2 0x59 f)
  | .vshr f => some (rowV2 0x5A f)
  | .vsra f => some (rowV2 0x5B f)
  | .vmin f => some (rowV2 0x5C f)
  | .vmax f => some (rowV2 0x5D f)
  | .vabs _ => some (rowV1 0x5E [0, 1, 2, 3])
  | .vclz _ => some (rowV1 0x5F tysInt)
  | .vpopc _ => some (rowV1 0x60 tysInt)
  | .vbfx f => some { rowV2 0x61 f with tys := tysI32, extra := specFits f }
  | .vsel _ => some { op := 0x62, d := .vd, a := .v, b := .v, c := .z, nd := true, chain := .member }
  | .vcmp f => some { rowV2 0x63 f with d := .z, tys := tysI32, mos := [0, 1, 2, 3, 4, 5] }
  | .vmov _ => some (rowV1 0x64 tysTag)
  | .vlid _ => some { op := 0x65, d := .vd, a := .s, nd := true, chain := .member }
  | .vbc _ => some { op := 0x66, d := .vd, a := .s, tys := tysTag, nd := true, chain := .member }
  | .vget _ => some (rowVSimm 0x67 .sd .v [0] [0])
  | .vput _ => some (rowVSimm 0x68 .vd .s [0] [0])
  | .vperm _ => some { op := 0x69, d := .vd, a := .v, b := .v, nd := true, chain := .member }
  | .vshuf _ => some (rowVSimm 0x6A .vd .v [0] [0, 1, 2, 3])
  | .vred f => some { op := 0x6B, fns := [0, 1, 2, 3, 4, 5], d := .sd, a := .v, tys := [0, 3, 7, 10], nd := true, chain := .member, extra := floatOpLegal f }
  | .vscan f => some { op := 0x6C, fns := [0, 1, 2, 3, 4, 5, 8, 9, 10, 11, 12, 13], d := .vd, a := .v, tys := [0, 3, 7, 10], nd := true, chain := .member, extra := floatOpLegal f }
  | .vhist _ => some (rowVSimm 0x6D .vd .v [0, 5, 6] [0])
  | .vbinm _ => some (rowVSimm 0x6E .vd .v [0, 5, 6] [0])
  | .vcx f => some (rowVSimm 0x6F .vd .v tysI32 [0, 1, 2] (c := if f.fn == 2 then .s else .none))
  | .vrnd f => some { op := 0xA3, fns := [0, 1], d := .vd, a := .v, b := if f.fn == 0 then .x else .none, nd := true, chain := .member }
  -- 07_vector_float R164
  | .vfadd f => some (rowVf2 0x80 f tysFloat [0, 1, 2, 3])
  | .vfsub f => some (rowVf2 0x81 f tysFloat [0, 1, 2, 3])
  | .vfmul f => some (rowVf2 0x82 f tysFloat [0, 1, 2, 3])
  | .vffma f => some (rowVf2 0x83 f tysFloat [0, 1, 2, 3] (c := .v))
  | .vfdiv f => some (rowVf2 0x84 f [0, 10] [0])
  | .vfsqrt _ => some (rowV1 0x85 [0, 10])
  | .vfmin f => some (rowVf2 0x86 f tysFloat [0])
  | .vfmax f => some (rowVf2 0x87 f tysFloat [0])
  | .vfabs _ => some (rowV1 0x88 tysFloat)
  | .vfneg _ => some (rowV1 0x89 tysFloat)
  | .vfcmp f => some (rowVf2 0x8A f [0, 10] [0, 1, 2, 3, 4, 5, 6, 7] (d := .z))
  | .vfclass _ => some (rowV1 0x8B [0, 10])
  | .vfrcp _ => some (rowV1 0x8C [0, 10])
  | .vfrsq _ => some (rowV1 0x8D [0, 10])
  | .vfexp2 _ => some (rowV1 0x8E [0, 10])
  | .vflog2 _ => some (rowV1 0x8F [0, 10])
  | .vfsin _ => some (rowV1 0x90 [0, 10])
  | .vfcos _ => some (rowV1 0x91 [0, 10])
  | .vftanh _ => some (rowV1 0x92 [0, 10])
  | .vferf _ => some (rowV1 0x93 [0, 10])
  | .vcvt f => some { rowV1 0x94 [1, 2, 3, 5, 6, 7, 9, 10] [0, 1, 2, 3, 4] with fns := [0, 1, 2, 3, 5, 6, 7, 9, 10], ax := .below 4, extra := cvtRound f.fn.toNat f.ty.toNat f.mo && f.ax.toNat < cvtParts f.fn.toNat f.ty.toNat }
  | .vbfma _ => some { op := 0x95, d := .vd, a := .v, b := .v, c := .v, tys := [0, 10], nd := true, chain := .member }
  | .vq4s _ => some { op := 0xA0, fns := [0, 1, 2, 3], d := .x, a := .v, nd := true, chain := .member }
  | .vq4p _ => some { op := 0xA1, d := .vd, a := .v, b := .x, mos := [0, 1, 2, 3, 4], ax := .below 8, nd := true, chain := .member }
  | .vq4x f => some { op := 0xA2, d := .vd, a := .v, b := .x, c := if f.ty == 9 then .x else .none, tys := tysFloat, mos := [0, 1, 2, 3], ax := .below (if f.ty == 9 then 4 else 8), nd := true, chain := .member }
  -- 09_moment R191
  | .mset _ => some { rowM 0xB0 [0] .v .v with lens := lens6496, immB := true }
  | .mcoll f => some { rowM 0xB1 [0] .m .vd (d := .vd) with extra := f.nd || f.d != f.b }
  | .msamp _ => some (rowM 0xB2 [0] .m .v (d := .vd))
  | .madd _ => some (rowM 0xB3 [0, 1, 2, 3, 4] .m .m)
  | .msub _ => some (rowM 0xB4 [0, 1, 2, 3, 4] .m .m)
  | .mmul _ => some (rowM 0xB5 [0, 1, 2, 3, 4] .m .m)
  | .mfma _ => some (rowM 0xB6 [0, 1, 2, 3, 4] .m .m (c := .m))
  | .mscl _ => some { rowM 0xB7 [0] .m .v with lens := lens6496, immB := true }
  | .mrelu _ => some (rowM 0xB8 [0] .m .none)
  | .mexp _ => some (rowM 0xB9 [0] .m .none)
  | .msig _ => some (rowM 0xBA [0] .m .none)
  | .mtanh _ => some (rowM 0xBB [0] .m .none)
  | .mld f => some { rowM 0xBC [0, 1, 2] .br (clsOffset f.fn) with lens := lensOffset f.fn, tys := tysFloat, ax := .ps }
  | .mst f => some { op := 0xBD, fns := [0, 1, 2], lens := lensOffset f.fn, a := .br, b := clsOffset f.fn, c := .m, tys := tysFloat, mos := mosStore f.ty, ax := .ps }
  | .mmov _ => some (rowM 0xBE [0] .m .none)
  | .mcfgMcr f => some { op := 0xBF, ax := .below 256, extra := !f.ax.getLsbD 3 }
  | .mcfgMrho _ => some { op := 0xBF, fns := [1], lens := [.w96] }
  -- 11_memory_instructions R251
  | .vld f => some { op := 0xC0, fns := [0, 1, 2], lens := lensOffset f.fn, d := .vd, a := .br, b := clsOffset f.fn, tys := tysTag, mos := ordLoad, ax := .ps, nd := true }
  | .vldu f => some { op := 0xC1, fns := [1, 2], lens := lensOffset f.fn, d := .vd, a := .br, b := clsOffset f.fn, tys := tysTag, mos := ordLoad, ax := .ps, nd := true }
  | .vst f => some { op := 0xC2, fns := [0, 1, 2], lens := lensOffset f.fn, a := .br, b := clsOffset f.fn, c := .v, tys := tysTag, mos := ordStore, ax := .ps, chain := .tail }
  | .vatm f => some { op := 0xC3, fns := [0, 1, 2, 3, 4, 5, 6, 7], d := .vd, a := .br, b := .v, c := .v, tys := [0, 3, 7, 10], mos := ordAtomic, ax := .ps, nd := true, chain := .tail, extra := floatOpLegal f }
  | .vmred f => some { op := 0xC4, fns := [0, 1, 2, 3, 4, 5], a := .br, b := .v, c := .v, tys := [0, 3, 7, 10], mos := ordStore, ax := .ps, chain := .tail, extra := floatOpLegal f }
  | .vfld _ => some { op := 0xC5, d := .vd, a := .br, b := .v, c := .z, tys := [0, 3, 7, 10], mos := ordLoad, ax := .ps, nd := true }
  | .vfst _ => some { op := 0xC6, a := .br, b := .v, c := .v, tys := [0, 3, 7, 10], mos := ordStore, ax := .ps, chain := .tail }
  | .sld f => some (rowSmem 0xC7 (clsTd f.ty) .none [0, 1, 2, 3, 4, 5, 6, 7, 8, 9, 10] ordLoad [0] .no)
  | .sst f => some (rowSmem 0xC8 .none (clsT f.ty) [0, 1, 2, 3, 4, 5, 6, 7, 8, 9, 10] ordStore [0] .tail)
  | .satm f => some { rowSmem 0xC9 (clsTd f.ty) (clsT f.ty) [0, 3, 4, 7, 8, 10] ordAtomic [0, 1, 2, 3, 4, 5, 6, 7] .tail with extra := floatOpLegal f }
  | .smred f => some { rowSmem 0xCA .none (clsT f.ty) [0, 3, 4, 7, 8, 10] ordStore [0, 1, 2, 3, 4, 5] .tail with extra := floatOpLegal f }
  | .sfld _ => some (rowSmem 0xCB .sd .none [0, 3, 7, 10] ordLoad [0] .no)
  | .sfst _ => some (rowSmem 0xCC .none .s [0, 3, 7, 10] ordStore [0] .tail)
  | .srsv f => some (rowSmem 0xCD (clsTd f.ty) .none [0, 1, 2, 3, 4, 5, 6, 7, 8, 9, 10] [0] [0] .no)
  | .scnd f => some (rowSmem 0xCE .sd (clsT f.ty) [0, 1, 2, 3, 4, 5, 6, 7, 8, 9, 10] [0] [0] .no)
  | .bset _ => some { op := 0xCF, d := .br, a := .x, nd := true, sys := true }
  | .bsetClu _ => some { op := 0xCF, fns := [1], d := .br, a := .x, nd := true, sys := true }
  | .binv _ => some { op := 0xD0, d := .br, nd := true, sys := true }
  | .binvAll _ => some { op := 0xD0, fns := [1], sys := true }
  | .fence _ => some { op := 0xD1, mos := [1, 2, 3], ax := .scope, sys := true }
  | .cwb _ => some { op := 0xD2, lens := lens6496, a := .br, b := .s, immB := true, sys := true }
  | .cinv _ => some { op := 0xD3, lens := lens6496, a := .br, b := .s, immB := true, sys := true }
  -- 17_tile R342, 09_moment R191
  | .cp _ => some (rowEng 0xE0 .br .s .br .s .s .none .none [0] .ps true)
  | .cpq _ => some (rowEng 0xE1 .br .s .br .s .s .br .s [0, 1, 2, 3] .ps true)
  | .cpg _ => some (rowEng 0xE2 .br .s .br .s .v .s .none [0] .ps true)
  | .seal f => some { op := 0xE3, d := .sd, extra := f.d.toNat < 60 || f.d.toNat == 63 }
  | .tmma f => some (rowEng 0xE4 .t .br .s .br .s .none .none [0] .zero (strides4 f))
  | .tmmag f => some (rowEng 0xE5 .t .br .s .br .s .v .none [0] .zero (strides4 f))
  | .tzero f => some { op := 0xE6, fns := [0, 1], d := if f.fn == 0 then .t else .tm }
  | .tld f => some { op := 0xE7, fns := [0, 1], lens := [.w128], d := if f.fn == 0 then .t else .tm, a := .br, b := .s, eiLo := true, tys := tysFloat }
  | .tst f => some { op := 0xE8, fns := [0, 1], lens := [.w128], a := .br, b := .s, c := if f.fn == 0 then .t else .tm, eiLo := true, tys := tysFloat, mos := mosStore f.ty }
  | .tmam f => some (rowEng 0xE9 .tm .br .s .br .s .none .none [0] .zero (strides4 f))
  | .tmamm f => some (rowEng 0xEA .tm .br .s .br .s .none .none [0] .zero (strides4 f))
  -- 13_scope R289
  | .scget f => some (rowSync 0xF0 0 (d := .x) (a := if f.ax == 1 || f.ax == 2 then .s else .none) (ax := .below 4) (nd := true))
  | .scq f => some (rowSync 0xF0 1 (d := if f.ax == 0 then .z else .sd) (a := .x) (ax := .below 2) (nd := true))
  | .scfrz _ => some (rowSync 0xF0 2 (d := .x) (a := .x) (nd := true))
  | .scthaw _ => some (rowSync 0xF0 3 (d := .x) (a := .x) (nd := true))
  -- 16_barrier R325
  | .bar _ => some { op := 0xF1, lens := lens6496, b := .s, immB := true, ax := .below 256 }
  | .barv _ => some { op := 0xF1, fns := [1], lens := lens6496, b := .s, immB := true, ax := .below 256 }
  | .barw _ => some { op := 0xF1, fns := [2], ax := .below 256 }
  | .tmq f => some { op := 0xF1, fns := [3], lens := lens6496, d := .sd, a := .s, b := if f.ax == 2 then .s else .none, immB := true, ax := .below 5, nd := true }
  -- 19_queue R370
  | .qpush _ => some { op := 0xF2, fns := [0], a := .x, c := .cart, sys := true }
  | .qpop f => some { op := 0xF2, fns := [1], d := .cart, a := if f.ax.toNat ≤ 1 then .x else .none, ax := .below 6, sys := true }
  | .qdone _ => some { op := 0xF2, fns := [2], a := .x, sys := true }
  | .qspawn _ => some { op := 0xF2, fns := [3], lens := lens6496, a := .br, b := .s, c := .cart, immB := true, sys := true }
  | .qjoin _ => some { op := 0xF2, fns := [4], lens := lens6496, d := .sd, a := .br, b := .s, immB := true, ax := .scope, nd := true, sys := true }
  | .qstat _ => some { op := 0xF2, fns := [5], d := .sd, a := .x, ax := .below 4, nd := true, sys := true }
  -- 20_kernel R396
  | .klaunch _ => some (rowSync 0xF3 0 (d := .sd) (a := .x) (nd := true) (sys := true))
  | .depart _ => some (rowSync 0xF3 1 (d := .sd) (a := .x) (b := .x) (nd := true) (sys := true))
  | .dtbeg _ => some (rowSync 0xF3 2 (a := .s))
  | .dtend _ => some (rowSync 0xF3 3)
  -- 22_context R434, 21_page R408
  | .syscResume f => some { rowSync 0xF8 0 (a := .s) (ax := .below 256) (sys := true) with extra := f.ax == 0 }
  | .syscSkip f => some { rowSync 0xF8 0 (a := .s) (ax := .below 256) (sys := true) with extra := f.ax == 1 }
  | .syscAbandon f => some { rowSync 0xF8 0 (a := .s) (ax := .below 256) (sys := true) with extra := f.ax == 2 }
  | .syscCall f => some { rowSync 0xF8 0 (ax := .below 256) (sys := true) with extra := f.ax.toNat ≥ 3 }
  | .eret _ => some { rowSync 0xF9 0 (sys := true) with priv := true }
  | .srdp f => some { op := 0xFA, fns := fnsAll, d := .x, ax := .below 256, nd := true, sys := true, priv := true, extra := privKnown f.ax.toNat && privFn f }
  | .swrp f => some { op := 0xFB, fns := fnsAll, a := .x, ax := .below 256, sys := true, priv := true, extra := privKnown f.ax.toNat && privFn f }
  | .tlbiVa _ => some { rowSync 0xFC 0 (a := .x) (b := .s) (sys := true) with priv := true }
  | .tlbiCtx _ => some { rowSync 0xFC 1 (b := .s) (sys := true) with priv := true }
  | .tlbiAll _ => some { rowSync 0xFC 2 (sys := true) with priv := true }
  | .ctxs _ => some { rowSync 0xFD 0 (d := .sd) (a := .s) (nd := true) (sys := true) with priv := true }
  | .ctxr _ => some { rowSync 0xFE 0 (d := .sd) (a := .s) (b := .s) (nd := true) (sys := true) with priv := true }
  | .idle _ => some { rowSync 0xFF 0 (d := .sd) (a := .x) (b := .x) (nd := true) (sys := true) with priv := true }
  | _ => none

/-! ### From an opcode to its instruction (R76, R77) -/

/-- Row 0x0_ of the map of R76: the instruction of opcode 0x0n. -/
def candidate0 (lo : Nat) (f : Fields) : Option Instr :=
  match lo with
  | 0 => some (.nop f)
  | 1 => some (.br f)
  | 2 => some (.bz f)
  | 3 => some (.bnz f)
  | 4 => some (.bc f)
  | 5 => some (if f.fn == 1 then .callReg f else .call f)
  | 6 => some (.ret f)
  | 7 => some (.jmpi f)
  | 8 => some (.bmz f)
  | 9 => some (.bmnz f)
  | 10 => some (.mif f)
  | 11 => some (.melse f)
  | 12 => some (.mend f)
  | 13 => some (.mloop f)
  | 14 => some (.mbrk f)
  | _ => some (.mcont f)

/-- Row 0x1_ of the map of R76: the instruction of opcode 0x1n. -/
def candidate1 (lo : Nat) (f : Fields) : Option Instr :=
  match lo with
  | 0 => some (.mpush f)
  | 1 => some (.mpop f)
  | 2 => some (.waitc f)
  | 3 => some (.yield f)
  | 4 => some (.sleep f)
  | 5 => some (.done f)
  | 6 => some (.trap f)
  | 7 => some (.brkpt f)
  | _ => none

/-- Row 0x2_ of the map of R76: the instruction of opcode 0x2n. -/
def candidate2 (lo : Nat) (f : Fields) : Option Instr :=
  match lo with
  | 0 => some (.sadd f)
  | 1 => some (.ssub f)
  | 2 => some (.smul f)
  | 3 => some (.smulh f)
  | 4 => some (.sdiv f)
  | 5 => some (.srem f)
  | 6 => some (.sand f)
  | 7 => some (.sor f)
  | 8 => some (.sxor f)
  | 9 => some (.sandn f)
  | 10 => some (.sshl f)
  | 11 => some (.sshr f)
  | 12 => some (.ssra f)
  | 13 => some (.srot f)
  | 14 => some (.smin f)
  | _ => some (.smax f)

/-- Row 0x3_ of the map of R76: the instruction of opcode 0x3n. -/
def candidate3 (lo : Nat) (f : Fields) : Option Instr :=
  match lo with
  | 0 => some (.sclz f)
  | 1 => some (.spopc f)
  | 2 => some (.sbrev f)
  | 3 => some (.sbfx f)
  | 4 => some (.sbfi f)
  | 5 => some (.ssel f)
  | 6 => some (.scmp f)
  | 7 => some (.smov f)
  | 8 => some (.sli f)
  | 9 => some (.slea f)
  | _ => none

/-- Row 0x4_ of the map of R76: the instruction of opcode 0x4n. -/
def candidate4 (lo : Nat) (f : Fields) : Option Instr :=
  match lo with
  | 0 => some (.sfadd f)
  | 1 => some (.sfsub f)
  | 2 => some (.sfmul f)
  | 3 => some (.sffma f)
  | 4 => some (.sfmin f)
  | 5 => some (.sfmax f)
  | 6 => some (.sfcmp f)
  | 7 => some (.sfcvt f)
  | 8 => some (.sfsqrt f)
  | 9 => some (.srd f)
  | 10 => some (.swr f)
  | 11 => some (.sgtime f)
  | 12 => some (.srnd f)
  | 13 => some (.smcnt f)
  | _ => none

/-- Row 0x5_ of the map of R76: the instruction of opcode 0x5n. -/
def candidate5 (lo : Nat) (f : Fields) : Option Instr :=
  match lo with
  | 0 => some (.vadd f)
  | 1 => some (.vsub f)
  | 2 => some (.vmul f)
  | 3 => some (.vmulh f)
  | 4 => some (.vmad f)
  | 5 => some (.vand f)
  | 6 => some (.vor f)
  | 7 => some (.vxor f)
  | 8 => some (.vandn f)
  | 9 => some (.vshl f)
  | 10 => some (.vshr f)
  | 11 => some (.vsra f)
  | 12 => some (.vmin f)
  | 13 => some (.vmax f)
  | 14 => some (.vabs f)
  | _ => some (.vclz f)

/-- Row 0x6_ of the map of R76: the instruction of opcode 0x6n. -/
def candidate6 (lo : Nat) (f : Fields) : Option Instr :=
  match lo with
  | 0 => some (.vpopc f)
  | 1 => some (.vbfx f)
  | 2 => some (.vsel f)
  | 3 => some (.vcmp f)
  | 4 => some (.vmov f)
  | 5 => some (.vlid f)
  | 6 => some (.vbc f)
  | 7 => some (.vget f)
  | 8 => some (.vput f)
  | 9 => some (.vperm f)
  | 10 => some (.vshuf f)
  | 11 => some (.vred f)
  | 12 => some (.vscan f)
  | 13 => some (.vhist f)
  | 14 => some (.vbinm f)
  | _ => some (.vcx f)

/-- Row 0x8_ of the map of R76: the instruction of opcode 0x8n. -/
def candidate8 (lo : Nat) (f : Fields) : Option Instr :=
  match lo with
  | 0 => some (.vfadd f)
  | 1 => some (.vfsub f)
  | 2 => some (.vfmul f)
  | 3 => some (.vffma f)
  | 4 => some (.vfdiv f)
  | 5 => some (.vfsqrt f)
  | 6 => some (.vfmin f)
  | 7 => some (.vfmax f)
  | 8 => some (.vfabs f)
  | 9 => some (.vfneg f)
  | 10 => some (.vfcmp f)
  | 11 => some (.vfclass f)
  | 12 => some (.vfrcp f)
  | 13 => some (.vfrsq f)
  | 14 => some (.vfexp2 f)
  | _ => some (.vflog2 f)

/-- Row 0x9_ of the map of R76: the instruction of opcode 0x9n. -/
def candidate9 (lo : Nat) (f : Fields) : Option Instr :=
  match lo with
  | 0 => some (.vfsin f)
  | 1 => some (.vfcos f)
  | 2 => some (.vftanh f)
  | 3 => some (.vferf f)
  | 4 => some (.vcvt f)
  | 5 => some (.vbfma f)
  | _ => none

/-- Row 0xA_ of the map of R76: the instruction of opcode 0xAn. -/
def candidateA (lo : Nat) (f : Fields) : Option Instr :=
  match lo with
  | 0 => some (.vq4s f)
  | 1 => some (.vq4p f)
  | 2 => some (.vq4x f)
  | 3 => some (.vrnd f)
  | _ => none

/-- Row 0xB_ of the map of R76: the instruction of opcode 0xBn. -/
def candidateB (lo : Nat) (f : Fields) : Option Instr :=
  match lo with
  | 0 => some (.mset f)
  | 1 => some (.mcoll f)
  | 2 => some (.msamp f)
  | 3 => some (.madd f)
  | 4 => some (.msub f)
  | 5 => some (.mmul f)
  | 6 => some (.mfma f)
  | 7 => some (.mscl f)
  | 8 => some (.mrelu f)
  | 9 => some (.mexp f)
  | 10 => some (.msig f)
  | 11 => some (.mtanh f)
  | 12 => some (.mld f)
  | 13 => some (.mst f)
  | 14 => some (.mmov f)
  | _ => some (if f.fn == 1 then .mcfgMrho f else .mcfgMcr f)

/-- Row 0xC_ of the map of R76: the instruction of opcode 0xCn. -/
def candidateC (lo : Nat) (f : Fields) : Option Instr :=
  match lo with
  | 0 => some (.vld f)
  | 1 => some (.vldu f)
  | 2 => some (.vst f)
  | 3 => some (.vatm f)
  | 4 => some (.vmred f)
  | 5 => some (.vfld f)
  | 6 => some (.vfst f)
  | 7 => some (.sld f)
  | 8 => some (.sst f)
  | 9 => some (.satm f)
  | 10 => some (.smred f)
  | 11 => some (.sfld f)
  | 12 => some (.sfst f)
  | 13 => some (.srsv f)
  | 14 => some (.scnd f)
  | _ => some (if f.fn == 1 then .bsetClu f else .bset f)

/-- Row 0xD_ of the map of R76: the instruction of opcode 0xDn. -/
def candidateD (lo : Nat) (f : Fields) : Option Instr :=
  match lo with
  | 0 => some (if f.fn == 1 then .binvAll f else .binv f)
  | 1 => some (.fence f)
  | 2 => some (.cwb f)
  | 3 => some (.cinv f)
  | _ => none

/-- Row 0xE_ of the map of R76: the instruction of opcode 0xEn. -/
def candidateE (lo : Nat) (f : Fields) : Option Instr :=
  match lo with
  | 0 => some (.cp f)
  | 1 => some (.cpq f)
  | 2 => some (.cpg f)
  | 3 => some (.seal f)
  | 4 => some (.tmma f)
  | 5 => some (.tmmag f)
  | 6 => some (.tzero f)
  | 7 => some (.tld f)
  | 8 => some (.tst f)
  | 9 => some (.tmam f)
  | 10 => some (.tmamm f)
  | _ => none

/-- Row 0xF_ of the map of R76: the instruction of opcode 0xFn. -/
def candidateF (lo : Nat) (f : Fields) : Option Instr :=
  match lo with
  | 0 =>
    match f.fn.toNat with
    | 0 => some (.scget f)
    | 1 => some (.scq f)
    | 2 => some (.scfrz f)
    | 3 => some (.scthaw f)
    | _ => none
  | 1 =>
    match f.fn.toNat with
    | 0 => some (.bar f)
    | 1 => some (.barv f)
    | 2 => some (.barw f)
    | 3 => some (.tmq f)
    | _ => none
  | 2 =>
    match f.fn.toNat with
    | 0 => some (.qpush f)
    | 1 => some (.qpop f)
    | 2 => some (.qdone f)
    | 3 => some (.qspawn f)
    | 4 => some (.qjoin f)
    | 5 => some (.qstat f)
    | _ => none
  | 3 =>
    match f.fn.toNat with
    | 0 => some (.klaunch f)
    | 1 => some (.depart f)
    | 2 => some (.dtbeg f)
    | 3 => some (.dtend f)
    | _ => none
  | 8 => some (if f.ax == 0 then .syscResume f else if f.ax == 1 then .syscSkip f else if f.ax == 2 then .syscAbandon f else .syscCall f)
  | 9 => some (.eret f)
  | 10 => some (.srdp f)
  | 11 => some (.swrp f)
  | 12 => some (if f.fn == 0 then .tlbiVa f else if f.fn == 1 then .tlbiCtx f else .tlbiAll f)
  | 13 => some (.ctxs f)
  | 14 => some (.ctxr f)
  | 15 => some (.idle f)
  | _ => none

/-- The map of R76: the instruction of an assigned opcode, FN and, for `sysc`, AX. -/
def candidate (op : Nat) (f : Fields) : Option Instr :=
  match op / 16 with
  | 0 => candidate0 (op % 16) f
  | 1 => candidate1 (op % 16) f
  | 2 => candidate2 (op % 16) f
  | 3 => candidate3 (op % 16) f
  | 4 => candidate4 (op % 16) f
  | 5 => candidate5 (op % 16) f
  | 6 => candidate6 (op % 16) f
  | 8 => candidate8 (op % 16) f
  | 9 => candidate9 (op % 16) f
  | 10 => candidateA (op % 16) f
  | 11 => candidateB (op % 16) f
  | 12 => candidateC (op % 16) f
  | 13 => candidateD (op % 16) f
  | 14 => candidateE (op % 16) f
  | 15 => candidateF (op % 16) f
  | _ => none
/-- The map of R76 assigns the opcode (R78). -/
def assigned (op : Nat) : Bool :=
  let lo := op % 16
  match op / 16 with
  | 0 | 2 | 5 | 8 | 11 | 12 => true
  | 1 => lo ≤ 7
  | 3 => lo ≤ 9
  | 4 => lo ≤ 13
  | 6 => true
  | 9 => lo ≤ 5
  | 10 => lo ≤ 3
  | 13 => lo ≤ 3
  | 14 => lo ≤ 10
  | 15 => lo ≤ 3 || 8 ≤ lo
  | _ => false

/-! ### The layout of a word -/

/-- Bits [k+n-1 : k] of a word (R3). -/
def bits (k n w : Nat) : BitVec n := BitVec.ofNat n (w / 2 ^ k)

/-- The field `x` below the bits `rest`. -/
def below (n : Nat) (x : BitVec n) (rest : Nat) : Nat := x.toNat + 2 ^ n * rest

/-- LEN (R54). -/
def Len.code : Len → BitVec 2
  | .w64 => 0
  | .w96 => 1
  | .w128 => 2

def Len.ofCode (c : BitVec 2) : Option Len :=
  match c.toNat with
  | 0 => some .w64
  | 1 => some .w96
  | 2 => some .w128
  | _ => none

/-- The base word's fields (R59), with length `len` and immediate bits `imm`. -/
def unpackBase (len : Len) (w imm : Nat) : Fields :=
  { len, fn := bits 10 4 w, ch := bits 14 1 w == 1, nd := bits 15 1 w == 1, d := bits 16 8 w, a := bits 24 8 w,
    b := bits 32 8 w, c := bits 40 8 w, ty := bits 48 4 w, mo := bits 52 4 w, ax := bits 56 8 w,
    imm := BitVec.ofNat 64 imm }

/-- The base word of opcode `op` and fields `f` (R59). -/
def packBase (op : Nat) (f : Fields) : Nat :=
  below 2 f.len.code <| below 8 (BitVec.ofNat 8 op) <| below 4 f.fn <| below 1 (BitVec.ofBool f.ch) <|
  below 1 (BitVec.ofBool f.nd) <| below 8 f.d <| below 8 f.a <| below 8 f.b <| below 8 f.c <| below 4 f.ty <|
  below 4 f.mo <| below 8 f.ax 0

/-- The bytes of an instruction in memory (R4, R54). -/
def packBytes (op : Nat) (f : Fields) : List Byte :=
  leBytes 8 (packBase op f) ++
  match f.len with
  | .w64 => []
  | .w96 => leBytes 4 f.imm.toNat ++ leBytes 4 0
  | .w128 => leBytes 8 f.imm.toNat

/-- Reads the slot that begins at the first byte (R54, R55). `bytes` runs to the end of the aligned 32-byte block,
so a slot that does not fit crosses its boundary. -/
def readSlot (bytes : List Byte) : Except DecodeError (Nat × Fields × List Byte) :=
  if bytes.length < 8 then .error .truncated
  else
    let w := ofLeBytes (bytes.take 8)
    let tail := bytes.drop 8
    match Len.ofCode (bits 0 2 w) with
    | none => .ok (w, unpackBase .w64 w 0, tail)
    | some .w64 => .ok (w, unpackBase .w64 w 0, tail)
    | some .w96 =>
      if tail.length < 8 then .error .crossesBlock
      else if ofLeBytes ((tail.drop 4).take 4) != 0 then .error .padNonzero
      else .ok (w, unpackBase .w96 w (ofLeBytes (tail.take 4)), tail.drop 8)
    | some .w128 =>
      if tail.length < 8 then .error .crossesBlock
      else .ok (w, unpackBase .w128 w (ofLeBytes (tail.take 8)), tail.drop 8)

/-- The instruction of opcode `op` with fields `f`, where its entry accepts them (R81 steps 4 to 7). -/
def decodeFields (op : Nat) (f : Fields) : Except DecodeError Instr :=
  match candidate op f with
  | none => .error .unassignedFn
  | some i =>
    match row i with
    | none => .error .unassignedFn
    | some r =>
      match r.check f with
      | .error e => .error e
      | .ok _ => .ok i

/-- Decoding (R81 steps 2 to 7): the instruction at the first byte and the bytes after its slot. LEN 11 and an
unassigned opcode decode to the step that R54 and R78 give them. -/
def decode (bytes : List Byte) : Except DecodeError (Instr × List Byte) :=
  match readSlot bytes with
  | .error e => .error e
  | .ok (w, f, rest) =>
    let op := bits 2 8 w
    if bits 0 2 w == 3 || !assigned op.toNat then .ok (.unassignedOpcode op (bits 0 2 w), rest)
    else
      match decodeFields op.toNat f with
      | .error e => .error e
      | .ok i => .ok (i, rest)

/-- The decoder on a table word: the low `nbits` bits of `w`, zeros above, laid out as the part stores them. -/
def decodeTableWord (nbits w : Nat) : Option Instr :=
  match decode (leBytes 32 (w % 2 ^ nbits)) with
  | .ok (i, _) => some i
  | .error _ => none

/-! ### The encoder -/

/-- The fields of an encoded instruction. -/
def fieldsOf : Instr → Option Fields
  | .nop f
  | .br f
  | .bz f
  | .bnz f
  | .bc f
  | .call f
  | .callReg f
  | .ret f
  | .jmpi f
  | .bmz f
  | .bmnz f
  | .mif f
  | .melse f
  | .mend f
  | .mloop f
  | .mbrk f
  | .mcont f
  | .mpush f
  | .mpop f
  | .waitc f
  | .yield f
  | .sleep f
  | .done f
  | .trap f
  | .brkpt f
  | .sadd f
  | .ssub f
  | .smul f
  | .smulh f
  | .sdiv f
  | .srem f
  | .sand f
  | .sor f
  | .sxor f
  | .sandn f
  | .sshl f
  | .sshr f
  | .ssra f
  | .srot f
  | .smin f
  | .smax f
  | .sclz f
  | .spopc f
  | .sbrev f
  | .sbfx f
  | .sbfi f
  | .ssel f
  | .scmp f
  | .smov f
  | .sli f
  | .slea f
  | .sfadd f
  | .sfsub f
  | .sfmul f
  | .sffma f
  | .sfmin f
  | .sfmax f
  | .sfcmp f
  | .sfcvt f
  | .sfsqrt f
  | .srd f
  | .swr f
  | .sgtime f
  | .srnd f
  | .smcnt f
  | .vadd f
  | .vsub f
  | .vmul f
  | .vmulh f
  | .vmad f
  | .vand f
  | .vor f
  | .vxor f
  | .vandn f
  | .vshl f
  | .vshr f
  | .vsra f
  | .vmin f
  | .vmax f
  | .vabs f
  | .vclz f
  | .vpopc f
  | .vbfx f
  | .vsel f
  | .vcmp f
  | .vmov f
  | .vlid f
  | .vbc f
  | .vget f
  | .vput f
  | .vperm f
  | .vshuf f
  | .vred f
  | .vscan f
  | .vhist f
  | .vbinm f
  | .vcx f
  | .vrnd f
  | .vfadd f
  | .vfsub f
  | .vfmul f
  | .vffma f
  | .vfdiv f
  | .vfsqrt f
  | .vfmin f
  | .vfmax f
  | .vfabs f
  | .vfneg f
  | .vfcmp f
  | .vfclass f
  | .vfrcp f
  | .vfrsq f
  | .vfexp2 f
  | .vflog2 f
  | .vfsin f
  | .vfcos f
  | .vftanh f
  | .vferf f
  | .vcvt f
  | .vbfma f
  | .vq4s f
  | .vq4p f
  | .vq4x f
  | .mset f
  | .mcoll f
  | .msamp f
  | .madd f
  | .msub f
  | .mmul f
  | .mfma f
  | .mscl f
  | .mrelu f
  | .mexp f
  | .msig f
  | .mtanh f
  | .mld f
  | .mst f
  | .mmov f
  | .mcfgMcr f
  | .mcfgMrho f
  | .vld f
  | .vldu f
  | .vst f
  | .vatm f
  | .vmred f
  | .vfld f
  | .vfst f
  | .sld f
  | .sst f
  | .satm f
  | .smred f
  | .sfld f
  | .sfst f
  | .srsv f
  | .scnd f
  | .bset f
  | .bsetClu f
  | .binv f
  | .binvAll f
  | .fence f
  | .cwb f
  | .cinv f
  | .cp f
  | .cpq f
  | .cpg f
  | .seal f
  | .tmma f
  | .tmmag f
  | .tzero f
  | .tld f
  | .tst f
  | .tmam f
  | .tmamm f
  | .scget f
  | .scq f
  | .scfrz f
  | .scthaw f
  | .bar f
  | .barv f
  | .barw f
  | .tmq f
  | .qpush f
  | .qpop f
  | .qdone f
  | .qspawn f
  | .qjoin f
  | .qstat f
  | .klaunch f
  | .depart f
  | .dtbeg f
  | .dtend f
  | .syscResume f
  | .syscSkip f
  | .syscAbandon f
  | .syscCall f
  | .eret f
  | .srdp f
  | .swrp f
  | .tlbiVa f
  | .tlbiCtx f
  | .tlbiAll f
  | .ctxs f
  | .ctxr f
  | .idle f => some f
  | _ => none

/-- The bytes of an instruction; `none` for a hardware step, which has no encoding. -/
def encode (i : Instr) : Option (List Byte) :=
  match row i, fieldsOf i with
  | some r, some f => some (packBytes r.op f)
  | _, _ => none

end Sys2Proof
end

