-- ==== Sys2Proof/WellFormed.lean ====
section
/-! DEFINITION. What makes an `Instr` well-formed: an encoded instruction has fields that its entry accepts (R81 steps
4 to 7); a hardware step names objects that the package has (01_device R14, R16, R23; 10_line R214; 22_context R418). -/

namespace Sys2Proof

/-- The identity of a thread that can exist: 8 partitions, 64 kernels, 2^14 group numbers, 16 system cores (22 R418,
R426). -/
def ThreadId.inRange : ThreadId → Bool
  | .grp p k g => p < 8 && k < 64 && g < 2 ^ 14
  | .sys k => k < 16

/-- A queue that can exist: an index below 2^16, or the data queue of a compute core (19 R355, R374). -/
def QueueId.inRange : QueueId → Bool
  | .table i => i < 2 ^ 16
  | .data p k c => p < 8 && k < 64 && c < 384

/-- A link that exists: 4 die boundaries and 24 couplings (24 R442). -/
def LinkId.inRange : LinkId → Bool
  | .boundary b _ => b < 4
  | .coupling k _ => k < 24

/-- The objects of a hardware step exist. Encoded instructions are judged by their entry instead. -/
def Instr.objectsExist : Instr → Bool
  | .unassignedOpcode op len => len == 3 || !assigned op.toNat
  | .pendingWriteComplete th _ | .drained th | .preemptSave th | .barrierArrival th _ | .barrierRetirement th _
  | .carriageComplete th _ | .trapCartRetry th | .sleepExpiry th | .engineDrainTimeout th | .detstallTimeout th
  | .idleTimeReached th => th.inRange
  | .persistentCompletion c _ | .persistentForward c _ | .holderRecall c _ | .lclkTick c | .corePowerGate c | .coreWake c
  | .lineEviction c _ | .thermalAlarm c _ | .thermalThrottle c _ | .thermalAlarmClear c _ | .thermalThrottleEnd c _ =>
    c < 400
  | .holderTokenAsk c _ _ r => c < 400 && r < 400
  | .forwardedMerge _ lane o => lane < 96 && o < 400
  | .forwardedSisRead _ _ o | .forwardedWtRead _ _ o => o < 400
  | .homeWrite _ lane | .reductionRequest _ lane | .reductionAckConfirm _ lane | .futureFill _ lane
  | .reductionReplayTimeout _ lane | .correctableSoftError _ lane => lane < 96
  | .ticketPerform p k | .kernelEnd p k | .kctlKill p k | .departureCheck p k | .governorEval p k => p < 8 && k < 64
  | .barrierLeave p k t => p < 8 && k < 64 && t < 256
  | .departureFire p k c => p < 8 && k < 64 && c < 384
  | .regroupPromotion d | .regroupEventEnd d | .voltageAdjust d _ | .thermalShutdown d _ => d < 4
  | .engineOpStart c _ | .engineOpComplete c _ => c < 384
  | .launchAccept p | .moveComplete p | .bankroleEffect p | .pltDistribution p | .kldbLaunch p _ | .miggoMove p _
  | .pinEnd p _ | .pcmdStart p _ | .pcmdStop p | .pcmdNone p | .bankroleWrite p _ | .lclkperWrite p _ | .updHoldWrite p _
  | .housekeepingSample p _ => p < 8
  | .sharingWindowEnd ps => ps.all (· < 8)
  | .qcmdCreate p i | .qcmdSwap p i | .qcmdUnswap p i | .qcmdDrain p i | .qcmdDiscard p i | .qcmdNone p i =>
    p < 8 && i < 2 ^ 16
  | .queueAging q l => q.inRange && l < 4
  | .ingressFrame h _ _ | .egressPop h | .egressComplete h | .pauseReceived h _ _ | .rxBufferHigh h | .rxBufferLow h
  | .portHalfUp h | .portHalfDown h | .ioTableRecordChange h => h < 16
  | .pauseTimeExpiry h p => h < 16 && p < 8
  | .flitReceive l _ _ | .nakReceive l _ | .nakRepeat l | .ackTimeout l | .retrainDone l | .retrainTimeout l
  | .trainingDone l _ | .trainingTimeout l | .downTimeout l => l.inRange
  | .couplingEnable k | .couplingDisable k => k < 24
  | _ => true

/-- The instruction is one that the part can be given. -/
def Instr.wellFormed (i : Instr) : Bool :=
  match row i, fieldsOf i with
  | some r, some f => r.legal f
  | _, _ => i.objectsExist

end Sys2Proof
end

