-- ==== Sys2Proof/Machine/Operands.lean ====
section
/-! DEFINITION. Every operand form: the registers, latches, special codes and immediates that a field names (03 R60, R66,
R67, R73), the allocation check (R69), and the registers that an instruction waits for (04 R103). -/

namespace Sys2Proof.Machine

/-! ### Reading sources -/

/-- Sign extension of the low `k` bits of `x` to `w` bits. -/
def signExt (k w x : Nat) : Nat :=
  let y := x % 2 ^ k
  if 2 ^ (k - 1) ≤ y then y + 2 ^ w - 2 ^ k else y

/-- Latch n (R72), empty outside a chain. -/
def Regs.latch (r : Regs) (code : BitVec 8) : Option Latch := r.lats[code.toNat - 248]?

/-- A source of class S: a register, or a latch that holds a scalar (R66, R73). -/
def Regs.srcS (r : Regs) (code : BitVec 8) : Word :=
  if code.toNat < 64 then r.readS code.toNat
  else match r.latch code with
    | some (.scalar x) => x
    | _ => 0

/-- A vector register of the window; none beyond the allocation (R69). -/
def Regs.readV (r : Regs) (n : Nat) : VReg := r.v.getD n {}

/-- A moment register of the window. -/
def Regs.readM (r : Regs) (n : Nat) : MReg := r.m.getD n {}

/-- The lane indices 0 to 95 as words. -/
def laneIds : List Word := (List.range 96).map fun i => BitVec.ofNat 32 i

/-- A source of class V: a register, a latch that holds a vector, or a special code (R66, R67, R73). -/
def Regs.srcV (r : Regs) (f : Fields) (code : BitVec 8) : VReg :=
  if code.toNat < 248 then r.readV code.toNat
  else if code == 252 then { tag := RAW, lanes := List.replicate 96 (r.readS f.c.toNat) }
  else if code == 253 then { tag := RAW, lanes := laneIds }
  else if code == 254 then {}
  else match r.latch code with
    | some (.vector v) => v
    | _ => {}

/-- A source of class T (05 R120), as a natural number below 2^W. -/
def Regs.srcT (r : Regs) (ty : BitVec 4) (code : BitVec 8) : Nat :=
  if wide ty then (r.readX code.toNat).toNat else (r.srcS code).toNat

/-- B of a scalar integer form, or the immediate that stands for it (R121). -/
def Regs.srcBT (r : Regs) (f : Fields) (ty : BitVec 4) : Nat :=
  match f.len with
  | .w64 => r.srcT ty f.b
  | .w96 => if isSigned ty then signExt 32 (intWidth ty) f.imm32.toNat else f.imm32.toNat
  | .w128 => f.imm.toNat

/-- B of class S, or the immediate bits (R60). -/
def Regs.srcBS (r : Regs) (f : Fields) : Word := if f.len == .w64 then r.srcS f.b else f.imm32

/-- IMM32 as the element value that stands in every element of every lane (06 R143, 07 R163). -/
def immLane (w : Nat) (x : Word) : Word :=
  match w with
  | 8 => let e := x.toNat % 2 ^ 8
         BitVec.ofNat 32 (e + e * 2 ^ 8 + e * 2 ^ 16 + e * 2 ^ 24)
  | 16 => let e := x.toNat % 2 ^ 16
          BitVec.ofNat 32 (e + e * 2 ^ 16)
  | _ => x

/-- B of class V, or the immediate in elements of `w` bits with the expected tag (06 R143, 07 R163). -/
def Regs.srcBV (r : Regs) (f : Fields) (w : Nat) (tag : Tag) : VReg :=
  if f.len == .w64 then r.srcV f f.b else { tag, lanes := List.replicate 96 (immLane w f.imm32) }

/-- The destination vector register as the instruction finds it; with ND = 1 no destination is read (R74). -/
def Regs.destV (r : Regs) (f : Fields) : VReg := if f.nd then {} else r.readV f.d.toNat

def Regs.destM (r : Regs) (f : Fields) : MReg := if f.nd then {} else r.readM f.d.toNat

/-! ### Lanes -/

/-- Lane i of a list of 96. -/
def laneOf (l : List Word) (i : Nat) : Word := l.getD i 0

/-- Writes `g i` into every lane i of the mask; the other lanes keep theirs (R97). -/
def mapActive (m : Mask) (old : List Word) (g : Nat → Word) : List Word :=
  (List.range 96).map fun i => if m.getLsbD i then g i else laneOf old i

/-- The elements of `w` bits of a lane, least significant first (02 R31). -/
def elemsOf (w : Nat) (x : Word) : List Nat := (List.range (32 / w)).map fun j => x.toNat / 2 ^ (w * j) % 2 ^ w

/-- The lane whose elements of `w` bits are given. -/
def ofElems (w : Nat) : List Nat → Nat
  | [] => 0
  | e :: es => e % 2 ^ w + 2 ^ w * ofElems w es

/-- An operation on elements, applied to each element of two lanes. -/
def laneOp2 (w : Nat) (op : Nat → Nat → Nat) (a b : Word) : Word :=
  BitVec.ofNat 32 (ofElems w (List.zipWith op (elemsOf w a) (elemsOf w b)))

/-- The same for one lane. -/
def laneOp1 (w : Nat) (op : Nat → Nat) (a : Word) : Word := BitVec.ofNat 32 (ofElems w ((elemsOf w a).map op))

/-- The same for three lanes. -/
def laneOp3 (w : Nat) (op : Nat → Nat → Nat → Nat) (a b c : Word) : Word :=
  BitVec.ofNat 32 (ofElems w (List.zipWith (fun g z => g z) (List.zipWith op (elemsOf w a) (elemsOf w b)) (elemsOf w c)))

/-- A mask of the lanes i of `m` for which `p i` holds. -/
def maskOf (m : Mask) (p : Nat → Bool) : Mask :=
  (List.range 96).foldl (fun z i => if m.getLsbD i && p i then z ||| (1#96 <<< i) else z) 0

/-! ### Destinations -/

/-- What an instruction writes to its destination (R66). -/
inductive Value where
  | none
  | s (x : Word)
  | x (d : DWord)
  | z (m : Mask)
  | v (r : VReg)
  | m (r : MReg)
  deriving DecidableEq, Repr

/-- A result of class T (05 R120). -/
def valueT (ty : BitVec 4) (x : Nat) : Value := if wide ty then .x (BitVec.ofNat 64 x) else .s (BitVec.ofNat 32 x)

/-- Writes a value to register field `d` (R66, R68, 04 R96). -/
def Regs.write (r : Regs) (ll : Mask) (d : Nat) : Value → Regs
  | .none => r
  | .s x => r.writeS ll d x
  | .x x => r.writeX ll d x
  | .z m => r.writeZ ll d m
  | .v x => { r with v := lset r.v d x }
  | .m x => { r with m := lset r.m d x }

/-- A scalar word as s n holds it after the write (R72): s60 to s62 under the launched lanes, s63 always 0 (R68). -/
def heldS (ll : Mask) (n : Nat) (x : Word) : Word :=
  if n == 63 then 0 else if 60 ≤ n then x &&& ll.extractLsb' (32 * (n - 60)) 32 else x

/-- The latch content of a result: the destination's contents after the write, or with ND = 1 the result (R72, R74). -/
def latchOf (nd : Bool) (ll : Mask) (d : Nat) : Value → Option Latch
  | .none => none
  | .s x => some (.scalar (if nd then x else heldS ll d x))
  | .x x => some (.pair (if nd then x else heldS ll (d + 1) (x.extractLsb' 32 32) ++ heldS ll d (x.extractLsb' 0 32)))
  | .z m => some (.mask (if nd then m else
      heldS ll (d + 2) (m.extractLsb' 64 32) ++ heldS ll (d + 1) (m.extractLsb' 32 32) ++ heldS ll d (m.extractLsb' 0 32)))
  | .v x => some (.vector x)
  | .m _ => none

/-! ### What an instruction names -/

/-- The registers that a code of a class names (R66, 19 R370). -/
def regsOf (c : Cls) (code : BitVec 8) : List PReg :=
  let n := code.toNat
  match c with
  | .s | .sd => if n < 64 then [.s n] else []
  | .x => [.s n, .s (n + 1)]
  | .z => [.s n, .s (n + 1), .s (n + 2)]
  | .v | .vd => if n < 248 then [.v n] else []
  | .m => [.m n]
  | .cart => (List.range 8).map fun i => .s (n + i)
  | _ => []

/-- The instruction reads the activity mask (04 R97, R99; 17 R337). -/
def readsMask (op : Nat) : Bool :=
  (0x0A ≤ op && op ≤ 0x11) || (0x50 ≤ op && op ≤ 0xC6) || op == 0xE2 || op == 0xE5

/-- Every register that the instruction reads or writes (04 R103). -/
def rowNames (r : Row) (f : Fields) : List PReg :=
  (if f.nd then [] else regsOf r.d f.d) ++ regsOf r.a f.a ++ regsOf (r.bCls f) f.b ++
  (if r.usesBcast f then regsOf .s f.c else regsOf r.c f.c) ++
  (if f.len == .w128 && r.op / 16 == 14 then regsOf r.ea f.ea ++ regsOf r.eb f.eb ++ regsOf r.ec f.ec ++ regsOf r.ed f.ed
   else []) ++
  (if readsMask r.op then [.s 60, .s 61, .s 62] else [])

/-- A code of a class lies within the group's allocation (R69, 09 R184). -/
def allocated (th : Thread) (c : Cls) (code : BitVec 8) : Bool :=
  let n := code.toNat
  match c with
  | .v | .vd => 248 ≤ n || n < th.regs.v.length
  | .m => n < th.regs.m.length
  | .t => n < th.nTiles
  | .tm => n + 1 < th.nTiles
  | _ => true

/-- Every register operand lies within the allocation (R69). -/
def rowFits (r : Row) (f : Fields) (th : Thread) : Bool :=
  (f.nd || allocated th r.d f.d) && allocated th r.a f.a && allocated th (r.bCls f) f.b &&
  (r.usesBcast f || allocated th r.c f.c) &&
  (!(f.len == .w128 && r.op / 16 == 14) ||
    (allocated th r.ea f.ea && allocated th r.eb f.eb && allocated th r.ec f.ec && allocated th r.ed f.ed))

/-- A latch code in a field of class S or V finds a latch of that class (R73). -/
def latchFits (r : Regs) (c : Cls) (code : BitVec 8) : Bool :=
  if 248 ≤ code.toNat && code.toNat ≤ 251 then
    match c, r.latch code with
    | .s, some (.scalar _) => true
    | .v, some (.vector _) => true
    | .s, _ => false
    | .v, _ => false
    | _, _ => true
  else true

/-- Every latch operand can be read (R73). -/
def rowLatchesFit (r : Row) (f : Fields) (regs : Regs) : Bool :=
  latchFits regs r.a f.a && latchFits regs (r.bCls f) f.b && (r.usesBcast f || latchFits regs r.c f.c) &&
  (!(f.len == .w128 && r.op / 16 == 14) ||
    (latchFits regs r.ea f.ea && latchFits regs r.eb f.eb && latchFits regs r.ec f.ec && latchFits regs r.ed f.ed))

end Sys2Proof.Machine
end

