-- ==== Sys2Proof/Machine/Issue.lean ====
section
/-! DEFINITION. Issue: the checks of R81 steps 4 and 8 to 11 with the scoreboard of 04 R103, the two frames in which every
instruction's own effect stands (`compute`, `control`), and the chain rules of 03 R70 to R75. -/

namespace Sys2Proof.Machine

/-- The instruction may stand where it stands in a chain (R70, R71). -/
def chainAllows (r : Row) (f : Fields) (th : Thread) : Bool :=
  let inChain := f.ch || th.chain.isSome
  let count := match th.chain with
    | some c => c.count + 1
    | none => 1
  !inChain || match r.chain with
    | .no => false
    | .member => !(f.ch && 8 ≤ count)
    | .tail => !f.ch

/-- The pending registers that the instruction names (04 R103). s63 is never pending: writes to it are discarded. -/
def blockedBy (r : Row) (f : Fields) (th : Thread) : List PReg :=
  let ps := th.pend.map (·.reg)
  ((rowNames r f).filter fun p => ps.contains p && p != .s 63)

/-- The registers as a chain's head finds its latches: empty (R72). -/
def Thread.opened (th : Thread) : Thread :=
  if th.chain.isSome then th else { th with regs := { th.regs with lats := [] } }

/-- R81 steps 4 and 8 to 11 in their order, then the stall of R103. Steps 5 to 7 are the decoder's. -/
def check (i : Instr) (f : Fields) (s : State) (th : Thread) : Res Unit :=
  match row i with
  | none => .ok ()
  | some r =>
    if (match th.id with | .sys _ => !r.sys | .grp _ _ _ => false) then trap ILLEGAL
    else if !chainAllows r f th then trap ILLEGAL
    else if r.priv && userMode s th.id then trap PRIV
    else if !rowFits r f th then trap BOUNDS
    else if !rowLatchesFit r f th.opened.regs then trap LATCH
    else match blockedBy r f th with
      | [] => .ok ()
      | ps => .error (.wait (.scoreboard ps))

/-- After an instruction: a member with CH = 1 leaves the chain open and the group ISSUING (R70, R86); otherwise no chain
is open, the latches are empty (R72) and the group is READY. `before` is the thread at issue. -/
def Thread.closed (th before : Thread) (f : Fields) : Thread :=
  if f.ch then
    let c := before.chain.getD { head := before.regs.pc, count := 0, saved := before.regs }
    { th with chain := some { c with count := c.count + 1 }, run := .issuing }
  else { th with chain := none, regs := { th.regs with lats := [] }, run := .ready, replay := none }

/-- Writes the result to the destination and, in a chain, to y0 (R72, R74). -/
def Thread.retire (th before : Thread) (f : Fields) (v : Value) : Thread :=
  let r := th.regs
  let r1 := if f.nd then r else r.write th.ll f.d.toNat v
  let r2 := if f.ch || before.chain.isSome then
      match latchOf f.nd th.ll f.d.toNat v with
      | some l => { r1 with lats := (l :: r1.lats).take 4 }
      | none => r1
    else r1
  { th with regs := r2 }

/-- Runs an instruction of the issuing thread whose effect is on the thread alone: `body` answers the thread with every
effect but the destination's, and the value for the destination. -/
def compute (i : Instr) (f : Fields) (body : Thread → Res (Thread × Value)) (s : State) :
    Host.Outcome State Fault Refusal :=
  let th := s.cur
  conclude s th.id (match check i f s th with
    | .error e => .error e
    | .ok _ =>
      match body th.opened with
      | .error e => .error e
      | .ok (th1, v) => .ok { s with cur := ((th1.retire th f v).next f.len.slot).closed th f })

/-- The same for an instruction that only computes a value. -/
def computeV (i : Instr) (f : Fields) (body : Thread → Res Value) (s : State) : Host.Outcome State Fault Refusal :=
  compute i f (fun th => match body th with
    | .error e => .error e
    | .ok v => .ok (th, v)) s

/-- Runs an instruction that acts on the whole state: `body` does everything, the program counter and the end of its
issue included. -/
def control (i : Instr) (f : Fields) (body : State → Thread → Res State) (s : State) :
    Host.Outcome State Fault Refusal :=
  let th := s.cur
  conclude s th.id (match check i f s th with
    | .error e => .error e
    | .ok _ => body s th.opened)

/-- Puts back the issuing thread, its destination written, past its instruction (for `control`). -/
def finish (s : State) (th before : Thread) (f : Fields) (v : Value) : State :=
  s.setThread (((th.retire before f v).next f.len.slot).closed before f)

/-- The pending register and value of a special-function result (04 R103). -/
def pendOf (d : Nat) : Value → Option (PReg × PVal)
  | .v r => some (.v d, .v r)
  | .m r => some (.m d, .m r)
  | _ => none

/-- Runs an instruction of the special-function unit (04 R103): outside a chain the destination stays pending until
PENDING_WRITE_COMPLETE; in a chain, or with ND = 1, it is `computeV`. -/
def computeSfu (i : Instr) (f : Fields) (body : Thread → Res Value) (s : State) : Host.Outcome State Fault Refusal :=
  let th := s.cur
  if f.nd || f.ch || th.chain.isSome then computeV i f body s
  else
    conclude s th.id (match check i f s th with
      | .error e => .error e
      | .ok _ =>
        match body th.opened with
        | .error e => .error e
        | .ok v =>
          let pend := match pendOf f.d.toNat v with
            | some (reg, val) => [{ reg, tag := s.serial, val }]
            | none => []
          let th1 := ((th.opened.next f.len.slot).closed th f)
          .ok (({ s with cur := { th1 with pend := th1.pend ++ pend }, serial := s.serial + 1 }).push
            (.pendingWriteComplete th.id s.serial)))

/-- Writes what a writer left pending and frees the scoreboard (04 R103). -/
def Thread.settlePend (th : Thread) (tag : Nat) : Thread :=
  let done := th.pend.filter fun p => p.tag == tag
  (th.land fun r => done.foldl (fun r p => match p.reg, p.val with
    | .v n, .v x => r.write th.ll n (.v x)
    | .m n, .m x => r.write th.ll n (.m x)
    | _, _ => r) r).clearPend tag

end Sys2Proof.Machine
end

