-- ==== Sys2Proof/Machine/Access.lean ====
section
/-! DEFINITION. Accesses to memory from issue to completion (11_memory_instructions R246..R267): the checks before an
access, the record of an access in flight, what it does at its core, and when it may start (R265, R266). What homes and
holders do is in Home.lean. -/

namespace Sys2Proof.Machine

/-! ### Windows private to a group (10 R213) -/

def localKind : BaseKind → Bool
  | .scratch => true
  | .slice => true
  | .regWindow => true
  | _ => false

/-- The n bytes at offset `o` of the register window lie in a register that the group holds (04 R92). -/
def regWindowOk (r : Regs) (o n : Nat) : Bool :=
  o + n ≤ 0x100 ||
  (0x1000 ≤ o && o + n ≤ 0x1000 + 384 * r.v.length) ||
  (0x20000 ≤ o && o + n ≤ 0x20000 + 768 * r.m.length)

/-- The register word at offset `o` of the register window (R92). -/
def Regs.windowWord (r : Regs) (o : Nat) : Word :=
  if o < 0x1000 then r.readS (o / 4)
  else if o < 0x20000 then laneOf (r.readV ((o - 0x1000) / 384)).lanes ((o - 0x1000) % 384 / 4)
  else
    let m := r.readM ((o - 0x20000) / 768)
    let k := (o - 0x20000) % 768
    laneOf (if k % 8 < 4 then m.mean else m.var) (k / 8)

/-- Writes a register word through the register window: the tag becomes RAW, the mask follows R96 (R93). -/
def Regs.setWindowWord (r : Regs) (ll : Mask) (o : Nat) (x : Word) : Regs :=
  if o < 0x1000 then r.writeS ll (o / 4) x
  else if o < 0x20000 then
    let n := (o - 0x1000) / 384
    let v := r.readV n
    { r with v := lset r.v n { tag := RAW, lanes := lset v.lanes ((o - 0x1000) % 384 / 4) x } }
  else
    let n := (o - 0x20000) / 768
    let m := r.readM n
    let k := (o - 0x20000) % 768
    let m1 : MReg := if k % 8 < 4 then { m with tag := RAW, mean := lset m.mean (k / 8) x }
      else { m with tag := RAW, var := lset m.var (k / 8) x }
    { r with m := lset r.m n m1 }

/-- Reads n bytes of a private window. -/
def Thread.localRead (th : Thread) (k : BaseKind) (key n : Nat) : Nat :=
  match k with
  | .scratch => th.scr.readNat key n
  | .slice => th.slice.readNat key n
  | _ =>
    let lo := (th.regs.windowWord (key / 4 * 4)).toNat
    let hi := if n == 8 then (th.regs.windowWord (key + 4)).toNat else 0
    (lo + 2 ^ 32 * hi) / 2 ^ (8 * (key % 4)) % 2 ^ (8 * n)

/-- Writes n bytes of a private window. -/
def Thread.localWrite (th : Thread) (k : BaseKind) (key n x : Nat) : Thread :=
  match k with
  | .scratch => { th with scr := th.scr.writeNat key n x }
  | .slice => { th with slice := th.slice.writeNat key n x }
  | _ =>
    if n == 8 then
      let r1 := th.regs.setWindowWord th.ll key (BitVec.ofNat 32 x)
      { th with regs := r1.setWindowWord th.ll (key + 4) (BitVec.ofNat 32 (x / 2 ^ 32)) }
    else
      let old := (th.regs.windowWord (key / 4 * 4)).toNat
      let sh := 8 * (key % 4)
      let y := old - old / 2 ^ sh % 2 ^ (8 * n) * 2 ^ sh + x % 2 ^ (8 * n) * 2 ^ sh
      { th with regs := th.regs.setWindowWord th.ll (key / 4 * 4) (BitVec.ofNat 32 y) }

/-! ### The checks before an access (R249) -/

/-- What an instruction needs of each lane's address. -/
structure Need where
  perm : Perm
  width : Nat
  align : Nat
  /-- The access writes bytes, so the protected ones raise PROT (03 R57, 20 R390). -/
  writes : Bool
  deriving DecidableEq, Repr

/-- EA of an offset (R247). -/
def BaseReg.ea (b : BaseReg) (off : Nat) : DWord := b.vbase + BitVec.ofNat 64 off

/-- R249 step 3 for one lane: the offset lies below LIMIT in a window, and reaches no gap of the register window and no
byte that R400 refuses. -/
def inWindow (s : State) (th : Thread) (b : BaseReg) (width off : Nat) : Bool :=
  match b.kind with
  | .global => true
  | .regWindow => off < b.limit && regWindowOk th.regs ((b.ea off).toNat % 2 ^ 56) width
  | .chip => off < b.limit && (chipKey (kernelOf s th) (dieOfCore th.core) (b.ea off).toNat).isSome
  | _ => off < b.limit

/-- Steps 1 to 4 of R249 for all lanes (lane, offset), in order. -/
def preCheck (s : State) (th : Thread) (b : BaseReg) (n : Need) (lanes : List (Nat × Nat)) : Res Unit :=
  let k := n.perm.kind
  let at_ (code : Nat) (x : Nat × Nat) : Res Unit := .error (.trap code (memDetail k 0) (b.ea x.2).toNat 0)
  if lanes.isEmpty then .ok ()
  else if !b.valid then .error (.trap BOUNDS (memDetail k 0) 0 0)
  else match lanes.find? fun x => (b.ea x.2).toNat % n.align != 0 with
    | some x => at_ ALIGN x
    | none =>
      match lanes.find? fun x => !inWindow s th b n.width x.2 with
      | some x => at_ BOUNDS x
      | none =>
        match lanes.find? fun x => regionOf (b.ea x.2).toNat == none with
        | some x => at_ PROT x
        | none => .ok ()

/-- The key and the policy of one lane after step 5 of R249: `pol` is the instruction's own, 0 for none (21 R399, R405);
host memory is accessed under wt, whatever is named (24 R447). -/
def locate (s : State) (th : Thread) (b : BaseReg) (n : Need) (pol lane off : Nat) :
    Except NoLeaf (Nat × Nat) × State :=
  let va := (b.ea off).toNat
  let own (d : Nat) : Nat := if pol == 0 then d else pol
  let sound (key p : Nat) : Except NoLeaf (Nat × Nat) × State :=
    (if s.ecc.contains (key / 128) then .error (.fault ECC 0) else .ok (key, p), s)
  match b.kind with
  | .scratch => (.ok (va % 2 ^ 56, 2), s)
  | .slice => (.ok (1024 * lane + va % 2 ^ 56, 2), s)
  | .regWindow => (.ok (va % 2 ^ 56, 2), s)
  | .chip => sound ((chipKey (kernelOf s th) (dieOfCore th.core) va).getD 0) (own 2)
  | .cluster => sound (keyCluster (b.slot.getD 0) (va % 2 ^ 56)) (own 1)
  | .global =>
    let prot (key : Nat) : Bool := match th.id with
      | .grp _ _ _ => n.writes && protectedByte s key
      | .sys _ => false
    let done (l : Leaf) (s1 : State) : Except NoLeaf (Nat × Nat) × State :=
      if !l.allows n.perm then (.error (.fault PROT l.level), s1)
      else if prot (l.key va) then (.error (.fault PROT 0), s1)
      else if s1.ecc.contains (l.key va / 128) then (.error (.fault ECC 0), s1)
      else (.ok (l.key va, if l.loc == 3 then 2 else own l.dpol), s1)
    if off < b.limit then done b.leaf s
    else match translateFor s th va n.perm with
      | (.ok l, s1) => done l s1
      | (.error e, s1) => (.error e, s1)

/-- Step 5 of R249 in ascending lane order: the lanes that passed, and how the first one that did not ended. -/
def locateAll (th : Thread) (b : BaseReg) (n : Need) (pol : Nat) :
    List (Nat × Nat) → State → List LaneAcc → List LaneAcc × Option (Nat × NoLeaf) × State
  | [], s, acc => (acc, none, s)
  | (lane, off) :: xs, s, acc =>
    match locate s th b n pol lane off with
    | (.error e, s1) => (acc, some ((b.ea off).toNat, e), s1)
    | (.ok (key, p), s1) => locateAll th b n pol xs s1 (acc ++ [{ lane, ea := b.ea off, key, pol := p }])

/-- What the checks leave: every lane, or the lanes below a PAGE fault with its detail, address and unfinished lanes. -/
structure Resolved where
  lanes : List LaneAcc
  page : Option (Nat × Nat × Mask) := none
  st : State

/-- All checks of R249. `scalar` says that U is all zeros (04 R108). -/
def resolve (s : State) (th : Thread) (b : BaseReg) (n : Need) (pol : Nat) (scalar : Bool) (lanes : List (Nat × Nat)) :
    Res Resolved :=
  match preCheck s th b n lanes with
  | .error e => .error e
  | .ok _ =>
    match locateAll th b n pol lanes s [] with
    | (ls, none, s1) => .ok { lanes := ls, st := s1 }
    | (_, some (_, .moving pte), _) => .error (.wait (.moving pte))
    | (_, some (_, .link key), _) => .error (.wait (.link key))
    | (ls, some (va, .fault code level), s1) =>
      if code == PAGE then
        let rest := (lanes.drop ls.length).foldl (fun (z : Mask) x => z ||| (1#96 <<< x.1)) 0
        .ok { lanes := ls, page := some (memDetail n.perm.kind level, va, if scalar then 0 else rest), st := s1 }
      else .error (.trap code (memDetail n.perm.kind level) va 0)

/-! ### Accesses in flight -/

/-- What the kind of access writes over `old`, in `width` bytes; a load writes nothing (R256, R258, R262). -/
def writtenOver (a : Access) (l : LaneAcc) (old : Nat) : Option Nat :=
  match a.kind with
  | .store => some l.data
  | .cond => some l.data
  | .atomic fn => some (atomicNew fn a.ty (8 * a.width) old l.data l.expect)
  | .reduce fn => some (atomicNew fn a.ty (8 * a.width) old l.data l.expect)
  | .futFill => some (l.data % 2 ^ 32 + 2 ^ 32 * (old / 2 ^ 32 ||| 1))
  | _ => none

/-- The access reads bytes into a register (R253..R256, R261, R264). -/
def AccKind.reads : AccKind → Bool
  | .load => true
  | .atomic _ => true
  | .futLoad => true
  | .reserve => true
  | _ => false

/-- The access sets or uses the group's one reservation (R264). -/
def AccKind.resv : AccKind → Bool
  | .reserve => true
  | .cond => true
  | _ => false

/-- The order code has an acquire side, or a release side (R265). -/
def acquires (order : Nat) : Bool := order == 1 || order == 3
def releases (order : Nat) : Bool := order == 2 || order == 3

/-- The policy that takes effect for a lane at its core (10 R218..R220); of host memory no copy is kept (24 R447). -/
def effectivePol (s : State) (a : Access) (l : LaneAcc) : Nat :=
  let pol := l.pol
  let keeps := keepsCopies s a.core && !inHost l.key
  match a.kind with
  | .load => if (pol == 3 && !(s.core a.core).gt.sync) || !keeps then 2 else pol
  | .reserve => if keeps then 1 else 2
  | .cond => if keeps then 1 else 2
  | .store => if !keeps && pol != 3 then 2 else pol
  | .atomic _ => if !keeps && pol != 3 then 2 else pol
  | _ => if pol == 3 then 3 else 2

/-- Marks a lane done with a value and the wts of the copy that it read or wrote, if any. -/
def Access.laneDone (a : Access) (lane value : Nat) (wts : Option (BitVec 16)) : Access :=
  { a with lanes := a.lanes.map fun l => if l.lane == lane then { l with done := true, value, wts } else l }

/-- Marks a lane refused (R261, R263). -/
def Access.laneRefused (a : Access) (lane : Nat) : Access :=
  { a with lanes := a.lanes.map fun l => if l.lane == lane then { l with done := true, refused := true } else l }

/-- The lanes still to be performed. -/
def Access.todo (a : Access) : List LaneAcc := a.lanes.filter fun l => !l.done

/-- A copy of line `ln` serves lane `l` now: every lane left in the line (11 R255), but under `.ord` only the lanes before the
first one left in another line (R266). -/
def Access.served (a : Access) (ln : Nat) (l : LaneAcc) : Bool :=
  !l.done && l.key / 128 == ln &&
  (a.order != 4 || (a.todo.takeWhile fun x => x.key / 128 == ln).any fun x => x.lane == l.lane)

/-- The bytes of a loaded value replaced by the group's own staged bytes (20 R393). -/
def overlay (width value : Nat) (patch : List (Nat × Byte × Byte)) : Nat :=
  ofLeBytes (patch.foldl (fun bs o => lset bs o.1 ((bs.getD o.1 0 &&& o.2.1) ||| o.2.2)) (leBytes width value))

/-- Records the greatest wts read since the group's previous acquire (10 R233). -/
def noteRead (s : State) (id : ThreadId) (wts : BitVec 16) : State :=
  s.onThread id fun th => { th with acqWts := some (match th.acqWts with
    | some w => maxT w wts
    | none => wts) }

/-- The reservation of the thread covers this access (R264). -/
def resvHolds (th : Thread) (a : Access) (l : LaneAcc) : Bool :=
  match th.resv with
  | some r => r.kind == a.space && r.ea == l.ea && r.width == a.width
  | none => false

/-- Sets the reservation of `srsv`, unless the group has trapped since it issued (R264). -/
def setResv (s : State) (a : Access) (l : LaneAcc) : State :=
  let r : Resv := {
    line := if localKind a.space then none else some (l.key / 128), kind := a.space, ea := l.ea, width := a.width }
  if a.noResv then s else s.onThread a.th fun th => { th with resv := some r }

/-- The value bits and the full bit of a future word (R260). -/
def futFull (x : Nat) : Bool := bitSet x 32

/-- One lane in a private window: performed at once. -/
def stepLocal (s : State) (a : Access) (l : LaneAcc) : State :=
  match s.thread? a.th with
  | none => s.setAcc (a.laneDone l.lane 0 none)
  | some th =>
    let old := th.localRead a.space l.key a.width
    match a.kind with
    | .futLoad => s.setAcc (if futFull old then a.laneDone l.lane (old % 2 ^ 32) none else a.laneRefused l.lane)
    | .cond =>
      let ok := resvHolds th a l
      let th1 := if ok then th.localWrite a.space l.key a.width l.data else th
      (s.setThread { th1 with resv := none }).setAcc (a.laneDone l.lane (if ok then 1 else 0) none)
    | .reserve => (setResv s a l).setAcc (a.laneDone l.lane old none)
    | _ =>
      let s1 := match writtenOver a l old with
        | some x => s.setThread (th.localWrite a.space l.key a.width x)
        | none => s
      s1.setAcc (a.laneDone l.lane (overlay a.width old l.patch) none)

/-- All lanes of a load that lie in one line read one copy of it (R255); `kept` says that its core holds that copy. -/
def readCopy (s : State) (a : Access) (y : Copy) (kept : Bool) : State :=
  let read (l : LaneAcc) : LaneAcc :=
    if a.served y.line l then
      { l with done := true, wts := some y.wts, kept,
               value := overlay a.width (ofLeBytes ((y.data.drop (l.key % 128)).take a.width)) l.patch }
    else l
  let s1 := noteRead (s.setAcc { a with lanes := a.lanes.map read }) a.th y.wts
  match a.kind, a.lanes.head? with
  | .reserve, some l => setResv s1 a l
  | _, _ => s1

/-- A write or operation by the core that holds all 512 tokens, in its own copy (10 R217, R218). It breaks the reservations of
other groups on the line, those recorded at home among them (R219, R241, 14 R302). -/
def writeOwn (s : State) (a : Access) (l : LaneAcc) (y : Copy) : State :=
  let o := l.key % 128
  let old := ofLeBytes ((y.data.drop o).take a.width)
  let ok := match a.kind with
    | .cond => (match s.thread? a.th with
      | some th => resvHolds th a l
      | none => false)
    | _ => true
  let s0 := match a.kind with
    | .cond => s.onThread a.th fun th => { th with resv := none }
    | _ => s
  match writtenOver a l old with
  | some x =>
    if ok then
      let s1 := putCopy (breakResv (breakHomeResv s0 y.line (some a.th)) a.core y.line (some a.th)) a.core
        { y with dirty := true, data := spliceBytes y.data o (leBytes a.width x) }
      let s2 := if a.kind.reads then noteRead s1 a.th y.wts else s1
      s2.setAcc (a.laneDone l.lane (match a.kind with
        | .cond => 1
        | _ => old) (some y.wts))
    else s0.setAcc (a.laneDone l.lane 0 none)
  | none => s0.setAcc (a.laneDone l.lane old (some y.wts))

/-- A load of one lane (10 R216): served from a copy, or the request that it sends. -/
def stepLoad (s : State) (a : Access) (l : LaneAcc) : State × Bool :=
  let ln := l.key / 128
  let pol := effectivePol s a l
  let copy := copy? s a.core ln
  match pol, copy with
  | 2, _ => (s.push (.homeWtLoad a.id ln), false)
  | 3, some y =>
    if y.tokens != 0 || !before y.rts (s.core a.core).lclk then (readCopy s a y true, true)
    else (s.push (.homeSisLoad a.id ln), false)
  | 3, none => (s.push (.homeSisLoad a.id ln), false)
  | _, some y => if y.tokens != 0 then (readCopy s a y true, true) else (s.push (.homeTokenRequest a.id ln), false)
  | _, none => (s.push (.homeTokenRequest a.id ln), false)

/-- A store, atomic or conditional store of one lane (10 R217, R218). -/
def stepWrite (s : State) (a : Access) (l : LaneAcc) : State × Bool :=
  let ln := l.key / 128
  let failed := match a.kind with
    | .cond => (match s.thread? a.th with
      | some th => !resvHolds th a l
      | none => true)
    | _ => false
  if failed then ((s.onThread a.th fun th => { th with resv := none }).setAcc (a.laneDone l.lane 0 none), true)
  else if effectivePol s a l == 1 then
    match copy? s a.core ln with
    | some y => if y.tokens == 512 then (writeOwn s a l y, true) else ((dropLease s a.core ln).push (.homeAllTokenRequest a.id ln), false)
    | none => (s.push (.homeAllTokenRequest a.id ln), false)
  else ((dropLease s a.core ln).push (.homeWrite a.id l.lane), false)

/-- `cwb` and `cinv` at the core (R267). -/
def stepMaintain (s : State) (a : Access) (l : LaneAcc) : State :=
  let ln := l.key / 128
  let s1 := match a.kind with
    | .cinv => sendHome s a.core ln
    | _ => match copy? s a.core ln with
      | some y =>
        if y.dirty then absorb (putCopy s a.core { y with dirty := false }) ln a.core 0 (some y.data) (s.core a.core).lclk
        else s
      | none => s
  s1.setAcc (a.laneDone l.lane 0 none)

/-- One lane of an access in a line that can be reached: done at once (`true`), or a request sent. -/
def stepLine (s : State) (a : Access) (l : LaneAcc) : State × Bool :=
  match a.kind with
  | .load => stepLoad s a l
  | .reserve => stepLoad s a l
  | .store => stepWrite s a l
  | .atomic _ => stepWrite s a l
  | .cond => stepWrite s a l
  | .reduce _ => ((dropLease s a.core (l.key / 128)).push (.reductionRequest a.id l.lane), false)
  | .futFill => ((dropLease s a.core (l.key / 128)).push (.futureFill a.id l.lane), false)
  | .futLoad => (s.push (.futureLoadRequest a.id l.key), false)
  | .cwb => (stepMaintain s a l, true)
  | .cinv => (stepMaintain s a l, true)
  | .fence => (s, true)

/-- One lane of an access: a lane behind links that are not ready waits (24 R444); a request sent to another die, or over a
coupling, crosses the links of its route (01 R15). -/
def stepLane (s : State) (a : Access) (l : LaneAcc) : State × Bool :=
  if localKind a.space then (stepLocal s a l, true)
  else if !lineReachable s (dieOfCore a.core) l.key then (s, false)
  else match stepLine s a l with
    | (s1, true) => (s1, true)
    | (s1, false) => (sendCrossing s1 (dieOfCore a.core) l.key, false)

/-- The latest wts of the lanes that have one. -/
def latestWts (ls : List LaneAcc) : Option (BitVec 16) :=
  ls.foldl (fun w l => match w, l.wts with
    | some x, some y => some (maxT x y)
    | none, y => y
    | x, none => x) none

/-- The clock of the issuer of an sis write jumps to the returned wts (10 R231), as the access completes (12 R268). -/
def jumpDone (s : State) (a : Access) : State :=
  let writes := match a.kind with
    | .store => true
    | .atomic _ => true
    | .reduce _ => true
    | .futFill => true
    | _ => false
  match latestWts (if writes then a.lanes.filter fun l => l.pol == 3 else []) with
  | some w => raiseClock s a.core w
  | none => s

/-- The acquire side of a completed access or fence: the clock rises to the copies that it read (10 R233), and the core's
lease copies go but for those that it read (14 R303). Scope `.grp` discards nothing, but where a release of `.clu` scope of the
partition has been promoted (13 R280, R284; log 54); a private window has no scope (10 R213). -/
def acquireDone (s : State) (a : Access) : State :=
  if !acquires a.order then s
  else
    let s1 := match (if a.kind == .fence then (s.thread? a.th).bind (·.acqWts) else latestWts a.lanes) with
      | some w => raiseClock s a.core w
      | none => s
    let s2 := s1.onThread a.th fun th => { th with acqWts := none }
    if localKind a.space || (a.scope == 0 && !(s.part (partOf s a.th)).promoted) then s2
    else discardLeases s2 a.core ((a.lanes.filter (·.kept)).map fun l => l.key / 128)

/-! ### What an access writes when it completes -/

/-- The register image of a loaded scalar (R254). -/
def loadImage (ty x : Nat) : Word :=
  match ty with
  | 1 => BitVec.ofNat 32 (signExt 8 32 x)
  | 2 => BitVec.ofNat 32 (signExt 16 32 x)
  | _ => BitVec.ofNat 32 x

/-- The tag that a vector load writes (R253); a future load of TY 0 likewise (log 55). -/
def loadTag (ty : BitVec 4) : Tag := if ty == 0 then RAW else tagOfTy ty

/-- The pairs of `mld` (09 R205): bf16 members widened, a NaN canonical, a −0 variance +0. -/
def loadPair (pairs : Bool) (x : Nat) : Nat × Nat :=
  let m := if pairs then x % 2 ^ 32 else x % 2 ^ 16 * 2 ^ 16
  let v := if pairs then x / 2 ^ 32 % 2 ^ 32 else x / 2 ^ 16 % 2 ^ 16 * 2 ^ 16
  let canon (y : Nat) : Nat := if isNaN 24 y then canonNaN 24 else y
  (canon m, if v == 2 ^ 31 then 0 else canon v)

/-- The registers with the destination of a completed access written (R253..R256, R261, 09 R205). -/
def destRegs (ll : Mask) (a : Access) (r : Regs) : Regs :=
  let val (i : Nat) : Option Nat := (a.lanes.find? fun l => l.lane == i && !l.refused).map (·.value)
  let lanes (old : List Word) (g : Nat → Word) : List Word :=
    (List.range 96).map fun i => match val i with
      | some x => g x
      | none => laneOf old i
  let v0 := (a.lanes.head?.map (·.value)).getD 0
  let refused := a.lanes.any (·.refused)
  match a.dest with
  | .none => r
  | .v n tag => r.write ll n (.v { tag, lanes := lanes (r.readV n).lanes fun x => BitVec.ofNat 32 x })
  | .s n ty => r.writeS ll n (loadImage ty v0)
  | .x n => r.writeX ll n (BitVec.ofNat 64 v0)
  | .m n pairs =>
    let m := r.readM n
    let m1 : MReg := {
      tag := MOM,
      mean := lanes m.mean fun x => BitVec.ofNat 32 (loadPair pairs x).1,
      var := lanes m.var fun x => BitVec.ofNat 32 (loadPair pairs x).2 }
    r.write ll n (.m m1)
  | .future n z =>
    let no := a.lanes.foldl (fun (m : Mask) l => if l.refused then m ||| (1#96 <<< l.lane) else m) 0
    let v1 : VReg := { tag := loadTag (BitVec.ofNat 4 a.ty), lanes := lanes (r.readV n).lanes fun x => BitVec.ofNat 32 x }
    let r1 := if 248 ≤ n then r else r.write ll n (.v v1)
    r1.writeZ ll z ((r1.readZ z &&& ~~~a.cover) ||| no)
  | .sFuture n =>
    let r1 := if refused || 64 ≤ n then r else r.writeS ll n (BitVec.ofNat 32 v0)
    r1.setStatus (if refused then stFnack else stOk)

/-- The thread with the destination of a completed access written. -/
def writeDest (th : Thread) (a : Access) : Thread := th.land (destRegs th.ll a)

/-! ### The course of an access -/

/-- Every lane is done: the clock moves (12 R268), and the completions of 04 R106 follow; a fence, which no counter counts,
ends at once. -/
def completeAccess (s0 : State) (a : Access) : State :=
  let s := match a.kind with
    | .store => if localKind a.space then s0 else a.lanes.foldl (fun s l => enableAgains s l.key (leBytes a.width l.data)) s0
    | _ => s0
  let s1 := acquireDone (jumpDone s a) a
  let s2 := if a.countLc then s1.push (.loadComplete a.id) else s1
  let s3 := if a.countSc then s2.push (.storePerformed a.id) else s2
  if a.countLc || a.countSc then s3
  else match a.kind with
    | .fence => s3.dropAcc a.id
    | _ => s3.push (.loadComplete a.id)

/-- Performs lanes in ascending order until one must wait for an answer, or all are done. -/
def runAccess : Nat → State → Nat → State
  | 0, s, _ => s
  | fuel + 1, s, id =>
    match s.acc? id with
    | none => s
    | some a =>
      match a.todo with
      | [] => completeAccess s a
      | l :: _ =>
        match stepLane s a l with
        | (s1, true) => runAccess fuel s1 id
        | (s1, false) => s1

/-- A future load asks for all its words at once: a lane that waits holds up no other (R261). Under `.ord` it asks for one
after the other, in lane order (R266). -/
def startFutures (s : State) (a : Access) : State :=
  if localKind a.space then runAccess 200 s a.id
  else match a.todo with
    | [] => completeAccess s a
    | l :: ls =>
      let keys := if a.order == 4 then [l.key] else ((l :: ls).map (·.key)).eraseDups
      keys.foldl (fun s k =>
        if lineReachable s (dieOfCore a.core) k then (sendCrossing s (dieOfCore a.core) k).push (.futureLoadRequest a.id k) else s) s

/-- Some lanes of a future load have been answered or refused: it completes, or under `.ord` asks for its next word. -/
def goOnFuture (s : State) (a : Access) : State :=
  if a.todo.isEmpty then completeAccess s a else if a.order == 4 then startFutures s a else s

/-- Two accesses may touch one byte: they name one line, or one private window. -/
def overlaps (a b : Access) : Bool :=
  a.lanes.any fun x => b.lanes.any fun y =>
    if localKind a.space || localKind b.space then a.space == b.space else x.key / 128 == y.key / 128

/-- Access `a` may start while `e`, earlier in its group's program order, is in flight (R265, R266, 10 R215). -/
def mayPass (e a : Access) : Bool :=
  !acquires e.order && !(releases a.order) && !(a.order == 4 && e.order == 4) &&
  !(e.kind == .fence) && !(a.kind == .fence) && !(e.kind.resv && a.kind.resv) && (e.kind == .futLoad && e.started || !overlaps e a)

/-- The access writes bytes (R217, R218). -/
def AccKind.writes : AccKind → Bool
  | .store => true
  | .atomic _ => true
  | .reduce _ => true
  | .futFill => true
  | .cond => true
  | _ => false

/-- A staged entry, earlier in the group's program order and not yet performed, holds the access back: one with an acquire side,
one of the ordered stream before another, and one on a line that the access writes (R265, R266, 14 R301; 20 R392, R393). -/
def stagedHolds (s : State) (id : ThreadId) (a : Access) : Bool :=
  match id with
  | .sys _ => false
  | .grp p kn g =>
    match s.kernel? p kn, s.thread? id with
    | some k, some th => k.staged.any fun e => e.gid == g && e.serial < a.id &&
        (acquires e.order || (e.order == 4 && a.order == 4) || (a.kind.writes && !localKind a.space &&
          match hwKey s p th.ctx k e.ea.toNat .none with
          | .ok q => a.lanes.any fun l => l.key / 128 == q / 128
          | .error _ => false))
    | _, _ => false

/-- Starts, in program order, every access of the group that may start. -/
def pumpList (id : ThreadId) : List Nat → State → State
  | [], s => s
  | n :: ns, s =>
    match s.acc? n with
    | none => pumpList id ns s
    | some a =>
      if a.started then pumpList id ns s
      else if !stagedHolds s id a && (s.accs.filter fun e => e.th == id && e.id < n).all fun e => mayPass e a then
        let a1 := { a with started := true }
        let s1 := s.setAcc a1
        pumpList id ns (match a.kind with
          | .futLoad => startFutures s1 a1
          | _ => runAccess 200 s1 n)
      else pumpList id ns s

/-- The ticket unit looks again at an entry of the group that it would perform next (20 R391). -/
def wakeTicket (s : State) (id : ThreadId) : State :=
  match id with
  | .sys _ => s
  | .grp p kn g => match s.kernel? p kn with
    | none => s
    | some k => if (k.staged.find? fun e => e.block == k.ct).any fun e => e.gid == g && !e.held then s.push (.ticketPerform p kn) else s

/-- Starts what may start. -/
def pump (s : State) (id : ThreadId) : State :=
  wakeTicket (pumpList id ((s.accs.filter fun a => a.th == id).map (·.id)) s) id

/-- Lets go on what waits for links that are ready again (24 R444): accesses, tokens on their way home, staged entries. -/
def resumeAll (s : State) : State :=
  let s1 := ((s.accs.filter fun a => a.started && !a.todo.isEmpty).map (·.id)).foldl (fun s n => match s.acc? n with
    | some a => (match a.kind with
      | .futLoad => startFutures s a
      | _ => runAccess 200 s n)
    | none => s) s
  let s2 := s1.pushAll (s1.msgs.map fun m => .tokenReturn m.id)
  let tickets := (s2.parts.map fun e => (e.2.kernels.filter fun k => k.2.desc.det).map fun k => Instr.ticketPerform e.1 k.1).flatten
  s2.pushAll tickets

/-- Counts the bytes of accesses to the cluster-shared window (13 R273). -/
def countShares (s : State) (a : Access) : State :=
  if a.space == .cluster then a.lanes.foldl (fun s l => addShare s a.core (homeOf s (l.key / 128)) a.width) s else s

/-- The counters of 04 R106 leave no room (R107). -/
def counterFull (th : Thread) (lc sc : Bool) : Bool := (lc && 63 ≤ th.lc) || (sc && 63 ≤ th.sc)

/-- The sequence number of a reduction (R259): the first of the group's 512 ranges of 128, one number for each lane, that no
reduction of its in flight uses. -/
def freeSeq (s : State) (id : ThreadId) : BitVec 16 :=
  let used (k : Nat) : Bool := s.accs.any fun a => a.th == id && a.seq == BitVec.ofNat 16 (128 * k) && (match a.kind with
    | .reduce _ => true
    | _ => false)
  BitVec.ofNat 16 (128 * (((List.range 512).find? fun k => !used k).getD 0))

/-- Puts an access in flight: its record, its additions to LC and SC, its pending destination. The group's pc stands. -/
def enlist (s : State) (a0 : Access) (pend : List PReg) : State :=
  let a := match a0.kind with
    | .reduce _ => { a0 with seq := freeSeq s a0.th }
    | _ => a0
  let s1 := countShares { s with accs := s.accs ++ [a] } a
  s1.onThread a.th fun th =>
    { th with lc := if a.countLc then th.lc + 1 else th.lc, sc := if a.countSc then th.sc + 1 else th.sc,
              pend := th.pend ++ pend.map fun reg => { reg, tag := a.id } }

end Sys2Proof.Machine
end

