-- ==== Sys2Proof/Machine/Home.lean ====
section
/-! DEFINITION. The home's and the holder's side of the line protocol (10_line R214..R245, 11 R258..R263): what each
request, answer and returned token does. A request that finds its lane already done does nothing. -/

namespace Sys2Proof.Machine

/-! ### A line in service (R215) -/

def serviceOf (s : State) (ln : Nat) : Option Service := (s.home (homeOf s ln)).service.find? fun v => v.line == ln

/-- Puts, or with `none` removes, the line's service. -/
def setService (s : State) (ln : Nat) (v : Option Service) : State :=
  let hi := homeOf s ln
  let h := s.home hi
  let rest := h.service.filter fun x => x.line != ln
  s.setHome hi { h with service := match v with
    | some x => rest ++ [x]
    | none => rest }

/-- Serves a request for a line, or lets it wait while the line is in service (R215). -/
def whenFree (s : State) (ln : Nat) (ev : Instr) (k : State → State) : State :=
  match serviceOf s ln with
  | some v => setService s ln (some { v with waiting := v.waiting ++ [ev] })
  | none => k s

/-- The service ends; what waited is served next, in arrival order (R215). -/
def endService (s : State) (ln : Nat) : State :=
  match serviceOf s ln with
  | some v => let s1 := setService s ln none
              { s1 with agenda := v.waiting ++ s1.agenda }
  | none => s

/-- Every service of an access ends. -/
def endServiceOf (s : State) (acc : Nat) : State :=
  (((s.homes.map fun e => e.2.service).flatten.filter fun v => v.acc == acc).map (·.line)).foldl endService s

/-- The first lane of an access still to be performed, where it lies in the line. -/
def laneIn (s : State) (acc ln : Nat) : Option (Access × LaneAcc) :=
  match s.acc? acc with
  | none => none
  | some a => match a.todo.find? fun l => l.key / 128 == ln with
    | some l => if lineReachable s (dieOfCore a.core) l.key then some (a, l) else none
    | none => none

/-- A lane of an access that is still to be performed. -/
def laneTodo (s : State) (acc lane : Nat) : Option (Access × LaneAcc) :=
  match s.acc? acc with
  | none => none
  | some a => match a.todo.find? fun l => l.lane == lane with
    | some l => if lineReachable s (dieOfCore a.core) l.key then some (a, l) else none
    | none => none

/-! ### Tokens (R221..R223) -/

/-- A persistent request of another core is active on the line (R223). -/
def heldBack (s : State) (ln c : Nat) : Bool :=
  match (entryOf s ln).persistent with
  | some r => r != c
  | none => false

/-- Home sends n of its tokens, with the data, to a core (R222), which forwards them where another core's persistent request
is active (R223). -/
def grant (s : State) (ln c n : Nat) : State :=
  let s1 := ensureEntry s ln
  let e := entryOf s1 ln
  let k := if n < e.tokens then n else e.tokens
  if k == 0 then s1
  else
    let s2 := onEntry s1 ln fun e => { e.addHolder c with tokens := e.tokens - k }
    let y : Copy := match copy? s2 c ln with
      | some y => if y.tokens == 0 then { line := ln, tokens := k, data := homeBytes s2 ln, rts := e.rts, wts := e.wts }
        else { y with tokens := y.tokens + k }
      | none => { line := ln, tokens := k, data := homeBytes s2 ln, rts := e.rts, wts := e.wts }
    let s3 := putCopy s2 c y
    if heldBack s2 ln c then s3.push (.persistentForward c ln) else s3

/-- Tokens of a line that a core holds. -/
def tokensAt (s : State) (c ln : Nat) : Nat :=
  match copy? s c ln with
  | some y => y.tokens
  | none => 0

/-- The recorded cores that hold tokens, other than `c` (R224). -/
def otherHolders (s : State) (ln c : Nat) : List Nat :=
  (entryOf s ln).targets.filter fun h => h != c && tokensAt s h ln != 0

/-- Tokens of the line are in a message (R221). -/
def inFlight (s : State) (ln : Nat) : Bool := s.msgs.any fun m => m.line == ln

/-- The tokens that the access needs at its core: all, or one (R222). -/
def needOf (s : State) (a : Access) (l : LaneAcc) : Nat :=
  match a.kind with
  | .load => 1
  | .reserve => 1
  | _ => if effectivePol s a l == 1 then 512 else 0

/-- The request by which an access asks for what it needs. -/
def tokenRequest (acc ln need : Nat) : Instr := if need == 512 then .homeAllTokenRequest acc ln else .homeTokenRequest acc ln

/-- TRANSIENT_REQUEST_FAIL: tried again; after four failures, a persistent request (R222, R223). -/
def failRequest (s : State) (acc ln : Nat) : State :=
  match laneIn s acc ln with
  | none => s
  | some (a, l) =>
    let s0 := match serviceOf s ln with
      | some v => if v.acc == acc then endService s ln else s
      | none => s
    if needOf s0 a l ≤ tokensAt s0 a.core ln then runAccess 200 s0 acc
    else
      if a.fails < 3 then (s0.setAcc { a with fails := a.fails + 1 }).push (tokenRequest acc ln (needOf s0 a l))
      else (s0.setAcc { a with fails := 0 }).push (.homePersistentRequest acc ln)

/-- HOME_TOKEN_REQUEST: home serves a transient request for one token (R222). -/
def serveTokenRequest (s0 : State) (acc ln : Nat) : State :=
  match laneIn s0 acc ln with
  | none => s0
  | some (a, l) =>
    whenFree s0 ln (.homeTokenRequest acc ln) fun s =>
      let s1 := ensureEntry (contact s a.core (homeOf s ln)) ln
      let e := entryOf s1 ln
      if heldBack s1 ln a.core then failRequest s1 acc ln
      else if e.tokens == 512 && effectivePol s1 a l == 1 then runAccess 200 (grant s1 ln a.core 512) acc
      else if e.tokens != 0 then runAccess 200 (grant s1 ln a.core 1) acc
      else match otherHolders s1 ln a.core with
        | [] => failRequest s1 acc ln
        | h :: hs =>
          let (n, s2) := s1.choose (hs.length + 1)
          let c := (h :: hs).getD n h
          (setService s2 ln (some { line := ln, acc, need := 1, asks := 1 })).push (.holderTokenAsk c ln 1 a.core)

/-- HOME_ALL_TOKEN_REQUEST: home sends its own tokens and asks every recorded holder (R222); tokens in flight fail the
request. -/
def serveAllTokenRequest (s0 : State) (acc ln : Nat) : State :=
  match laneIn s0 acc ln with
  | none => s0
  | some (a, _) =>
    whenFree s0 ln (.homeAllTokenRequest acc ln) fun s =>
      let s1 := ensureEntry (contact s a.core (homeOf s ln)) ln
      if heldBack s1 ln a.core then failRequest s1 acc ln
      else
        let s2 := grant s1 ln a.core 512
        match otherHolders s2 ln a.core with
        | [] => if tokensAt s2 a.core ln == 512 then runAccess 200 s2 acc else failRequest s2 acc ln
        | hs => (setService s2 ln (some { line := ln, acc, need := 512, asks := hs.length })).pushAll
            (hs.map fun h => .holderTokenAsk h ln 512 a.core)

/-- One answer to home's asks has come; with the last, the access goes on or its request has failed (R222). -/
def endAsk (s : State) (ln c : Nat) : State :=
  match serviceOf s ln with
  | none => s
  | some v =>
    if ((s.acc? v.acc).map (·.core)) != some c then s
    else if 1 < v.asks then setService s ln (some { v with asks := v.asks - 1 })
    else
      let s1 := endService s ln
      if v.need ≤ tokensAt s1 c ln then runAccess 200 s1 v.acc else failRequest s1 v.acc ln

/-- HOLDER_TOKEN_ASK: a holder sends `n` tokens of the line to the requester, its dirty data going home first
(R222, R242). -/
def answerAsk (s : State) (h ln n c : Nat) : State :=
  let k := if n < tokensAt s h ln then n else tokensAt s h ln
  if k == 0 || h == c then endAsk s ln c
  else endAsk (addShare (grant (giveTokens s h ln k) ln c k) h c 128) ln c

/-- The arbitration number that follows `last` among `ns`, wrapping from 399 to 0 (R223). -/
def nextNumber (last : Nat) (ns : List Nat) : Option Nat :=
  let least (l : List Nat) : Option Nat := l.foldl (fun b n => match b with
    | none => some n
    | some m => some (if n < m then n else m)) none
  match least (ns.filter fun n => last < n) with
  | some n => some n
  | none => least ns

/-- The active persistent request's requester holds what it asked for (R223). -/
def persistentDone (s : State) (ln acc c : Nat) : Bool :=
  match laneIn s acc ln with
  | none => true
  | some (a, l) => needOf s a l ≤ tokensAt s c ln

/-- Home's tokens go to the active requester; once it holds what it asked for it completes, else every holder forwards
(R223). -/
def feedPersistent (s : State) (ln : Nat) : State :=
  match (entryOf s ln).persistent with
  | none => s
  | some c =>
    match (s.home (homeOf s ln)).persistents.find? fun x => x.1 == c && x.2.1 == ln with
    | none => s
    | some (_, _, acc) =>
      let n := match laneIn s acc ln with
        | some (a, l) => needOf s a l - tokensAt s c ln
        | none => 0
      let s1 := if n == 0 then s else grant s ln c n
      if persistentDone s1 ln acc c && !(s1.agenda.contains (.persistentCompletion c ln)) then
        (runAccess 200 s1 acc).push (.persistentCompletion c ln)
      else s1

/-- Home activates the next waiting persistent request of the line (R223). -/
def activatePersistent (s : State) (ln : Nat) : State :=
  let hi := homeOf s ln
  let h := s.home hi
  match (entryOf s ln).persistent with
  | some _ => s
  | none =>
    match nextNumber h.lastServed ((h.persistents.filter fun x => x.2.1 == ln).map (·.1)) with
    | none => s
    | some c =>
      let s1 := (onEntry s ln fun e => { e with persistent := some c })
      let s2 := s1.setHome hi { s1.home hi with lastServed := c }
      let s3 := feedPersistent s2 ln
      if (s3.agenda.getLast?) == some (.persistentCompletion c ln) then s3
      else s3.pushAll ((otherHolders s3 ln c).map fun o => .persistentForward o ln)

/-- HOME_PERSISTENT_REQUEST: the request waits at home for its activation (R223). -/
def servePersistent (s : State) (acc ln : Nat) : State :=
  match laneIn s acc ln with
  | none => s
  | some (a, _) =>
    let s1 := ensureEntry (contact s a.core (homeOf s ln)) ln
    let hi := homeOf s1 ln
    let h := s1.home hi
    activatePersistent (s1.setHome hi { h with persistents := h.persistents ++ [(a.core, ln, acc)] }) ln

/-- PERSISTENT_FORWARD: a holder forwards its tokens, and home what came back to it, to the active requester; a request that
waits at a recalled line becomes active (R223). -/
def forwardPersistent (s : State) (h ln : Nat) : State :=
  match (entryOf s ln).persistent with
  | none => activatePersistent s ln
  | some c =>
    if h == c || tokensAt s h ln == 0 then feedPersistent s ln
    else feedPersistent (addShare (giveTokens s h ln 512) h c 128) ln

/-- The first waiting persistent request of core c for the line goes (R223). -/
def dropFirst (c ln : Nat) : List (Nat × Nat × Nat) → List (Nat × Nat × Nat)
  | [] => []
  | x :: xs => if x.1 == c && x.2.1 == ln then xs else x :: dropFirst c ln xs

/-- PERSISTENT_COMPLETION: the next request is activated, another access of the same core included (R223). -/
def completePersistent (s : State) (c ln : Nat) : State :=
  if (entryOf s ln).persistent != some c then s
  else
    let s1 := onEntry s ln fun e => { e with persistent := none }
    let hi := homeOf s1 ln
    let h := s1.home hi
    activatePersistent (s1.setHome hi { h with persistents := dropFirst c ln h.persistents }) ln

/-- TOKEN_RETURN: tokens and dirty data reach home (R238, R243), once the links there are ready (24 R444); an active persistent
requester is served first. -/
def returnTokens (s : State) (id : Nat) : State :=
  match s.msgs.find? fun m => m.id == id with
  | none => s
  | some m =>
    if !pathReady s (dieOfCore m.core) (homeDie s m.line) then s
    else
    let s1 := { s with msgs := s.msgs.filter fun x => x.id != id }
    feedPersistent (absorb (ensureEntry s1 m.line) m.line m.core m.tokens m.data m.clock) m.line

/-! ### Loads at home (R216, R229, R240) -/

/-- Grants a lease and completes the loads that asked for it (R229). -/
def grantLease (s : State) (a : Access) (ln : Nat) : State :=
  let c := (s.core a.core).lclk
  let s1 := onEntry s ln fun e => { e with rts := maxT e.rts (c + BitVec.zeroExtend 16 a.lease) }
  let e := entryOf s1 ln
  let y : Copy := { line := ln, tokens := 0, data := homeBytes s1 ln, rts := e.rts, wts := e.wts }
  runAccess 200 (readCopy (putCopy s1 a.core y) a y true) a.id

/-- HOME_SIS_LOAD (R229, R243). -/
def serveSisLoad (s0 : State) (acc ln : Nat) : State :=
  match laneIn s0 acc ln with
  | none => s0
  | some (a, _) =>
    whenFree s0 ln (.homeSisLoad acc ln) fun s =>
      let s1 := ensureEntry (settle (contact s a.core (homeOf s ln)) ln) ln
      if tokensAt s1 a.core ln != 0 then runAccess 200 s1 acc
      else match ownerOf s1 ln with
        | some o => (setService s1 ln (some { line := ln, acc, need := 0, asks := 1 })).push (.forwardedSisRead acc ln o)
        | none => grantLease s1 a ln

/-- FORWARDED_SIS_READ: the owner's dirty bytes reach home and are stamped; the lease follows (R240). -/
def serveForwardedSis (s0 : State) (acc ln o : Nat) : State :=
  let s := endService s0 ln
  match laneIn s acc ln with
  | none => s
  | some (a, _) =>
    match copy? s o ln with
    | some y =>
      if y.tokens != 512 then s.push (.homeSisLoad acc ln)
      else
        let s1 := if y.dirty then
            absorb (putCopy s o { y with dirty := false }) ln o 0 (some y.data) (s.core o).lclk
          else s
        grantLease (if y.dirty then addShare s1 o a.core 128 else s1) a ln
    | none => s.push (.homeSisLoad acc ln)

/-- The load's lanes in the line read these bytes; no copy is kept (R216). -/
def readWt (s : State) (a : Access) (ln : Nat) (bs : List Byte) : State :=
  runAccess 200 (readCopy s a { line := ln, tokens := 0, data := bs, wts := (entryOf s ln).wts } false) a.id

/-- HOME_WT_LOAD (R216, R243). -/
def serveWtLoad (s0 : State) (acc ln : Nat) : State :=
  match laneIn s0 acc ln with
  | none => s0
  | some (a, _) =>
    whenFree s0 ln (.homeWtLoad acc ln) fun s =>
      let s1 := ensureEntry (settle (contact s a.core (homeOf s ln)) ln) ln
      match ownerOf s1 ln with
      | some o => (setService s1 ln (some { line := ln, acc, need := 0, asks := 1 })).push (.forwardedWtRead acc ln o)
      | none => readWt s1 a ln (homeBytes s1 ln)

/-- FORWARDED_WT_READ: the owner's bytes; its state stays (R240). -/
def serveForwardedWt (s0 : State) (acc ln o : Nat) : State :=
  let s := endService s0 ln
  match laneIn s acc ln with
  | none => s
  | some (a, _) =>
    match copy? s o ln with
    | some y => if y.tokens == 512 then readWt (addShare s o a.core 128) a ln y.data else s.push (.homeWtLoad acc ln)
    | none => s.push (.homeWtLoad acc ln)

/-! ### Writes and operations at home (R217, R218, R231, R239) -/

/-- Answers the requests deferred on a future word, in arrival order, with its value (11 R262). -/
def answerDeferred (s : State) (key value : Nat) : State :=
  let hi := homeOf s (key / 128)
  let h := s.home hi
  let due := h.deferred.filter fun d => d.key == key
  let s1 := s.setHome hi { h with deferred := h.deferred.filter fun d => d.key != key }
  let w := (entryOf s1 (key / 128)).wts
  due.foldl (fun s d =>
    match s.acc? d.acc with
    | none => s
    | some a =>
      let a1 := d.lanes.foldl (fun (a : Access) i => a.laneDone i (value % 2 ^ 32) (some w)) a
      goOnFuture (noteRead (s.setAcc a1) a.th w) a1) s1

/-- The identifier of a lane's reduction (11 R259). -/
def replayIdOf (a : Access) (lane : Nat) : ReplayId := { core := a.core, th := a.th, seq := a.seq + BitVec.ofNat 16 lane }

/-- The operation of a lane has been performed: `old` and, to an sis issuer, the new wts come back (R231). A reduction enters the
replay filter and is acknowledged (R259); a fill answers the deferred requests (R262); a conditional store clears the
reservation (R264). -/
def performed (s : State) (a : Access) (l : LaneAcc) (old : Nat) (w0 w : BitVec 16) : State :=
  let sis := effectivePol s a l == 3
  match a.kind with
  | .reduce _ =>
    let hi := homeOf s (l.key / 128)
    let h := s.home hi
    let s1 := s.setHome hi { h with replay := h.replay ++ [replayIdOf a l.lane] }
    (s1.setAcc { a with lanes := a.lanes.map fun x => if x.lane == l.lane then { x with wts := some w } else x }).push
      (.reductionAckConfirm a.id l.lane)
  | _ =>
    let s1 := if a.kind == .cond then s.onThread a.th fun th => { th with resv := none } else s
    let s2 := if a.kind.reads then noteRead s1 a.th (if sis then w else w0) else s1
    let s3 := s2.setAcc (a.laneDone l.lane (if a.kind == .cond then 1 else old) (some (if sis then w else w0)))
    let s4 := if a.kind == .futFill then answerDeferred s3 l.key l.data else s3
    runAccess 200 s4 a.id

/-- The operation of a lane on old bytes; a lane that writes nothing leaves them. -/
def opOf (a : Access) (l : LaneAcc) (old : Nat) : Nat := (writtenOver a l old).getD old

/-- A wis write: all tokens come home, a dirty owner's data with them (13 R273), the bytes are written and stamped there, one
token goes back (R217, R242). -/
def writeWis (s : State) (a : Access) (l : LaneAcc) : State :=
  let ln := l.key / 128
  let s0 := match ownerOf s ln with
    | some o => if ((copy? s o ln).map (·.dirty)) == some true then addShare s o a.core 128 else s
    | none => s
  let s1 := gatherAll (breakHomeResv s0 ln (some a.th)) ln
  let w0 := (entryOf s1 ln).wts
  let s2 := onEntry s1 ln fun e => e.stamp (s.core a.core).lclk
  let old := s2.mem.readNat l.key a.width
  let s3 := { s2 with mem := s2.mem.writeNat l.key a.width (opOf a l old) }
  performed (grant s3 ln a.core 1) a l old w0 (entryOf s3 ln).wts

/-- A write or operation performed at home, or forwarded to the owner (R231, R239, R243); `ev` is the request. -/
def performAtHome (s : State) (a : Access) (l : LaneAcc) : State :=
  let ln := l.key / 128
  let clk := (s.core a.core).lclk
  if effectivePol s a l == 4 then writeWis s a l
  else match ownerOf s ln with
    | some o =>
      let s1 := onEntry s ln fun e => e.stamp clk
      (setService s1 ln (some { line := ln, acc := a.id, need := 0, asks := 1 })).push (.forwardedMerge a.id l.lane o)
    | none =>
      let w0 := (entryOf s ln).wts
      let (s1, old, w) := opHome s l.key a.width (some clk) (some a.th) (opOf a l)
      performed s1 a l old w0 w

/-- A conditional store of a core that keeps no copies finds its reservation broken at home (R219, 11 R264). -/
def condFails (s : State) (a : Access) (l : LaneAcc) : Bool :=
  a.kind == .cond && match s.thread? a.th with
    | some th => !resvHolds th a l
    | none => true

/-- A conditional store fails: nothing is written, and the reservation is cleared (11 R264). -/
def failCond (s : State) (a : Access) (l : LaneAcc) : State :=
  runAccess 200 ((s.onThread a.th fun th => { th with resv := none }).setAcc (a.laneDone l.lane 0 none)) a.id

/-- HOME_WRITE (R217, R218, R231). -/
def serveWrite (s0 : State) (acc lane : Nat) : State :=
  match laneTodo s0 acc lane with
  | none => s0
  | some (a, l) =>
    let ln := l.key / 128
    whenFree s0 ln (.homeWrite acc lane) fun s =>
      let s1 := ensureEntry (settle (contact s a.core (homeOf s ln)) ln) ln
      if condFails s1 a l then failCond s1 a l else performAtHome s1 a l

/-- The request with which an operation is posted to home. -/
def postOf (a : Access) (lane : Nat) : Instr :=
  match a.kind with
  | .reduce _ => .reductionRequest a.id lane
  | .futFill => .futureFill a.id lane
  | _ => .homeWrite a.id lane

/-- FORWARDED_MERGE: the owner merges the bytes, or computes the operation on its own (R239); an owner that has sent its
tokens away returns the write to home, which judges it again (R245). -/
def serveMerge (s0 : State) (acc lane o : Nat) : State :=
  match laneTodo s0 acc lane with
  | none => endServiceOf s0 acc
  | some (a, l) =>
    let ln := l.key / 128
    let s := endService s0 ln
    match copy? s o ln with
    | none => s.push (postOf a lane)
    | some y =>
      if y.tokens != 512 then s.push (postOf a lane)
      else if condFails s a l then failCond s a l
      else
        let off := l.key % 128
        let old := ofLeBytes ((y.data.drop off).take a.width)
        let s1 := match writtenOver a l old with
          | some x => mergeAt s o ln off (leBytes a.width x)
          | none => s
        performed (addShare s1 o a.core a.width) a l old y.wts (entryOf s1 ln).wts

/-- REDUCTION_REQUEST: applied once; a request whose identifier the filter holds is only acknowledged; a full filter
keeps it waiting (11 R259). -/
def serveReduction (s0 : State) (acc lane : Nat) : State :=
  match laneTodo s0 acc lane with
  | none => s0
  | some (a, l) =>
    let ln := l.key / 128
    let h := s0.home (homeOf s0 ln)
    if h.replay.contains (replayIdOf a lane) then s0.push (.reductionAckConfirm acc lane)
    else if 128 ≤ h.replay.length then s0.push (.reductionRequest acc lane)
    else whenFree s0 ln (.reductionRequest acc lane) fun s =>
      performAtHome (ensureEntry (settle (contact s a.core (homeOf s ln)) ln) ln) a l

/-- REDUCTION_ACK_CONFIRM: the issuer takes the acknowledgement, and the identifier leaves the filter (11 R259). -/
def confirmReduction (s : State) (acc lane : Nat) : State :=
  match s.acc? acc with
  | none => s
  | some a =>
    match a.lanes.find? fun l => l.lane == lane with
    | none => s
    | some l =>
      let hi := homeOf s (l.key / 128)
      let h := s.home hi
      let s1 := s.setHome hi { h with replay := h.replay.filter fun x => x != replayIdOf a lane }
      if l.done then s1
      else
        runAccess 200 (s1.setAcc (a.laneDone lane 0 l.wts)) acc

/-- REDUCTION_REPLAY_TIMEOUT and CORRECTABLE_SOFT_ERROR: a reduction not yet acknowledged is sent again (11 R259). -/
def replayReduction (s : State) (acc lane : Nat) : State :=
  match laneTodo s acc lane with
  | some (a, _) => (match a.kind with
    | .reduce _ => s.push (.reductionRequest acc lane)
    | _ => s)
  | none => s

/-- The group no longer waits for futures: it is being pre-empted, or has been killed (11 R263). -/
def refusesFutures (s : State) (id : ThreadId) : Bool :=
  match s.thread? id with
  | some th => th.preempt || th.run == .retired
  | none => true

/-- FUTURE_LOAD_REQUEST: the slice answers, defers or refuses a read of a future word (11 R261). -/
def serveFuture (s0 : State) (acc key : Nat) : State :=
  match s0.acc? acc with
  | none => s0
  | some a0 =>
    if !(a0.todo.any fun l => l.key == key) || !lineReachable s0 (dieOfCore a0.core) key then s0
    else whenFree s0 (key / 128) (.futureLoadRequest acc key) fun s =>
      let s1 := ensureEntry (settle (contact s a0.core (homeOf s (key / 128))) (key / 128)) (key / 128)
      match s1.acc? acc with
      | none => s1
      | some a =>
        let hi := homeOf s1 (key / 128)
        let h := s1.home hi
        let asked := a.todo.filter fun l => l.key == key && (a.order != 4 || a.served (key / 128) l)
        let lanes := asked.map (·.lane)
        let patch := (asked.head?.map (·.patch)).getD []
        let x := overlay 8 (readHome s1 key 8) patch
        let w := (entryOf s1 (key / 128)).wts
        if h.deferred.any fun d => d.acc == acc && d.key == key then s1
        else if !futFull x && !(asked.any (·.noDefer)) && !refusesFutures s1 a.th && h.deferred.length < 64 then
          s1.setHome hi { h with deferred := h.deferred ++ [{ acc, key, lanes }] }
        else
          let a1 := lanes.foldl (fun (a : Access) i =>
            if futFull x then a.laneDone i (x % 2 ^ 32) (some w) else a.laneRefused i) a
          let s2 := s1.setAcc a1
          goOnFuture (if futFull x then noteRead s2 a.th w else s2) a1

/-- Deferred requests move: `target` answers the new key of a word that moves, and they wait at its home, in their order (13 R282, 21
R412). -/
def moveDeferred (s : State) (target : Nat → Option Nat) : State :=
  let ds := (s.homes.map fun e => e.2.deferred.filter fun d => (target d.key).isSome).flatten
  let s1 : State := if ds.isEmpty then s else { s with homes := s.homes.map fun (e : Nat × Home) =>
    (e.1, { e.2 with deferred := e.2.deferred.filter fun d => (target d.key).isNone }) }
  ds.foldl (fun s d =>
    let key := (target d.key).getD d.key
    let hi := homeOf s (key / 128)
    let h := s.home hi
    s.setHome hi { h with deferred := h.deferred ++ [{ d with key }] }) s1

/-- FUTURE_FILL (11 R262). -/
def serveFill (s0 : State) (acc lane : Nat) : State :=
  match laneTodo s0 acc lane with
  | none => s0
  | some (a, l) =>
    let ln := l.key / 128
    whenFree s0 ln (.futureFill acc lane) fun s =>
      performAtHome (ensureEntry (settle (contact s a.core (homeOf s ln)) ln) ln) a l

/-- The deferred requests of a group are withdrawn and their lanes refused (11 R263). -/
def withdrawFutures (s : State) (id : ThreadId) : State :=
  (s.accs.filter fun a => a.th == id && a.kind == .futLoad && a.started).foldl (fun s a =>
    let s1 := { s with homes := s.homes.map fun (e : Nat × Home) =>
      (e.1, { e.2 with deferred := e.2.deferred.filter fun d => d.acc != a.id }) }
    let a1 := a.todo.foldl (fun (x : Access) l => x.laneRefused l.lane) a
    completeAccess (s1.setAcc a1) a1) s

/-! ### Completion (04 R106) -/

/-- LOAD_COMPLETE: the destination is written, LC falls, the scoreboard is free. -/
def completeLoad (s : State) (acc : Nat) : State :=
  match s.acc? acc with
  | none => s
  | some a =>
    let s1 := s.onThread a.th fun th => ({ writeDest th a with lc := if a.countLc then th.lc - 1 else th.lc }).clearPend acc
    let s2 := if a.countSc then s1.setAcc { a with countLc := false } else s1.dropAcc acc
    pump s2 a.th

/-- STORE_PERFORMED: SC falls. -/
def completeStore (s : State) (acc : Nat) : State :=
  match s.acc? acc with
  | none => s
  | some a =>
    let s1 := s.onThread a.th fun th => { th with sc := th.sc - 1 }
    let s2 := if a.countLc then s1.setAcc { a with countSc := false } else s1.dropAcc acc
    pump s2 a.th

/-! ### The events -/

/-- PENDING_WRITE_COMPLETE (04 R103). -/
def execPendingWriteComplete (th : ThreadId) (tag : Nat) (s : State) : Host.Outcome State Fault Refusal :=
  .next (s.onThread th fun t => t.settlePend tag)

/-- LOAD_COMPLETE (04 R106). -/
def execLoadComplete (acc : Nat) (s : State) : Host.Outcome State Fault Refusal := .next (completeLoad s acc)

/-- STORE_PERFORMED (04 R106). -/
def execStorePerformed (acc : Nat) (s : State) : Host.Outcome State Fault Refusal := .next (completeStore s acc)

/-- HOME_TOKEN_REQUEST (10 R222). -/
def execHomeTokenRequest (acc line : Nat) (s : State) : Host.Outcome State Fault Refusal := .next (serveTokenRequest s acc line)

/-- HOME_ALL_TOKEN_REQUEST (10 R222). -/
def execHomeAllTokenRequest (acc line : Nat) (s : State) : Host.Outcome State Fault Refusal :=
  .next (serveAllTokenRequest s acc line)

/-- HOME_PERSISTENT_REQUEST (10 R223). -/
def execHomePersistentRequest (acc line : Nat) (s : State) : Host.Outcome State Fault Refusal :=
  .next (servePersistent s acc line)

/-- PERSISTENT_COMPLETION (10 R223). -/
def execPersistentCompletion (core line : Nat) (s : State) : Host.Outcome State Fault Refusal :=
  .next (completePersistent s core line)

/-- PERSISTENT_FORWARD (10 R223). -/
def execPersistentForward (core line : Nat) (s : State) : Host.Outcome State Fault Refusal :=
  .next (forwardPersistent s core line)

/-- HOME_SIS_LOAD (10 R229). -/
def execHomeSisLoad (acc line : Nat) (s : State) : Host.Outcome State Fault Refusal := .next (serveSisLoad s acc line)

/-- HOME_WT_LOAD (10 R216). -/
def execHomeWtLoad (acc line : Nat) (s : State) : Host.Outcome State Fault Refusal := .next (serveWtLoad s acc line)

/-- HOME_WRITE (10 R231). -/
def execHomeWrite (acc lane : Nat) (s : State) : Host.Outcome State Fault Refusal := .next (serveWrite s acc lane)

/-- HOLDER_RECALL (10 R227): the holder gives up its copy, data first; a lease copy stays (R226). -/
def execHolderRecall (core line : Nat) (s : State) : Host.Outcome State Fault Refusal :=
  .next (giveTokens s core line 512)

/-- HOLDER_TOKEN_ASK (10 R242). -/
def execHolderTokenAsk (core line count requester : Nat) (s : State) : Host.Outcome State Fault Refusal :=
  .next (answerAsk s core line count requester)

/-- TOKEN_RETURN (10 R243). -/
def execTokenReturn (msg : Nat) (s : State) : Host.Outcome State Fault Refusal := .next (returnTokens s msg)

/-- FORWARDED_MERGE (10 R239). -/
def execForwardedMerge (acc lane owner : Nat) (s : State) : Host.Outcome State Fault Refusal :=
  .next (serveMerge s acc lane owner)

/-- FORWARDED_SIS_READ (10 R240). -/
def execForwardedSisRead (acc line owner : Nat) (s : State) : Host.Outcome State Fault Refusal :=
  .next (serveForwardedSis s acc line owner)

/-- FORWARDED_WT_READ (10 R240). -/
def execForwardedWtRead (acc line owner : Nat) (s : State) : Host.Outcome State Fault Refusal :=
  .next (serveForwardedWt s acc line owner)

/-- REDUCTION_REQUEST (11 R259). -/
def execReductionRequest (acc lane : Nat) (s : State) : Host.Outcome State Fault Refusal := .next (serveReduction s acc lane)

/-- REDUCTION_ACK_CONFIRM (11 R259). -/
def execReductionAckConfirm (acc lane : Nat) (s : State) : Host.Outcome State Fault Refusal :=
  .next (confirmReduction s acc lane)

/-- FUTURE_LOAD_REQUEST (11 R261). -/
def execFutureLoadRequest (acc word : Nat) (s : State) : Host.Outcome State Fault Refusal := .next (serveFuture s acc word)

/-- FUTURE_FILL (11 R262). -/
def execFutureFill (acc lane : Nat) (s : State) : Host.Outcome State Fault Refusal := .next (serveFill s acc lane)

/-- TRANSIENT_REQUEST_FAIL (10 R222). -/
def execTransientRequestFail (acc line : Nat) (s : State) : Host.Outcome State Fault Refusal := .next (failRequest s acc line)

/-- LINE_EVICTION (10 R242). -/
def execLineEviction (core line : Nat) (s : State) : Host.Outcome State Fault Refusal := .next (sendHome s core line)

/-- REDUCTION_REPLAY_TIMEOUT (11 R259). -/
def execReductionReplayTimeout (acc lane : Nat) (s : State) : Host.Outcome State Fault Refusal :=
  .next (replayReduction s acc lane)

/-- CORRECTABLE_SOFT_ERROR (11 R259). -/
def execCorrectableSoftError (acc lane : Nat) (s : State) : Host.Outcome State Fault Refusal :=
  .next (replayReduction s acc lane)

/-! ### Logical time and gating (10 R228, R235, R236) -/

/-- LCLK_TICK (R228): the core's clock advances by one tick. -/
def lclkTick (s : State) (core : Nat) : State := setClock s core ((s.core core).lclk + 1)

/-- LCLK_TICK (R228). -/
def execLclkTick (core : Nat) (s : State) : Host.Outcome State Fault Refusal := .next (lclkTick s core)

/-- The cores of a partition: its compute cores, and the system cores that serve it (22 R419; log 13). -/
def coresOf (s : State) (p : Nat) : List Nat :=
  bitMembers (s.part p).cores 384 ++ ((List.range 16).filter fun k => (s.sysCore k).psel.toNat == p).map (384 + ·)

/-- The dies that hold a core of the partition, or a page of its memory (22 R418, R402). -/
def diesOf (s : State) (p : Nat) : List Nat :=
  let x := s.part p
  (List.range 4).filter fun d =>
    ((coresOf s p).any fun c => dieOfCore c == d) || x.mem / 2 ^ (128 * d) % 2 ^ 128 != 0 ||
    x.mem / 2 ^ (512 + 1536 * d) % 2 ^ 1536 != 0

/-- The homes of a partition: the slices of those dies, at which its lines can have their home (R214; log 56). -/
def homesOf (s : State) (p : Nat) : List Nat := ((diesOf s p).map fun d => (List.range 96).map (96 * d + ·)).flatten

/-- A core whose clock is before PLT − 16384 is pulled up to it (R235). -/
def pullUp (s : State) (core : Nat) (plt : BitVec 16) : State := raiseClock s core (plt - 16384)

/-- PLT_DISTRIBUTION: PLT takes the latest logical time known in the partition, homes raise NW to it, lagging clocks
are pulled up (R235). -/
def pltDistribution (s : State) (part : Nat) : State :=
  let cs := coresOf s part
  let hs := homesOf s part
  let latest := hs.foldl (fun m h => maxT m (s.home h).nw) (cs.foldl (fun m c => maxT m (s.core c).lclk) (s.part part).plt)
  let s1 := s.setPart part { s.part part with plt := latest }
  let s2 := hs.foldl (fun s h =>
    let x := s.home h
    if before x.nw latest then s.setHome h { x with nw := latest } else s) s1
  cs.foldl (fun s c => pullUp s c latest) s2

/-- PLT_DISTRIBUTION (R235). -/
def execPltDistribution (part : Nat) (s : State) : Host.Outcome State Fault Refusal := .next (pltDistribution s part)

/-- CORE_POWER_GATE (R236). -/
def execCorePowerGate (core : Nat) (s : State) : Host.Outcome State Fault Refusal :=
  let s1 := sendAllHome s core
  .next (s1.setCore core { s1.core core with gated := true })

/-- CORE_WAKE (R236): the clock is pulled up. -/
def execCoreWake (core : Nat) (s : State) : Host.Outcome State Fault Refusal :=
  let s1 := s.setCore core { s.core core with gated := false }
  .next (match partOfCore s core with
    | some p => pullUp s1 core (s.part p).plt
    | none => s1)

end Sys2Proof.Machine
end

