-- ==== Sys2Proof/Machine/Timebase.lean ====
section
/-! DEFINITION. The global timebase (24_link R455, R456): the master counter, and the local copies, as functions of the
core cycles passed since they were last set. -/

namespace Sys2Proof.Machine

/-- GT units added over `n` core cycles of 0.4 ns under a rate (R456). -/
def gtAdvance (rate : Int) (n : Nat) : DWord :=
  BitVec.ofInt 64 ((n : Int) * 2 * 65536 * (2 ^ 40 + rate) / (5 * 2 ^ 40))

/-- The master's value now. -/
def masterNow (s : State) : DWord := s.gt.value + gtAdvance s.gt.rate (s.t - s.gt.since)

/-- A local copy's value now: it advances at the master's rate. -/
def GtCopy.now (c : GtCopy) (s : State) : DWord := c.value + gtAdvance s.gt.rate (s.t - c.since)

/-- The larger of two values of the timebase. -/
def maxGt (a b : DWord) : DWord := if a.ult b then b else a

/-- GT units in `us` microseconds. -/
def gtMicros (us : Nat) : DWord := BitVec.ofNat 64 (us * 1000 * 65536)

end Sys2Proof.Machine
end

