-- ==== Sys2Proof/Machine/MemInstr.lean ====
section
/-! DEFINITION. The memory instructions (11_memory_instructions R246..R267, 09_moment R204..R206): what each asks of
memory, the staging of shared lines inside a block (20_kernel R392, R393), and the base registers. -/

namespace Sys2Proof.Machine

/-- What a memory instruction asks for. -/
structure MemOp where
  kind : AccKind
  width : Nat := 4
  align : Nat := 4
  perm : Perm := .load
  writes : Bool := false
  /-- Lane and offset, ascending. -/
  lanes : List (Nat × Nat)
  data : Nat → Nat := fun _ => 0
  expect : Nat → Nat := fun _ => 0
  ty : Nat := 0
  dest : Dest := .none
  pend : List PReg := []
  lc : Bool := false
  sc : Bool := false
  scalar : Bool := false

/-- POL and SCP of AX (03 R65). -/
def polOf (f : Fields) : Nat := f.ax.toNat % 8
def scopeOf (f : Fields) : Nat := f.ax.toNat / 8 % 8

/-- An event of the die's regroup engine holds the instruction: scope `.clu`, or the cluster-shared window, on an affected
core (13 R279). -/
def regroupHeld (s : State) (core scope : Nat) (kind : BaseKind) : Bool :=
  core < 384 && (scope == 2 || kind == .cluster) &&
  match (s.die (dieOfCore core)).regroup with
  | some r => r.affected.contains core
  | none => false

/-! ### Staging (20 R390..R394) -/

/-- The kernel of a deterministic launch with a block of the thread open. -/
def detKernel (s : State) (th : Thread) : Option Kernel :=
  match th.id, th.block with
  | .grp p k _, some _ => (s.kernel? p k).bind fun x => if x.desc.det then some x else none
  | _, _ => none

/-- The ownership table's byte for a generic address, and the bit of its line (20 R390). -/
def ownerByte (k : Kernel) (ea : Nat) : Option (Nat × Nat) :=
  let lo := k.desc.ownlo.toNat
  if ea < lo || lo + 2 ^ k.desc.ownlog ≤ ea then none
  else some (k.desc.ownt.toNat + (ea - lo) / 128 / 8, (ea - lo) / 128 % 8)

/-- The line of a generic address is shared: its bit of the ownership table is 1 (20 R390). -/
def isShared (s : State) (p ctx : Nat) (k : Kernel) (ea : Nat) : Bool :=
  match ownerByte k ea with
  | none => false
  | some (va, n) => match hwRead s p ctx k va 1 with
    | .ok x => bitSet x n
    | .error _ => false

/-- What the look into the ownership table waits for: its page on the move, or a link (21 R413, 24 R444). -/
def ownerWait (s : State) (p ctx : Nat) (k : Kernel) (ea : Nat) : Option Cond :=
  match ownerByte k ea with
  | none => none
  | some (va, _) => match hwRead s p ctx k va 1 with
    | .error c => if c == WAITS then some (hwWait s p ctx va) else none
    | .ok _ => none

/-- The unperformed staged entries of a group. -/
def stagedOf (k : Kernel) (gid : Nat) : List Staged := k.staged.filter fun e => e.gid == gid

/-- What the group's own entries give a load of `width` bytes at `key`: the bytes put over those of memory, and the serial
of a staged atomic or reduction that the load must wait for (20 R393). -/
def stagedBytes (s : State) (p ctx : Nat) (k : Kernel) (gid key width : Nat) : List (Nat × Byte × Byte) × Option Nat :=
  let es := (stagedOf k gid).filterMap fun e =>
    match hwKey s p ctx k e.ea.toNat .load with
    | .ok q => if q < key + width && key < q + e.width then some (e, q) else none
    | .error _ => none
  let last (i : Nat) : Option (Staged × Nat) :=
    (es.filter fun x => x.2 ≤ key + i && key + i < x.2 + (if x.1.kind == .futFill then 5 else x.1.width)).getLast?
  (List.range width).foldl (fun r i =>
    match last i with
    | none => r
    | some (e, q) =>
      let o := key + i - q
      match e.kind with
      | .atomic _ => (r.1, some e.serial)
      | .reduce _ => (r.1, some e.serial)
      | .futFill => if o == 4 then (r.1 ++ [(i, 0xFE, 1)], r.2) else (r.1 ++ [(i, 0, BitVec.ofNat 8 (e.data / 2 ^ (8 * o)))], r.2)
      | _ => (r.1 ++ [(i, 0, BitVec.ofNat 8 (e.data / 2 ^ (8 * o)))], r.2)) ([], none)

/-- Stages lanes in ascending order; a staged atomic's destination stays pending (20 R392). -/
def stageLanes (p kn gid : Nat) (th : Thread) (f : Fields) (m : MemOp) : List LaneAcc → State → State
  | [], s => s
  | l :: ls, s =>
    let (n, s1) := s.fresh
    match s1.kernel? p kn, s1.thread? th.id with
    | some k, some g =>
      let e : Staged := {
        serial := n, gid, block := th.block.getD 0, pos := g.blockPos, iaddr := th.regs.pc,
        head := (match th.chain with
          | some c => (th.regs.pc - c.head).toNat / 8
          | none => 0), kind := if m.kind == .cond then .store else m.kind, ty := m.ty, width := m.width, ea := l.ea, data := l.data,
        expect := l.expect, lane := l.lane, dest := if m.kind == .cond then .none else m.dest, order := f.mo.toNat,
        scope := scopeOf f }
      let pend := match m.kind with
        | .atomic _ => m.pend.map fun reg => { reg, tag := n : Pend }
        | _ => []
      let s2 := s1.setKernel p kn { k with staged := k.staged ++ [e] }
      let s3 := s2.setThread { g with blockPos := g.blockPos + 1, pend := g.pend ++ pend }
      stageLanes p kn gid th f m ls (if k.ct == th.block.getD 0 then s3.push (.ticketPerform p kn) else s3)
    | _, _ => s1

/-! ### The flow of a memory instruction -/

/-- The register of a byte of the register window (04 R92). -/
def windowReg (o : Nat) : PReg :=
  if o < 0x1000 then .s (o / 4) else if o < 0x20000 then .v ((o - 0x1000) / 384) else .m ((o - 0x20000) / 768)

/-- The record of an access of these lanes. -/
def accessOf (id : Nat) (th : Thread) (f : Fields) (m : MemOp) (space : BaseKind) (lanes : List LaneAcc) (cover : Mask) :
    Access :=
  { id, th := th.id, core := th.core, kind := m.kind, width := m.width, scope := scopeOf f, order := f.mo.toNat,
    ty := m.ty, lease := th.regs.sr.lease, lanes, dest := m.dest, cover, space, countLc := m.lc, countSc := m.sc }

/-- An access through the register window: within the instruction, uncounted (04 R93). -/
def windowAccess (s : State) (th before : Thread) (f : Fields) (m : MemOp) (lanes : List LaneAcc) : Res State :=
  let touched := (lanes.map fun l => windowReg l.key :: (if m.width == 8 then [windowReg (l.key + 4)] else [])).flatten
  let held := touched.filter fun r => (th.pend.any fun q => q.reg == r) && r != .s 63
  if !held.isEmpty then .error (.wait (.scoreboard held))
  else
    let a := accessOf 0 th f m .regWindow lanes (BitVec.allOnes 96)
    let s1 := lanes.foldl (fun s l => match s.acc? 0 with
      | some b => stepLocal s b l
      | none => s) ({ s with accs := a :: s.accs }.setThread th)
    let a1 := (s1.acc? 0).getD a
    let th1 := (s1.thread? th.id).getD th
    .ok (finish { s1 with accs := s.accs } (writeDest th1 a1) before f .none)

/-- The lanes in the runs in which they are staged (`true`) or put in flight: the staged ones first; under `.ord`, which takes lanes in
ascending order (11 R266), run by run. -/
def runsOf (shared : LaneAcc → Bool) (ord : Bool) (lanes : List LaneAcc) : List (Bool × List LaneAcc) :=
  if ord then lanes.foldr (fun l rs => match rs with
    | (b, ls) :: rest => if b == shared l then (b, l :: ls) :: rest else (shared l, [l]) :: rs
    | [] => [(shared l, [l])]) []
  else [(true, lanes.filter shared), (false, lanes.filter fun l => !shared l)]

/-- Puts runs of lanes in the staging buffer or in flight. The instruction counts in LC and SC with its last private run: one that
stages all its lanes has left them (20 R392). -/
def putRuns (p kn gid : Nat) (th : Thread) (f : Fields) (m : MemOp) (space : BaseKind) (cover : Mask) :
    List (Bool × List LaneAcc) → State → State
  | [], s => s
  | (true, ls) :: rs, s => putRuns p kn gid th f m space cover rs (stageLanes p kn gid th f m ls s)
  | (false, ls) :: rs, s =>
    if ls.isEmpty then putRuns p kn gid th f m space cover rs s
    else
      let last := rs.all fun r => r.1 || r.2.isEmpty
      let (n, s1) := s.fresh
      let a := accessOf n th f m space ls cover
      putRuns p kn gid th f m space cover rs
        (enlist s1 { a with countLc := a.countLc && last, countSc := a.countSc && last } m.pend)

/-- Puts the lanes in flight, or, inside a block, in the staging buffer where their lines are shared (20 R392); the
thread of `s` is `th`. -/
def issueLanes (s : State) (th : Thread) (f : Fields) (m : MemOp) (space : BaseKind) (lanes : List LaneAcc) (cover : Mask) :
    Res State :=
  let plain (s : State) (ls : List LaneAcc) : State :=
    let (n, s1) := s.fresh
    enlist s1 (accessOf n th f m space ls cover) m.pend
  match detKernel s th, th.id with
  | some k, .grp p kn gid =>
    let shared (l : LaneAcc) : Bool := space == .global && isShared s p th.ctx k l.ea.toNat
    let staged := if m.kind.writes then lanes.filter shared else []
    let full := decide (256 < (stagedOf k gid).length + staged.length)
    match (if space == .global then lanes.findSome? fun l => ownerWait s p th.ctx k l.ea.toNat else none) with
    | some c => .error (.wait c)
    | none =>
      if !staged.isEmpty then
        if m.kind == .cond then
          -- a scalar form: its one lane is staged only where the reservation holds, which is decided now
          let ok := match staged with
            | l :: _ => resvHolds th (accessOf 0 th f m space lanes cover) l
            | [] => false
          let th1 := { th with resv := none }
          let th2 := match m.dest with
            | .s n _ => { th1 with regs := th1.regs.writeS th1.ll n (if ok then 1 else 0) }
            | _ => th1
          if !ok then .ok (s.setThread th2)
          else if full then .error (.wait (.staging s.t 1))
          else .ok (stageLanes p kn gid th f m staged (s.setThread th2))
        else if full then .error (.wait (.staging s.t staged.length))
        else .ok (putRuns p kn gid th f m space cover (runsOf shared (f.mo == 4) lanes) s)
      else if space == .global && (m.kind == .load || m.kind == .reserve || m.kind == .futLoad) then
        let patch := lanes.map fun l => (l, stagedBytes s p th.ctx k gid l.key m.width)
        match patch.findSome? fun x => x.2.2 with
        | some e => .error (.wait (.stagedValue gid e s.t))
        | none => .ok (plain s (patch.map fun x => { x.1 with patch := x.2.1, noDefer := shared x.1 }))
      else .ok (plain s lanes)
  | _, _ => .ok (plain s lanes)

/-- A memory instruction: the holds of 04 R107 and 13 R279, the checks of R249, then its lanes in flight. A PAGE fault
parks the group with the lanes below it in flight. A `scnd` waits until the group's `srsv` and `scnd` in flight have settled
its reservation (R264). -/
def memBody (f : Fields) (m : MemOp) (s : State) (th : Thread) : Res State :=
  let b := th.bases.getD f.a.toNat {}
  let counted := !(b.valid && b.kind == .regWindow)
  let resvs := s.accs.filter fun a => a.th == th.id && a.kind.resv
  if m.kind == .cond && !resvs.isEmpty then .error (.wait (.accesses (resvs.map (·.id))))
  else if counted && counterFull th m.lc m.sc then .error (.wait (.counter m.lc m.sc))
  else if counted && regroupHeld s th.core (scopeOf f) (if b.valid then b.kind else .global) then .error (.wait .regroup)
  else
    match resolve s th b { perm := m.perm, width := m.width, align := m.align, writes := m.writes } (polOf f) m.scalar m.lanes with
    | .error e => .error e
    | .ok r =>
      let lanes := r.lanes.map fun l => { l with data := m.data l.lane, expect := m.expect l.lane }
      if !counted then windowAccess r.st th s.cur f m lanes
      else
        -- the lanes whose bit of a future's triple is written: all but those finished before and those unfinished now (R261)
        let cover := (match th.replay with
          | some u => u ||| ~~~th.regs.mask
          | none => BitVec.allOnes 96) &&& (match r.page with
          | some (_, _, u) => if m.scalar then BitVec.allOnes 96 else ~~~u
          | none => BitVec.allOnes 96)
        match r.page with
        | none =>
          match issueLanes (r.st.setThread th) th f m b.kind lanes cover with
          | .error e => .error e
          | .ok s1 => .ok (pump (finish s1 ((s1.thread? th.id).getD th) s.cur f .none) th.id)
        | some (detail, va, u) =>
          if lanes.isEmpty then .error (.park detail va u r.st)
          else match issueLanes r.st th f m b.kind lanes cover with
            | .error e => .error e
            | .ok s1 => .error (.park detail va u (pump s1 th.id))

/-- Runs a memory instruction. -/
def mem (i : Instr) (f : Fields) (op : Thread → Res MemOp) (s : State) : Host.Outcome State Fault Refusal :=
  control i f (fun s th => match op th with
    | .error e => .error e
    | .ok m => memBody f m s th) s

/-! ### Operands -/

/-- The lanes that a vector memory form acts on: the mask, or the unfinished lanes on a replay (04 R97, R109). -/
def memLanes (th : Thread) : List Nat := Lanes (th.replay.getD th.regs.mask)

/-- The offset of each lane (R253, R251): FN 0 by the lanes of B, code 253 standing for `step`·i; FN 1 s[B] + step·i; FN 2
IMM32 + step·i, the sum of `mld` and `mst` modulo 2^32 too (log 63). -/
def vectorOffset (f : Fields) (th : Thread) (step : Nat) (i : Nat) : Nat :=
  match f.fn.toNat with
  | 0 => if f.b == 253 then step * i else (laneOf (th.regs.srcV f f.b).lanes i).toNat
  | 1 => ((th.regs.srcS f.b).toNat + step * i) % 2 ^ 32
  | _ => (f.imm32.toNat + step * i) % 2 ^ 32

/-- The offset tags of a V offset (R253). -/
def offsetTagOk (f : Fields) (th : Thread) : Bool := f.fn != 0 || tagOk [I32, N32] (th.regs.srcV f f.b).tag

/-- The offset of a scalar form (R251). -/
def scalarOffset (f : Fields) (th : Thread) : Nat := (th.regs.srcBS f).toNat

/-- TY of an atomic, 0 meaning `.i32` (R256). -/
def atomTy (f : Fields) : BitVec 4 := if f.ty == 0 then 3 else f.ty

/-- Bytes of a scalar memory type (R254). -/
def memWidth (ty : BitVec 4) : Nat :=
  match ty.toNat with
  | 1 => 1
  | 5 => 1
  | 2 => 2
  | 6 => 2
  | 9 => 2
  | 4 => 8
  | 8 => 8
  | _ => 4

/-- The destination registers of a scalar form that stay pending. -/
def scalarPend (f : Fields) : List PReg :=
  if f.nd then [] else if wide f.ty then regsOf .x f.d else regsOf .sd f.d

/-- The destination of a scalar form (R254). -/
def scalarDest (f : Fields) (ty : BitVec 4) : Dest :=
  if f.nd then .none else if wide ty then .x f.d.toNat else .s f.d.toNat ty.toNat

/-- The low `n` bytes of a scalar source of a memory type. -/
def scalarData (th : Thread) (ty : BitVec 4) (code : BitVec 8) : Nat :=
  th.regs.srcT ty code % 2 ^ (8 * memWidth ty)

/-! ### Loads and stores (R253..R255) -/

/-- The vector destination of a load. -/
def vectorDest (f : Fields) (tag : Tag) : Dest := if f.nd then .none else .v f.d.toNat tag
def vectorPend (f : Fields) : List PReg := if f.nd then [] else [.v f.d.toNat]

/-- `vld` (R253). -/
def execVld (f : Fields) (s : State) : Host.Outcome State Fault Refusal :=
  mem (.vld f) f (fun th =>
    if !offsetTagOk f th then trap TAG
    else .ok { kind := .load, lanes := (memLanes th).map fun i => (i, vectorOffset f th 4 i), ty := f.ty.toNat,
               dest := vectorDest f (loadTag f.ty), pend := vectorPend f, lc := true }) s

/-- `vldu` (R253): every active lane reads the one word. -/
def execVldu (f : Fields) (s : State) : Host.Outcome State Fault Refusal :=
  mem (.vldu f) f (fun th =>
    .ok { kind := .load, lanes := (memLanes th).map fun i => (i, vectorOffset f th 0 i), ty := f.ty.toNat,
          dest := vectorDest f (loadTag f.ty), pend := vectorPend f, lc := true }) s

/-- The data tag of a store: any under TY 0 (R253). -/
def storeTagOk (f : Fields) (t : Tag) : Bool := if f.ty == 0 then tagAny t else tagOk [tagOfTy f.ty] t

/-- `vst` (R253). -/
def execVst (f : Fields) (s : State) : Host.Outcome State Fault Refusal :=
  mem (.vst f) f (fun th =>
    let c := th.regs.srcV f f.c
    if !offsetTagOk f th || !storeTagOk f c.tag then trap TAG
    else .ok { kind := .store, perm := .store, writes := true, lanes := (memLanes th).map fun i => (i, vectorOffset f th 4 i),
               data := fun i => (laneOf c.lanes i).toNat, ty := f.ty.toNat, sc := true }) s

/-- `sld` (R254). -/
def execSld (f : Fields) (s : State) : Host.Outcome State Fault Refusal :=
  mem (.sld f) f (fun th =>
    let w := memWidth f.ty
    .ok { kind := .load, width := w, align := w, lanes := [(0, scalarOffset f th)], ty := f.ty.toNat,
          dest := scalarDest f f.ty, pend := scalarPend f, lc := true, scalar := true }) s

/-- `sst` (R254). -/
def execSst (f : Fields) (s : State) : Host.Outcome State Fault Refusal :=
  mem (.sst f) f (fun th =>
    let w := memWidth f.ty
    let x := scalarData th f.ty f.c
    .ok { kind := .store, width := w, align := w, perm := .store, writes := true, lanes := [(0, scalarOffset f th)],
          data := fun _ => x, ty := f.ty.toNat, sc := true, scalar := true }) s

/-! ### Atomics and reductions (R256..R259) -/

/-- `vatm` (R256, R257); D is also the expected value of `.cas`, 0 with ND = 1. -/
def execVatm (f : Fields) (s : State) : Host.Outcome State Fault Refusal :=
  mem (.vatm f) f (fun th =>
    let ty := atomTy f
    let c := th.regs.srcV f f.c
    let d := th.regs.destV f
    if !offsetTagOk { f with fn := 0 } th || !tagOk [tagOfTy ty] c.tag || (f.fn == 7 && !tagOk [tagOfTy ty] d.tag) then trap TAG
    else .ok { kind := .atomic f.fn.toNat, perm := .rmw, writes := true,
               lanes := (memLanes th).map fun i => (i, vectorOffset { f with fn := 0 } th 4 i),
               data := fun i => (laneOf c.lanes i).toNat, expect := fun i => (laneOf d.lanes i).toNat, ty := ty.toNat,
               dest := vectorDest f (tagOfTy ty), pend := vectorPend f, lc := true, sc := true }) s

/-- `vmred` (R258). -/
def execVmred (f : Fields) (s : State) : Host.Outcome State Fault Refusal :=
  mem (.vmred f) f (fun th =>
    let ty := atomTy f
    let c := th.regs.srcV f f.c
    if !offsetTagOk { f with fn := 0 } th || !tagOk [tagOfTy ty] c.tag then trap TAG
    else .ok { kind := .reduce f.fn.toNat, perm := .rmw, writes := true,
               lanes := (memLanes th).map fun i => (i, vectorOffset { f with fn := 0 } th 4 i),
               data := fun i => (laneOf c.lanes i).toNat, ty := ty.toNat, sc := true }) s

/-- `satm` (R256). -/
def execSatm (f : Fields) (s : State) : Host.Outcome State Fault Refusal :=
  mem (.satm f) f (fun th =>
    let ty := atomTy f
    let w := memWidth ty
    let x := scalarData th ty f.c
    let e := if f.nd then 0 else scalarData th ty f.d
    .ok { kind := .atomic f.fn.toNat, width := w, align := w, perm := .rmw, writes := true,
          lanes := [(0, scalarOffset f th)], data := fun _ => x, expect := fun _ => e, ty := ty.toNat,
          dest := scalarDest f ty, pend := scalarPend f, lc := true, sc := true, scalar := true }) s

/-- `smred` (R258). -/
def execSmred (f : Fields) (s : State) : Host.Outcome State Fault Refusal :=
  mem (.smred f) f (fun th =>
    let ty := atomTy f
    let w := memWidth ty
    let x := scalarData th ty f.c
    .ok { kind := .reduce f.fn.toNat, width := w, align := w, perm := .rmw, writes := true,
          lanes := [(0, scalarOffset f th)], data := fun _ => x, ty := ty.toNat, sc := true, scalar := true }) s

/-! ### Futures (R260..R263) -/

/-- `vfld` (R261). -/
def execVfld (f : Fields) (s : State) : Host.Outcome State Fault Refusal :=
  mem (.vfld f) f (fun th =>
    if !offsetTagOk f th then trap TAG
    else .ok { kind := .futLoad, width := 8, align := 8, lanes := (memLanes th).map fun i => (i, vectorOffset f th 8 i),
               ty := f.ty.toNat, dest := .future (if f.nd then 255 else f.d.toNat) f.c.toNat,
               pend := vectorPend f ++ regsOf .z f.c, lc := true }) s

/-- `vfst` (R262). -/
def execVfst (f : Fields) (s : State) : Host.Outcome State Fault Refusal :=
  mem (.vfst f) f (fun th =>
    let c := th.regs.srcV f f.c
    if !offsetTagOk f th || !storeTagOk f c.tag then trap TAG
    else .ok { kind := .futFill, width := 8, align := 8, perm := .store, writes := true,
               lanes := (memLanes th).map fun i => (i, vectorOffset f th 8 i),
               data := fun i => (laneOf c.lanes i).toNat, ty := f.ty.toNat, sc := true }) s

/-- `sfld` (R261). -/
def execSfld (f : Fields) (s : State) : Host.Outcome State Fault Refusal :=
  mem (.sfld f) f (fun th =>
    .ok { kind := .futLoad, width := 8, align := 8, lanes := [(0, scalarOffset f th)], ty := f.ty.toNat,
          dest := .sFuture (if f.nd then 255 else f.d.toNat), pend := scalarPend f, lc := true, scalar := true }) s

/-- `sfst` (R262). -/
def execSfst (f : Fields) (s : State) : Host.Outcome State Fault Refusal :=
  mem (.sfst f) f (fun th =>
    let x := (th.regs.srcS f.c).toNat
    .ok { kind := .futFill, width := 8, align := 8, perm := .store, writes := true, lanes := [(0, scalarOffset f th)],
          data := fun _ => x, ty := f.ty.toNat, sc := true, scalar := true }) s

/-! ### Reservations (R264) -/

/-- `srsv`. -/
def execSrsv (f : Fields) (s : State) : Host.Outcome State Fault Refusal :=
  mem (.srsv f) f (fun th =>
    let w := memWidth f.ty
    .ok { kind := .reserve, width := w, align := w, lanes := [(0, scalarOffset f th)], ty := f.ty.toNat,
          dest := scalarDest f f.ty, pend := scalarPend f, lc := true, scalar := true }) s

/-- `scnd`: the bytes of a running kernel's code are protected only where it would succeed (03 R57). -/
def execScnd (f : Fields) (s : State) : Host.Outcome State Fault Refusal :=
  mem (.scnd f) f (fun th =>
    let w := memWidth f.ty
    let x := scalarData th f.ty f.c
    let ea := (th.bases.getD f.a.toNat {}).ea (scalarOffset f th)
    let holds := match th.resv with
      | some r => r.ea == ea && r.width == w
      | none => false
    .ok { kind := .cond, width := w, align := w, perm := .store, writes := holds, lanes := [(0, scalarOffset f th)],
          data := fun _ => x, ty := f.ty.toNat, dest := if f.nd then .none else .s f.d.toNat 7,
          pend := if f.nd then [] else regsOf .sd f.d, lc := true, sc := true, scalar := true }) s

/-! ### Fences and line maintenance (R265, R267) -/

/-- `fence`: an ordering with no access of its own, in the order of the group's accesses. -/
def execFence (f : Fields) (s : State) : Host.Outcome State Fault Refusal :=
  control (.fence f) f (fun s th =>
    if regroupHeld s th.core (scopeOf f) .global then .error (.wait .regroup)
    else
      let (n, s1) := s.fresh
      let a := accessOf n th f { kind := .fence, lanes := [] } .global [] 0
      .ok (pump (finish (enlist s1 a []) th s.cur f .none) th.id)) s

/-- The form of `cwb` and `cinv`: no alignment, and no permission, since neither loads or stores (21 R404). -/
def lineOp (i : Instr) (f : Fields) (kind : AccKind) (s : State) : Host.Outcome State Fault Refusal :=
  mem i f (fun th => .ok { kind, width := 1, align := 1, perm := .none, lanes := [(0, scalarOffset f th)], sc := true, scalar := true }) s

/-- `cwb` (R267). -/
def execCwb (f : Fields) (s : State) : Host.Outcome State Fault Refusal := lineOp (.cwb f) f .cwb s

/-- `cinv` (R267). -/
def execCinv (f : Fields) (s : State) : Host.Outcome State Fault Refusal := lineOp (.cinv f) f .cinv s

/-! ### Moment loads and stores (09 R204..R206) -/

/-- e of R204. -/
def pairBytes (f : Fields) : Nat := if f.ty == 9 then 4 else 8

/-- `mld` (09 R205). -/
def execMld (f : Fields) (s : State) : Host.Outcome State Fault Refusal :=
  mem (.mld f) f (fun th =>
    let e := pairBytes f
    if !offsetTagOk f th then trap TAG
    else .ok { kind := .load, width := e, align := e, lanes := (memLanes th).map fun i => (i, vectorOffset f th e i),
               ty := f.ty.toNat, dest := if f.nd then .none else .m f.d.toNat (e == 8),
               pend := if f.nd then [] else [.m f.d.toNat], lc := true }) s

/-- A pair as `mst` stores it (09 R206): f32 as it is, a bf16 variance never −0 (02 R44; log 57). -/
def storedPair (f : Fields) (r : SReg) (mean var : Word) : Nat :=
  if f.ty == 9 then
    convert 10 9 f.mo.toNat r.srseed mean.toNat +
    2 ^ 16 * plusZero 16 (convert 10 9 f.mo.toNat (r.srseed ^^^ BitVec.ofNat 32 (r.mcr.toNat / 16 * 2 ^ 28)) var.toNat)
  else mean.toNat + 2 ^ 32 * var.toNat

/-- `mst` (09 R206): MO holds the rounding code, and the access is relaxed. -/
def execMst (f : Fields) (s : State) : Host.Outcome State Fault Refusal :=
  control (.mst f) f (fun s th =>
    let e := pairBytes f
    let q := th.regs.readM f.c.toNat
    if !offsetTagOk f th || !tagOk [MOM] q.tag then trap TAG
    else memBody { f with mo := 0 } {
      kind := .store, width := e, align := e, perm := .store, writes := true,
      lanes := (memLanes th).map fun i => (i, vectorOffset f th e i),
      data := fun i => storedPair f th.regs.sr (laneOf q.mean i) (laneOf q.var i), ty := f.ty.toNat, sc := true } s th) s

/-! ### Base registers (R246..R252) -/

/-- The end E of the group's allocation in a window (R252, log 16 for a system core). -/
def windowEnd (s : State) (th : Thread) (kind : BaseKind) (va : Nat) : Nat :=
  match kind with
  | .slice => (match th.id with
    | .grp _ _ _ => 1024
    | .sys _ => 0)
  | .scratch => th.scrSize
  | .chip =>
    if (chipKey (kernelOf s th) (dieOfCore th.core) va).isSome then (kernelOf s th).desc.chip else 0
  | .cluster => if (slotOfCore s th.core).isSome then (kernelOf s th).desc.ws else 0
  | .regWindow =>
    if 0 < th.regs.m.length then 0x20000 + 768 * th.regs.m.length
    else if 0 < th.regs.v.length then 0x1000 + 384 * th.regs.v.length
    else 0x100
  | .global => 0

/-- Offset of a window address within the allocation (R399, R400). -/
def windowOffset (kind : BaseKind) (va : Nat) : Nat := if kind == .chip then va % 2 ^ 32 else va % 2 ^ 56

/-- The thread with b n set. -/
def Thread.setBase (th : Thread) (n : Nat) (b : BaseReg) : Thread := { th with bases := lset th.bases n b }

/-- `bset` (R252); with ND = 1 no register is written (03 R74). -/
def execBset (f : Fields) (s : State) : Host.Outcome State Fault Refusal :=
  control (.bset f) f (fun s th =>
    let x := th.regs.readX f.a.toNat
    let va := x.toNat
    let done (s : State) (b : BaseReg) : Res State := .ok (finish s (if f.nd then th else th.setBase f.d.toNat b) s.cur f .none)
    match regionOf va with
    | none => .error (.trap PROT (memDetail 0 0) va 0)
    | some .global =>
      match lookupFor s th va with
      | (.ok l, s1) =>
        done s1 { valid := true, kind := .global, vbase := x, leaf := l, limit := l.page + pageBytes l.level - va }
      | (.error (.moving pte), _) => .error (.wait (.moving pte))
      | (.error (.link key), _) => .error (.wait (.link key))
      | (.error (.fault code level), s1) =>
        if code == PAGE then .error (.park (memDetail 0 level) va 0 s1) else .error (.trap code (memDetail 0 level) va 0)
    | some kind =>
      if regroupHeld s th.core 0 kind then .error (.wait .regroup)
      else done s { valid := true, kind, vbase := x, limit := windowEnd s th kind va - windowOffset kind va,
                    slot := if kind == .cluster then slotOfCore s th.core else none }) s

/-- `binv` of one register (R252). -/
def execBinv (f : Fields) (s : State) : Host.Outcome State Fault Refusal :=
  compute (.binv f) f (fun th => .ok (if f.nd then th else th.setBase f.d.toNat {}, .none)) s

/-- `binv all` (R252). -/
def execBinvAll (f : Fields) (s : State) : Host.Outcome State Fault Refusal :=
  compute (.binvAll f) f (fun th => .ok ({ th with bases := List.replicate 8 {} }, .none)) s

end Sys2Proof.Machine
end

