-- ==== Sys2Proof/Machine/Barrier.lean ====
section
/-! DEFINITION. Teams and barriers (16_barrier R312..R328): arrivals, retirements, leaves, and the barrier instructions. -/

namespace Sys2Proof.Machine

/-- The team of a kernel. -/
def Kernel.team? (k : Kernel) (n : Nat) : Option Team := k.teams.find? fun t => t.num == n

/-- Puts a team back. -/
def setTeam (s : State) (p kn : Nat) (t : Team) : State :=
  match s.kernel? p kn with
  | some k => s.setKernel p kn { k with teams := k.teams.map fun x => if x.num == t.num then t else x }
  | none => s

/-- The RETIRED members of a team (R315). -/
def retiredMembers (s : State) (p kn : Nat) (t : Team) : List Nat :=
  t.members.filter fun g => match s.thread? (.grp p kn g) with
    | some th => th.run == .retired
    | none => false

/-- The reason of R317 that an arrival of member g with count n fails by, in the order 4, 3, 2, 5, 1. -/
def badArrival (team : Option Team) (g n : Nat) : Option Nat :=
  match team with
  | none => some 4
  | some t =>
    let m := if n == 0 then t.members.length else n
    if !t.members.contains g then some 3
    else if t.members.length < m then some 2
    else if t.st == .counting && t.arrived.contains g then some 5
    else if t.st == .counting && m != t.e then some 1
    else none

/-- The team after an arrival or a retirement: RELEASING once A reaches E (R316). -/
def Team.settled (t : Team) : Team := if t.e ≤ t.a then { t with st := .releasing } else { t with st := .counting }

/-- The team after the valid arrival of g (R316); `retired` are its RETIRED members. -/
def Team.arrive (t : Team) (g n : Nat) (retired : List Nat) : Team :=
  let m := if n == 0 then t.members.length else n
  match t.st with
  | .counting => { t with a := t.a + 1, arrived := t.arrived ++ [g] }.settled
  | _ =>
    let rs := retired.filter fun x => x != g
    { t with e := m, a := 1 + rs.length, arrived := g :: rs }.settled

/-- The leave follows a barrier that enters RELEASING. -/
def releaseIfFull (s : State) (p kn : Nat) (t : Team) : State :=
  let s1 := setTeam s p kn t
  if t.st == .releasing then s1.push (.barrierLeave p kn t.num) else s1

/-- BARRIER_ARRIVAL (R316..R319): the arrival that a stalled `bar` or `barv` sent. At a RELEASING barrier the instruction
stays stalled and arrives again. -/
def arriveAt (s : State) (id : ThreadId) (n : Nat) : State :=
  match id, s.thread? id with
  | .grp p kn g, some th =>
    match th.run, s.kernel? p kn with
    | .waiting (.barrierArrive tn count slot wait), some k =>
      if tn != n then s
      else match k.team? n with
        | none => takeTrap s id BARMISMATCH 4 0 0
        | some t =>
          if t.st == .releasing then s
          else match badArrival (some t) g count with
            | some r => takeTrap s id BARMISMATCH r 0 0
            | none =>
              let t1 := t.arrive g count (retiredMembers s p kn t)
              let th1 := th.next slot
              if wait then
                releaseIfFull (s.setThread { th1 with run := .waiting (.barrier n) }) p kn { t1 with waiting := t1.waiting ++ [g] }
              else
                let rec1 : Arrival := { team := n, phase := t.ph }
                releaseIfFull (s.setThread { th1 with run := .ready, arrivals := (th.arrivals.filter fun a => a.team != n) ++ [rec1] })
                  p kn t1
    | _, _ => s
  | _, _ => s

/-- BARRIER_RETIREMENT (R316): a member that has not arrived retires. -/
def retireAt (s : State) (id : ThreadId) (n : Nat) : State :=
  match id with
  | .sys _ => s
  | .grp p kn g =>
    match (s.kernel? p kn).bind fun k => k.team? n with
    | none => s
    | some t =>
      if t.st == .counting && t.members.contains g && !t.arrived.contains g then
        releaseIfFull s p kn ({ t with a := t.a + 1, arrived := t.arrived ++ [g] }.settled)
      else s

/-- A party receives its leave (R320, R321, R323): the acquire, and the group goes on; a SAVED group keeps it. -/
def leave (s : State) (id : ThreadId) (n : Nat) : State :=
  match s.thread? id with
  | none => s
  | some th =>
    let th1 := { th with arrivals := th.arrivals.filter fun a => a.team != n }
    if th.run == .saved then s.setThread { th1 with leave := true }
    else if th.run == .waiting (.barrier n) then acquireSide (s.setThread { th1 with run := .ready }) id
    else s

/-- BARRIER_LEAVE (R316). -/
def leaveAll (s : State) (p kn n : Nat) : State :=
  match (s.kernel? p kn).bind fun k => k.team? n with
  | none => s
  | some t =>
    if t.st != .releasing then s
    else
      let s1 := setTeam s p kn { t with st := .idle, ph := t.ph + 1, e := 0, a := 0, arrived := [], waiting := [] }
      t.waiting.foldl (fun s g => leave s (.grp p kn g) n) s1

/-- BARRIER_ARRIVAL (R316). -/
def execBarrierArrival (th : ThreadId) (team : Nat) (s : State) : Host.Outcome State Fault Refusal := .next (arriveAt s th team)

/-- BARRIER_RETIREMENT (R316). -/
def execBarrierRetirement (th : ThreadId) (team : Nat) (s : State) : Host.Outcome State Fault Refusal :=
  .next (retireAt s th team)

/-- BARRIER_LEAVE (R316). -/
def execBarrierLeave (part kern team : Nat) (s : State) : Host.Outcome State Fault Refusal := .next (leaveAll s part kern team)

/-! ### Instructions (R325..R328) -/

/-- `bar` and `barv`: the group waits until its earlier accesses are performed (R319), and then its arrival is on its way. -/
def arrival (i : Instr) (f : Fields) (wait : Bool) (s : State) : Host.Outcome State Fault Refusal :=
  control i f (fun s th =>
    let c : Cond := .barrierArrive f.ax.toNat (th.regs.srcBS f).toNat f.len.slot wait
    if quietThread s th.id then
      .ok ((s.setThread { th with run := .waiting c }).push (.barrierArrival th.id f.ax.toNat))
    else .error (.wait c)) s

/-- `bar` (R326). -/
def execBar (f : Fields) (s : State) : Host.Outcome State Fault Refusal := arrival (.bar f) f true s

/-- `barv` (R326). -/
def execBarv (f : Fields) (s : State) : Host.Outcome State Fault Refusal := arrival (.barv f) f false s

/-- `barw` (R327): with a record of the open phase the group waits among the barrier's parties; with one of an earlier
phase it leaves at once; with none it goes on. -/
def execBarw (f : Fields) (s : State) : Host.Outcome State Fault Refusal :=
  control (.barw f) f (fun s th =>
    let n := f.ax.toNat
    let s1 := finish s th s.cur f .none
    match th.id, th.arrivals.find? fun a => a.team == n with
    | .grp p kn g, some r =>
      match (kernelOf s th).team? n with
      | none => .ok s1
      | some t =>
        let s2 := s1.onThread th.id fun x => { x with run := .waiting (.barrier n) }
        if t.ph != r.phase then .ok (leave s2 th.id n)
        else .ok (setTeam s2 p kn { t with waiting := t.waiting ++ [g] })
    | _, _ => .ok s1) s

/-- What `tmq` answers: the word, or NOTEAM (R328). -/
def teamQuery (k : Kernel) (gid : Nat) (query : Nat) (team arg : Nat) : Option Nat :=
  if query == 3 then some (k.teams.filter fun t => t.members.contains gid).length
  else match (if team < 256 then k.team? team else none) with
    | none => none
    | some t =>
      match query with
      | 0 => some t.members.length
      | 1 => some ((t.members.findIdx? fun g => g == gid).getD 0xFFFFFFFF)
      | 2 => some (t.members.getD arg 0xFFFFFFFF)
      | _ =>
        let st := match t.st with
          | .idle => 0
          | .counting => 1
          | .releasing => 2
        some (t.ph.toNat + 2 ^ 16 * st + 2 ^ 18 * (t.a % 2 ^ 14))

/-- `tmq` (R328). -/
def execTmq (f : Fields) (s : State) : Host.Outcome State Fault Refusal :=
  control (.tmq f) f (fun s th =>
    let gid := match th.id with
      | .grp _ _ g => g
      | .sys _ => 0
    match teamQuery (kernelOf s th) gid f.ax.toNat (th.regs.srcS f.a).toNat (th.regs.srcBS f).toNat with
    | some x => .ok (finish s { th with regs := th.regs.setStatus stOk } s.cur f (.s (BitVec.ofNat 32 x)))
    | none => .ok (finish s { th with regs := th.regs.setStatus stNoTeam } s.cur f (.s 0))) s

end Sys2Proof.Machine
end

