-- ==== Sys2Proof/Machine/Link.lean ====
section
/-! DEFINITION. Die boundaries and couplings (24_link R442..R447): flits and replay, the states of a link, and the coupling
records of the I/O table. -/

namespace Sys2Proof.Machine

/-! ### Flits (R442, R443) -/

/-- One bit through the CRC-16 of polynomial 0x8BB7. -/
def crcBit (c : BitVec 16) (b : Bool) : BitVec 16 :=
  if c.getLsbD 15 != b then (c <<< 1) ^^^ 0x8BB7 else c <<< 1

/-- The CRC of a flit's bits [239:0], the highest bit first (log 26). -/
def flitCrc (x : BitVec 256) : BitVec 16 := (List.range 240).foldl (fun c i => crcBit c (x.getLsbD (239 - i))) 0

/-- The sender frees the flits that an ACK covers (R443). -/
def ackUpTo (s : State) (l : LinkId) (ack : BitVec 8) : State :=
  let x := s.link l
  if x.buf.any fun e => e.1 == ack then
    let rest := (x.buf.dropWhile fun e => e.1 != ack).drop 1
    s.setLink l { x with buf := rest, lastAck := s.t, naks := 0, nakSeq := none }
  else s

/-- The link leaves UP for RETRAIN (R444). -/
def enterRetrain (s : State) (l : LinkId) : State :=
  if (s.link l).st == .up then setLinkState s l .retrain fun x => { x with retrains := x.retrains + 1, naks := 0, nakSeq := none }
  else s

/-- NAK_RECEIVE (R443, R444): the sender sends again from the named SEQ on; 8 NAKs that name one SEQ retrain the link. -/
def nakReceive (s : State) (l : LinkId) (seq : BitVec 8) : State :=
  let x := s.link l
  let n := if x.nakSeq == some seq then x.naks + 1 else 1
  let s1 := s.setLink l { x with nakSeq := some seq, naks := n, resend := x.buf.dropWhile fun e => e.1 != seq }
  if 8 ≤ n then enterRetrain s1 l else s1

/-- NAK_RECEIVE (R443). -/
def execNakReceive (link : LinkId) (seq : BitVec 8) (s : State) : Host.Outcome State Fault Refusal :=
  .next (nakReceive s link seq)

/-- The receiver's NAK of the expected SEQ reaches the sender, where the sender lies in the package (R443). -/
def sendNak (s0 : State) (l : LinkId) : State :=
  let s := s0.setLink l { s0.link l with nakAt := s0.t }
  match l with
  | .boundary _ _ => nakReceive s l (s.link l).expect
  | .coupling _ _ => s

/-- FLIT_RECEIVE (R443): a good data flit with the expected SEQ is delivered once; any other is discarded and answered with
a NAK, but for idle and NAK flits. -/
def flitReceive (s : State) (l : LinkId) (x : BitVec 256) (room : Bool) : State :=
  if (s.link l).st != .up then s
  else
    let good := flitCrc x == x.extractLsb' 240 16
    let type := (x.extractLsb' 16 4).toNat
    let seq := x.extractLsb' 0 8
    let s1 := if good && type ≤ 2 then ackUpTo s (reverse l) (x.extractLsb' 8 8) else s
    let r := s1.link l
    if good && type == 0 then s1
    else if good && type == 2 then nakReceive s1 (reverse l) seq
    else if good && type == 1 && seq == r.expect && room then
      s1.setLink l { r with delivered := r.delivered ++ [x.extractLsb' 20 220], expect := r.expect + 1, nakOut := false }
    else sendNak (s1.setLink l { r with nakOut := true }) l

/-- FLIT_RECEIVE (R443). -/
def execFlitReceive (link : LinkId) (flit : BitVec 256) (room : Bool) (s : State) : Host.Outcome State Fault Refusal :=
  .next (flitReceive s link flit room)

/-- NAK_REPEAT (R443): 1 µs after the last one, until the expected flit arrives. -/
def execNakRepeat (link : LinkId) (s : State) : Host.Outcome State Fault Refusal :=
  .next (if (s.link link).nakOut && (s.link link).nakAt + 2500 ≤ s.t then sendNak s link else s)

/-- A link that is UP with flits to send. -/
def dueFlit (s : State) : Option LinkId := (s.links.find? fun e => e.2.st == .up && !e.2.resend.isEmpty).map (·.1)

/-- The next flit of a link arrives undamaged (R443): one with the expected SEQ is taken, what it carries acts where it arrives,
and its ACK frees it at the sender; one taken already is freed too. A sender that held 128 flits has room again. -/
def carryFlit (s : State) (l : LinkId) : State :=
  let x := s.link l
  match x.resend with
  | [] => s
  | f :: fs =>
    let taken := f.1 == x.expect
    let s1 := ackUpTo (s.setLink l { x with resend := fs, expect := if taken then x.expect + 1 else x.expect,
                                            nakOut := x.nakOut && !taken }) l f.1
    if 128 ≤ x.buf.length then resumeAll s1 else s1

/-! ### States of a link (R444, R445) -/

/-- ACK_TIMEOUT (R444): flits are held and no ACK has advanced for 4 µs. -/
def execAckTimeout (link : LinkId) (s : State) : Host.Outcome State Fault Refusal :=
  .next (let x := s.link link
         if !x.buf.isEmpty && x.lastAck + 10000 ≤ s.t then enterRetrain s link else s)

/-- RETRAIN_DONE (R445), within 10 µs: the link is UP and replay resumes at the first unacknowledged flit. -/
def execRetrainDone (link : LinkId) (s : State) : Host.Outcome State Fault Refusal :=
  .next (if (s.link link).st == .retrain && s.t ≤ (s.link link).since + 25000 then
      resumeAll (setLinkState s link .up fun x => { x with fails := 0, resend := x.buf, lastAck := s.t })
    else s)

/-- RETRAIN_TIMEOUT (R445): a retrain of 10 µs fails, and the third in a row takes the link DOWN. -/
def execRetrainTimeout (link : LinkId) (s : State) : Host.Outcome State Fault Refusal :=
  .next (let x := s.link link
         if x.st != .retrain || s.t < x.since + 25000 then s
         else if 2 ≤ x.fails then setLinkState s link .down fun y => { y with fails := 0 }
         else setLinkState s link .retrain fun y => { y with fails := x.fails + 1 })

/-- A link has trained: both replay buffers are empty and SEQ is 0; a coupling learns its peer (R445). -/
def trained (s : State) (link : LinkId) (peer : DWord) : State :=
  resumeAll (setLinkState s link .up fun x =>
    { st := x.st, since := x.since, retrains := x.retrains, delivered := x.delivered, lastAck := s.t, peer })

/-- TRAINING_DONE (R445), within 1 ms. -/
def execTrainingDone (link : LinkId) (peer : DWord) (s : State) : Host.Outcome State Fault Refusal :=
  .next (if (s.link link).st == .training && s.t ≤ (s.link link).since + 2500000 then trained s link peer else s)

/-- TRAINING_TIMEOUT (R445): 1 ms without training. -/
def execTrainingTimeout (link : LinkId) (s : State) : Host.Outcome State Fault Refusal :=
  .next (if (s.link link).st == .training && (s.link link).since + 2500000 ≤ s.t then setLinkState s link .down id else s)

/-- A die boundary that has been DOWN for 1 ms trains again; the replay buffer stays (R445). -/
def downOver (s : State) (link : LinkId) : State :=
  match link with
  | .boundary _ _ => if (s.link link).st == .down && (s.link link).since + 2500000 ≤ s.t then setLinkState s link .training id else s
  | .coupling _ _ => s

/-- DOWN_TIMEOUT (R445). -/
def execDownTimeout (link : LinkId) (s : State) : Host.Outcome State Fault Refusal := .next (downOver s link)

/-- The die boundaries, over which software has no control: one in TRAINING is trained in the next core cycle (log 53), one that
was DOWN for 1 ms trains again (R445). -/
def tendBoundaries (s : State) : State :=
  (List.range 4).foldl (fun s b =>
    let l : LinkId := .boundary b true
    if (s.link l).st == .training then trained s l 0 else downOver s l) s

/-- ENABLE set to 0 (R445): waiting requests stay. -/
def couplingDisable (s : State) (k : Nat) : State :=
  if (s.link (.coupling k true)).st == .disabled then s else setLinkState s (.coupling k true) .disabled id

/-- COUPLING_ENABLE (R445). -/
def execCouplingEnable (coupling : Nat) (s : State) : Host.Outcome State Fault Refusal := .next (couplingEnable s coupling)

/-- COUPLING_DISABLE (R445). -/
def execCouplingDisable (coupling : Nat) (s : State) : Host.Outcome State Fault Refusal := .next (couplingDisable s coupling)

/-- A changed ENABLE of a coupling record takes effect (R446); a 1 written again acts as it is written (`enableAgain`). -/
def pollCoupling (s : State) (p k : Nat) : State :=
  let on := bitSet (readHome s (ioTable s p + 0x40 + 32 * k) 1) 0
  let off := (s.link (.coupling k true)).st == .disabled
  if on && off then couplingEnable s k else if !on && !off then couplingDisable s k else s

end Sys2Proof.Machine
end

