-- ==== Sys2Proof/Machine/Ethernet.lean ====
section
/-! DEFINITION. Ethernet port halves (24_link R449..R454, 19_queue R369, R377): records, steering, ingress and egress. -/

namespace Sys2Proof.Machine

/-- The running partition that holds a port half. -/
def partOfHalf (s : State) (h : Nat) : Option Nat := (s.parts.find? fun e => e.2.running && bitSet e.2.ports h).map (·.1)

/-- The record of a port half (R446). -/
def halfRecord (s : State) (p h : Nat) : Nat := ioTable s p + 0x400 + 64 * h

/-- The half is idle: the odd half of a port in 800 Gb/s mode, whose partition holds both halves (R449). -/
def halfIdle (s : State) (p h : Nat) : Bool :=
  h % 2 == 1 && bitSet (s.part p).ports (h - 1) && bitSet (s.port (h - 1)).ctl.toNat 1

/-- A counter of the record rises by 1, saturating (R449). -/
def countUp (s : State) (a : Nat) : State :=
  let n := readHome s a 8
  if n + 1 < 2 ^ 64 then paWrite s a 8 (n + 1) else s

/-- STATE of the record (R449). -/
def halfState (s : State) (h : Nat) (up : Bool) : State :=
  let s1 := s.setPort h { s.port h with up }
  match partOfHalf s1 h with
  | some p => paWrite s1 (halfRecord s1 p h + 1) 1 (if up then 1 else 0)
  | none => s1

/-- PORT_HALF_UP (R449). -/
def execPortHalfUp (half : Nat) (s : State) : Host.Outcome State Fault Refusal := .next (halfState s half true)
/-- PORT_HALF_DOWN (R449). -/
def execPortHalfDown (half : Nat) (s : State) : Host.Outcome State Fault Refusal := .next (halfState s half false)

/-- IO_TABLE_RECORD_CHANGE (R446): the control byte and the egress handle take effect; a new handle ends the halt of R453. -/
def recordChange (s : State) (h : Nat) : State :=
  match partOfHalf s h with
  | none => s
  | some p =>
    let a := halfRecord s p h
    let x := s.port h
    let egq : DWord := BitVec.ofNat 64 (readHome s (a + 8) 8)
    s.setPort h { x with ctl := BitVec.ofNat 8 (readHome s a 1), egq, egHalt := x.egHalt && egq == x.egq }

/-- IO_TABLE_RECORD_CHANGE (R446). -/
def execIoTableRecordChange (half : Nat) (s : State) : Host.Outcome State Fault Refusal := .next (recordChange s half)

/-! ### Ingress (R450, R451) -/

/-- A rule as it is read; one with a reserved bit set or a size out of range is not valid (R450). -/
def readRule (s : State) (p h r : Nat) : Rule :=
  let a := ioTable s p + 0x1000 + 4096 * h + 64 * r
  let bs := ((List.range 8).map fun i => leBytes 8 (readHome s (a + 8 * i) 8)).flatten
  let field (o n : Nat) : Nat := ofLeBytes ((bs.drop o).take n)
  let reserved := field 43 1 + field 46 18 + field 42 1 / 64
  { value := bs.take 8, mask := (bs.drop 8).take 8, moff := field 16 2 % 2 ^ 15,
    valid := bitSet (field 16 2) 15 && reserved == 0 && 11 ≤ field 40 1 && field 40 1 ≤ 14 && 4 ≤ field 41 1 &&
      field 41 1 ≤ 20 && field 32 8 % 4096 == 0,
    soff := field 18 2, sid := BitVec.ofNat 32 (field 20 4), queue := BitVec.ofNat 64 (field 24 8), pool := field 32 8,
    slotLog := field 40 1, cntLog := field 41 1, sp := field 42 1, entry := field 44 2 }

/-- The rule matches the frame; bytes beyond it read as 0 (R451). -/
def Rule.matches (r : Rule) (frame : List Byte) : Bool :=
  r.valid && (List.range 8).all fun k =>
    frame.getD (r.moff + k) 0 &&& r.mask.getD k 0 == r.value.getD k 0 &&& r.mask.getD k 0

/-- The stream of a frame (R451). -/
def Rule.stream (r : Rule) (frame : List Byte) : Word :=
  if r.soff == 0xFFFF || frame.length < r.soff + 2 then r.sid
  else r.sid + BitVec.ofNat 32 ((frame.getD r.soff 0).toNat * 256 + (frame.getD (r.soff + 1) 0).toNat)

/-- The FRAME cart (19 R377). -/
def frameCart (r : Rule) (addr half len : Nat) (stamp : DWord) (stream : Word) (badFcs : Bool) : List Word :=
  cartWords (1 + r.sp % 16 * 2 ^ 4 + r.sp / 16 % 4 * 2 ^ 8 + r.entry % 2 ^ 16 * 2 ^ 16 + addr % 2 ^ 64 * 2 ^ 32 +
    stream.toNat * 2 ^ 96 + stamp.toNat * 2 ^ 128 + len % 2 ^ 32 * 2 ^ 192 +
    (half % 16 + (if badFcs then 16 else 0)) * 2 ^ 224)

/-- DROPS of a queue rises by 1, saturating (19 R355, R369). -/
def dropFrame (s : State) (q : Queue) : State :=
  let n := if q.drops == 0xFFFFFFFF then q.drops else q.drops + 1
  let s1 := s.setQueue { q with drops := n }
  match q.id with
  | .table i => paWrite s1 (descAddr s1 q.part i + 48) 4 n.toNat
  | .data _ _ _ => s1

/-- Delivers a frame's cart to the queue of its rule; a queue whose level 0 is full, or its own level, drops it (R451, 19 R369). -/
def pushFrame (s : State) (p h : Nat) (handle : DWord) (ws : List Word) : State :=
  let destroyed := match s.queue? (.table (qIndex handle)) with
    | some q => if q.part == p && q.code == qChk handle && q.st == .destroyed && !qMalformed handle && qPush handle then some q else none
    | none => none
  match destroyed with
  | some q => dropFrame s q
  | none =>
    match findQueue s p handle (qPush handle) with
    | .error _ => countUp s (halfRecord s p h + 32)
    | .ok q =>
      if 2 ^ q.cap ≤ ((ageQueue (s.mesh - 1) q).level 0).length then dropFrame s q
      else match pushCart s q ws (cartPrio ws) with
        | (0, s1) => s1
        | _ => dropFrame s q

/-- The lowest-numbered rule of a half that matches a frame (R451). -/
def ruleFor (s : State) (p h : Nat) (frame : List Byte) : Option (Nat × Rule) :=
  ((List.range 64).map fun r => (r, readRule s p h r)).find? fun e => e.2.matches frame

/-! ### The receive buffer (R454) -/

/-- Bytes in the receive buffer. -/
def Port.rxLevel (x : Port) : Nat := x.rx.foldl (fun n f => n + f.bytes.length) 0

/-- The buffer holds more than 384 KiB: with FC set, PFC or PAUSE goes out (R454). -/
def noteHigh (s : State) (h : Nat) : State :=
  let x := s.port h
  if 384 * 1024 < x.rxLevel then
    s.setPort h { x with
      rxHigh := true,
      flow := if bitSet x.ctl.toNat 2 then some (if Config.pfcNegotiated h then .pfc else .pause) else x.flow }
  else s

/-- The buffer has fallen below 128 KiB: the release goes out (R454). -/
def noteLow (s : State) (h : Nat) : State :=
  let x := s.port h
  if x.rxLevel < 128 * 1024 then s.setPort h { x with rxHigh := false, flow := none } else s

/-- A steered frame: its bytes go to the next slot of its rule, and its cart to the rule's queue (R451). Addresses are in the
partition's context 0; a frame whose bytes cannot be written is dropped (log 24). `none`: the slot's page is on the move, or
behind a link that is not UP (21 R413, 24 R444). -/
def landFrame (s : State) (p h : Nat) (f : RxFrame) : Option State :=
  let x := s.port h
  let r := f.rule
  let i := tget 0 f.num x.slots
  let addr := r.pool + i % 2 ^ r.cntLog * 2 ^ r.slotLog
  let s1 := s.setPort h { x with slots := tset f.num (i + 1) x.slots }
  match hwWriteList s1 p 0 {} addr 1 ((f.bytes.take (2 ^ r.slotLog)).map (·.toNat)) with
  | .error c => if c == WAITS then none else some s1
  | .ok s2 => some (pushFrame s2 p h r.queue (frameCart r addr h f.bytes.length f.stamp (r.stream f.bytes) f.badFcs))

/-- The oldest frame of the receive buffer leaves it, where it can. -/
def rxNext (s : State) (h : Nat) : Option State :=
  let x := s.port h
  match partOfHalf s h, x.rx with
  | some p, f :: fs => (landFrame (s.setPort h { x with rx := fs }) p h f).map (noteLow · h)
  | _, _ => none

/-- A matched frame enters the receive buffer, and leaves it at once where no other is before it (R454). -/
def bufferFrame (s : State) (h : Nat) (f : RxFrame) : State :=
  let x := s.port h
  let s1 := noteHigh (s.setPort h { x with rx := x.rx ++ [f] }) h
  if x.rx.isEmpty then (rxNext s1 h).getD s1 else s1

/-- A counted frame is matched, `e` being the first rule that it matches, or counted as unmatched at the record `rec0`: the rules
are read once (R451). -/
def matchFrame (s : State) (h rec0 : Nat) (e : Option (Nat × Rule)) (frame : List Byte) (badFcs : Bool) : State :=
  match e with
  | none => countUp s (rec0 + 24)
  | some (n, r) => bufferFrame s h { bytes := frame, badFcs, stamp := (s.port h).gt.now s, num := n, rule := r }

/-- INGRESS_FRAME (R451): a full receive buffer drops the frame, uncounted (R454; log 59). -/
def ingressFrame (s : State) (h : Nat) (frame : List Byte) (badFcs : Bool) : State :=
  match partOfHalf s h with
  | none => s
  | some p =>
    if !bitSet (s.port h).ctl.toNat 0 || !(s.port h).up || halfIdle s p h then s
    else if 512 * 1024 < (s.port h).rxLevel + frame.length then s
    else
      let rec0 := halfRecord s p h
      let s1 := countUp s (rec0 + 16)
      matchFrame s1 h rec0 (ruleFor s1 p h frame) frame badFcs

/-- INGRESS_FRAME (R451). -/
def execIngressFrame (half : Nat) (frame : List Byte) (badFcs : Bool) (s : State) : Host.Outcome State Fault Refusal :=
  .next (ingressFrame s half frame badFcs)

/-! ### Egress (R453) -/

/-- The priority of a cart's frame: its PRIO (log 25). It is paused (R454). -/
def pausedNow (s : State) (x : Port) (ws : List Word) : Bool := x.paused.any fun e => e.1 == cartPrio ws && s.t < e.2

/-- The half may take a cart. -/
def mayPop (s : State) (h : Nat) : Bool :=
  let x := s.port h
  x.up && bitSet x.ctl.toNat 0 && x.tx.isNone && !x.egHalt && x.egq != 0 &&
  match partOfHalf s h with
  | some p => !halfIdle s p h
  | none => false

/-- What the half does next with EGQ, where it can do something: a bad handle halts it, a cart is taken (R453); a pop makes a
SWAPPED queue ACTIVE (19 R360). -/
def egressNext (s : State) (h : Nat) : Option State :=
  match partOfHalf s h with
  | none => none
  | some p =>
    if !mayPop s h then none
    else
      let x := s.port h
      match findQueue s p x.egq (qPop x.egq) with
      | .error _ => some (s.setPort h { x with egHalt := true })
      | .ok q0 =>
        if popsHeld s q0 then none
        else
          let (s1, q) := unswapFor s q0
          match q.pop s1.mesh with
          | none => none
          | some (ws, q1) =>
            if pausedNow s x ws then none
            else some (drainCheck ((storeQueue s1 { q1 with lastPop := s1.mesh }).setPort h { x with tx := some ws }) q.id)

/-- Fetches n bytes of a frame; a byte that the translation stops is a free value (log 24). `none`: a page is on the move, or
behind a link that is not UP. -/
def frameBytes (s : State) (p a : Nat) : Nat → Option (List Byte)
  | 0 => some []
  | n + 1 =>
    match hwRead s p 0 {} a 1, frameBytes s p (a + 1) n with
    | .ok x, some bs => some (BitVec.ofNat 8 x :: bs)
    | .error c, some bs => if c == WAITS then none else some ((Config.freeWord (s.free + n)).setWidth 8 :: bs)
    | _, none => none

/-- The length of an egress cart's frame, and whether it is out of range (R453). -/
def egressLen (ws : List Word) : Nat := (ws.getD 3 0).toNat
def badLen (ws : List Word) : Bool := egressLen ws < 60 || 16383 < egressLen ws

/-- The port fetches the frame of the cart that it has taken, and sends it (R453). -/
def egressFetch (s : State) (h : Nat) : Option State :=
  let x := s.port h
  match x.tx, x.txData, partOfHalf s h with
  | some ws, none, some p =>
    if badLen ws then none
    else (frameBytes s p ((ws.getD 1 0).toNat + (ws.getD 2 0).toNat * 2 ^ 32) (egressLen ws)).map fun bs =>
      ({ s with free := s.free + bs.length }).setPort h { x with txData := some bs }
  | _, _, _ => none

/-- EGRESS_POP (R453). -/
def egressPop (s : State) (h : Nat) : State := (egressNext s h).getD s

/-- EGRESS_POP (R453). -/
def execEgressPop (half : Nat) (s : State) : Host.Outcome State Fault Refusal := .next (egressPop s half)

/-- The frame has left, and the completion record is written (R453); a record that cannot be written is left out (log 24).
`none`: nothing has been sent yet, or the record's page is on the move or behind a link that is not UP. -/
def egressDone (s : State) (h : Nat) : Option State :=
  let x := s.port h
  match x.tx, partOfHalf s h with
  | some ws, some p =>
    let w (i : Nat) : Nat := (ws.getD i 0).toNat
    let at_ := w 4 + w 5 * 2 ^ 32
    let stamp := if bitSet (w 6) 0 && !badLen ws then (x.gt.now s).toNat else 0
    let s1 := s.setPort h { x with tx := none, txData := none }
    let s2 := if badLen ws then s1 else countUp s1 (halfRecord s1 p h + 40)
    if !badLen ws && x.txData.isNone then none
    else if at_ == 0 then some s2
    else match hwWriteList s2 p 0 {} at_ 8 [stamp, (if badLen ws then stBadLen else stOk) + 0x80 * 2 ^ 56] with
      | .ok s3 => some s3
      | .error c => if c == WAITS then none else some s2
  | some _, none => some (s.setPort h { x with tx := none, txData := none })
  | none, _ => none

/-- EGRESS_COMPLETE (R453). -/
def egressComplete (s : State) (h : Nat) : State := (egressDone s h).getD s

/-- What a port half can do: send, complete, take a cart, empty its receive buffer. -/
def portNext (s : State) (h : Nat) : Option State :=
  egressFetch s h <|> egressDone s h <|> egressNext s h <|> rxNext s h

/-- EGRESS_COMPLETE (R453). -/
def execEgressComplete (half : Nat) (s : State) : Host.Outcome State Fault Refusal := .next (egressComplete s half)

/-! ### Flow control (R454) -/

/-- PAUSE_RECEIVED (R454): transmission on the priorities of the frame stops for the time it names. -/
def execPauseReceived (half : Nat) (priorities : BitVec 8) (cycles : Nat) (s : State) : Host.Outcome State Fault Refusal :=
  .next (let x := s.port half
         let ps := (List.range 8).filter fun i => priorities.getLsbD i
         s.setPort half { x with paused := (x.paused.filter fun e => !ps.contains e.1) ++ ps.map fun i => (i, s.t + cycles) })

/-- PAUSE_TIME_EXPIRY (R454). -/
def execPauseTimeExpiry (half priority : Nat) (s : State) : Host.Outcome State Fault Refusal :=
  .next (let x := s.port half
         s.setPort half { x with paused := x.paused.filter fun e => !(e.1 == priority && e.2 ≤ s.t) })

/-- RX_BUFFER_HIGH (R454). -/
def execRxBufferHigh (half : Nat) (s : State) : Host.Outcome State Fault Refusal := .next (noteHigh s half)

/-- RX_BUFFER_LOW (R454). -/
def execRxBufferLow (half : Nat) (s : State) : Host.Outcome State Fault Refusal := .next (noteLow s half)

/-! ### Records that hardware keeps (R446, R449) -/

/-- The records of a partition's port halves and couplings show their states, whenever the partition started or took its table. -/
def showRecords (s : State) (p : Nat) : State :=
  let a := (bitMembers (s.part p).ports 16).foldl (fun s h => if readHome s (halfRecord s p h + 1) 1 == (if (s.port h).up then 1 else 0)
      then s else halfState s h (s.port h).up) s
  (bitMembers (s.part p).cpl 24).foldl (fun s k => if readHome s (ioTable s p + 0x41 + 32 * k) 1 == (s.link (.coupling k true)).st.code
      then s else writeCoupling s k) a

end Sys2Proof.Machine
end

