-- ==== Sys2Proof/Machine/Clock.lean ====
section
/-! DEFINITION. The global timebase at work (24_link R455, R456): the sends of the master, the states of the copies, the time
block. -/

namespace Sys2Proof.Machine

/-- A copy after a send (R455): `guard` is the drift limit in GT units, `step` the master's step since its last send. -/
def GtCopy.receive (c : GtCopy) (s : State) (guard : Nat) (step : DWord) : GtCopy :=
  let m := masterNow s
  let mine := c.now s + step
  let diff := if mine.ult m then (m - mine).toNat else (mine - m).toNat
  let c1 := { c with value := m, since := s.t, first := false }
  if c.first then { c1 with sync := false, good := 0 }
  else if c.sync then (if guard < diff then { c1 with sync := false, good := 0 } else c1)
  else if diff ≤ guard / 2 then
    (if 3 ≤ c.good then { c1 with sync := true, good := 0 } else { c1 with good := c.good + 1 })
  else { c1 with good := 0 }

/-- GTGUARD in GT units: of a partition, or the reset value (22 R423). -/
def guardOf (s : State) (p : Option Nat) : Nat :=
  match p with
  | some p => (s.part p).reg.gtguard.toNat * 65536
  | none => 32 * 65536

/-- The partition whose GTGUARD a core uses. -/
def guardPart (s : State) (core : Nat) : Option Nat :=
  if core < 384 then partOfCore s core else some (s.sysCore (core - 384)).psel.toNat

/-- Every local copy changes: of the cores, the launch unit of each partition, the queue units, the port halves (R455). -/
def onCopies (s : State) (g : Option Nat → GtCopy → GtCopy) : State :=
  let s1 := (List.range 400).foldl (fun s c => s.setCore c { s.core c with gt := g (guardPart s c) (s.core c).gt }) s
  let s2 := (List.range 8).foldl (fun s p => s.setPart p { s.part p with gt := g (some p) (s.part p).gt }) s1
  let s3 := (List.range 4).foldl (fun s d => s.setDie d { s.die d with gt := g none (s.die d).gt }) s2
  (List.range 16).foldl (fun s h => s.setPort h { s.port h with gt := g (partOfHalf s h) (s.port h).gt }) s3

/-- GT_SYNC_SEND (R455): every copy takes the master's value. -/
def gtSyncSend (s : State) : State :=
  let s1 := onCopies s fun p c => c.receive s (guardOf s p) s.gt.step
  { s1 with gt := { s1.gt with step := 0 } }

/-- GT_SYNC_SEND (R455). -/
def execGtSyncSend (s : State) : Host.Outcome State Fault Refusal := .next (gtSyncSend s)

/-- The master takes a rate: what has passed so far is kept, in the master and in every copy. -/
def setRate (s : State) (rate : Int) : State :=
  if s.gt.rate == rate then s
  else
    let s1 := onCopies s fun _ c => { c with value := c.now s, since := s.t }
    { s1 with gt := { s1.gt with value := masterNow s, since := s.t, rate } }

/-- The time block of a partition (R446). -/
def timeBlock (s : State) (p : Nat) : Nat := ioTable s p

/-- TIME_BLOCK_POLL (R456): the lowest running partition with TMASTER rules; a new SEQ applies STEP and RATE. -/
def timeBlockPoll (s : State) : State :=
  match s.parts.find? fun e => e.2.running && bitSet (readHome s (timeBlock s e.1) 1) 0 with
  | none => setRate s 0
  | some (p, _) =>
    let a := timeBlock s p
    let seq := readHome s (a + 20) 4
    if seq == readHome s (a + 24) 4 then s
    else
      let step : DWord := BitVec.ofNat 64 (readHome s (a + 8) 8)
      let rate := readInt 3 (readHome s (a + 16) 4)
      let m := masterNow s
      let s1 := setRate (paWrite s (a + 32) 8 m.toNat) rate
      let s2 := { s1 with gt := { s1.gt with value := s1.gt.value + step, step := s1.gt.step + step } }
      paWrite s2 (a + 24) 4 seq

/-- TIME_BLOCK_POLL (R456). -/
def execTimeBlockPoll (s : State) : Host.Outcome State Fault Refusal := .next (timeBlockPoll s)

end Sys2Proof.Machine
end

