-- ==== Sys2Proof/Machine/Fetch.lean ====
section
/-! DEFINITION. Instruction fetch (03_encoding R55..R57, 21_page R413, R415): the bytes of the slot at the program counter,
and what their fetch raises. -/

namespace Sys2Proof.Machine

/-- The rest of the aligned 32-byte block from the byte at `key` on (R56). -/
def blockBytes (s : State) (key : Nat) : List Byte :=
  let ln := key / 128
  ((lineBytes (settle s ln) ln).drop (key % 128)).take (32 - key % 32)

/-- Where the fetch of a thread finds its bytes: a key, or the fault and its level (R56). In hypervisor mode the address is
physical (log 14). A fetch from behind a link that is not UP waits for it (24 R444). -/
def fetchKey (s : State) (th : Thread) : Except NoLeaf Nat × State :=
  let pc := th.regs.pc.toNat
  match regionOf pc with
  | some .global =>
    match translateFor s th pc .fetch with
    | (.ok l, s1) =>
      (if !lineReachable s1 (dieOfCore th.core) (l.key pc) then .error (.link (l.key pc))
       else if s1.ecc.contains (l.key pc / 128) then .error (.fault ECC 0)
       else .ok (l.key pc), s1)
    | (.error e, s1) => (.error e, s1)
  | _ => (.error (.fault PROT 0), s)

/-- What a fetch gives. -/
inductive Fetched where
  | instr (i : Instr)
  | stop (e : Stop)
  deriving DecidableEq, Repr

/-- How a fetch that gives no bytes ends: kind 2, the address of the slot's first byte, U all zeros (R56, R415). -/
def fetchStop (s : State) (th : Thread) : NoLeaf → Stop
  | .moving pte => .wait (.moving pte)
  | .link key => .wait (.link key)
  | .fault code level =>
    let pc := th.regs.pc.toNat
    if code == PAGE then .park (memDetail 2 level) pc 0 s else .trap code (memDetail 2 level) pc 0

/-- Fetches and decodes the instruction at the thread's program counter (R81 steps 1 to 7). -/
def fetch (s : State) (th : Thread) : Fetched × State :=
  match fetchKey s th with
  | (.error e, s1) => (.stop (fetchStop s1 th e), s1)
  | (.ok key, s1) =>
    match decode (blockBytes s1 key) with
    | .ok (i, _) => (.instr i, s1)
    | .error _ => (.stop (.trap ILLEGAL 0 0 0), s1)

/-- The slot length and CH of the instruction at the thread's program counter, as LEN and CH of its base word give them (R54);
8 bytes where LEN is 3 or the word cannot be fetched. -/
def slotAt (s : State) (th : Thread) : Nat × Bool :=
  match fetchKey s th with
  | (.error _, _) => (8, false)
  | (.ok key, _) =>
    let bs := blockBytes s key
    if bs.length < 8 then (8, false)
    else
      let w := ofLeBytes (bs.take 8)
      match Len.ofCode (bits 0 2 w) with
      | some len => (len.slot, (unpackBase len w 0).ch)
      | none => (8, false)

/-- The thread past its instruction, or past the tail of the chain that begins there (22 R427 skip). -/
def skipPast (s : State) : Nat → Thread → Thread
  | 0, th => th
  | fuel + 1, th =>
    let (n, ch) := slotAt s th
    if ch then skipPast s fuel (th.next n) else th.next n

/-- FETCH_FAULT (R56) raised for the issuing thread at its program counter: the fault of the fetch that the world names. -/
def fetchFault (s : State) (cause : FetchCause) : State :=
  let th := s.cur
  let pc := th.regs.pc.toNat
  match cause with
  | .page level => takePark s th.id (memDetail 2 level) pc 0
  | .prot level => takeTrap s th.id PROT (memDetail 2 level) pc 0
  | .ecc => takeTrap s th.id ECC (memDetail 2 0) pc 0

end Sys2Proof.Machine
end

