-- ==== Sys2Proof/Machine/SaveArea.lean ====
section
/-! DEFINITION. The save area of a group in the reservation pool (21_page R401, 22_context R429, R440): the bytes of its scalar,
vector and moment registers and of its tiles, where the layout of R429 places them. -/

namespace Sys2Proof.Machine

/-- The bytes of a word list. -/
def wordBytes (ws : List Word) : List Byte := (ws.map fun w => leBytes 4 w.toNat).flatten

/-- The words of a byte list. -/
def bytesWords (n : Nat) (bs : List Byte) : List Word :=
  (List.range n).map fun i => BitVec.ofNat 32 (ofLeBytes ((bs.drop (4 * i)).take 4))

/-- The first byte of the save area of a group: its second reservation of the pool (R401, R429). -/
def saveBase (s : State) (id : ThreadId) : Option Nat :=
  match id with
  | .sys _ => none
  | .grp p kn g => (s.kernel? p kn).bind fun k => (k.pool.reverse[2 * g + 1]?).map fun x => 65536 * x.1

/-- Where the registers of each class begin in the area (R429). -/
def Thread.saveV (n : Nat) : Nat := 0x3000 + 384 * n
def Thread.saveM (th : Thread) (n : Nat) : Nat := Thread.saveV th.regs.v.length + 768 * n
def Thread.saveT (th : Thread) (n : Nat) : Nat := th.saveM th.regs.m.length + 16384 * n

/-- The words of a moment register: mean and variance of each lane (09 R182). -/
def MReg.words (m : MReg) : List Word := ((List.range 96).map fun i => [laneOf m.mean i, laneOf m.var i]).flatten

/-- The 4096 elements of a tile, row by row (17 R348; log 31). -/
def Tile.words (t : Tile) : List Word := (List.range 4096).map fun i => t.elems.getD i 0

/-- The registers and tiles of a thread as the area holds them: offset and bytes. -/
def Thread.image (th : Thread) : List (Nat × List Byte) :=
  [(0x100, wordBytes th.regs.s)] ++
  ((List.range th.regs.v.length).map fun n => (Thread.saveV n, wordBytes (th.regs.v.getD n {}).lanes)) ++
  ((List.range th.regs.m.length).map fun n => (th.saveM n, wordBytes (th.regs.m.getD n {}).words)) ++
  ((List.range th.nTiles).map fun n => (th.saveT n, wordBytes (tget {} n th.tiles).words))

/-- The thread with the registers and tiles that the area holds; `rd` reads n bytes at an offset. -/
def Thread.fromImage (th : Thread) (rd : Nat → Nat → List Byte) : Thread :=
  let m (n : Nat) : List Word := bytesWords 192 (rd (th.saveM n) 768)
  let part (n k : Nat) : List Word := (List.range 96).map fun i => (m n).getD (2 * i + k) 0
  { th with
    regs := { th.regs with
      s := bytesWords 64 (rd 0x100 256)
      v := (List.range th.regs.v.length).map fun n => { th.regs.v.getD n {} with lanes := bytesWords 96 (rd (Thread.saveV n) 384) }
      m := (List.range th.regs.m.length).map fun n => { th.regs.m.getD n {} with mean := part n 0, var := part n 1 } }
    tiles := (List.range th.nTiles).foldl (fun t n =>
      tset n { tget {} n t with elems := bytesWords 4096 (rd (th.saveT n) 16384) } t) th.tiles }

/-- The lines of a range of memory that have a directory entry, which a hypervisor's physical access made, are recalled. -/
def recallRange (s : State) (key n : Nat) : State :=
  ((List.range ((key + n - 1) / 128 + 1 - key / 128)).map (key / 128 + ·)).foldl (fun s ln =>
    if (s.home (homeOf s ln)).hasEntry ln then recallLine s ln else s) s

/-- Hardware writes bytes of a reservation, which holds no lines of its own (R401). -/
def poolWrite (s : State) (key : Nat) (bs : List Byte) : State :=
  let s1 := recallRange s key bs.length
  { s1 with mem := s1.mem.writeBytes key bs }

/-- The save area is written (R428 step 4). -/
def writeSaveArea (s : State) (th : Thread) : State :=
  match saveBase s th.id with
  | none => s
  | some b => th.image.foldl (fun s x => poolWrite s (b + x.1) x.2) s

/-- The save area is reloaded into the thread (R430 step 2). -/
def reloadSaveArea (s : State) (th : Thread) : State × Thread :=
  match saveBase s th.id with
  | none => (s, th)
  | some b =>
    let s1 := th.image.foldl (fun s x => recallRange s (b + x.1) x.2.length) s
    (s1, th.fromImage fun o n => s1.mem.readBytes (b + o) n)

/-- The bytes of a register of a staged atomic in the save area, as the thread holds it (R440). -/
def Thread.destImage (th : Thread) (e : Staged) : Option (Nat × List Byte) :=
  match e.dest with
  | .v n _ => some (Thread.saveV n + 4 * e.lane, leBytes 4 (laneOf (th.regs.readV n).lanes e.lane).toNat)
  | .s n _ => some (0x100 + 4 * n, leBytes 4 (th.regs.s.getD n 0).toNat)
  | .x n => some (0x100 + 4 * n, leBytes 4 (th.regs.s.getD n 0).toNat ++ leBytes 4 (th.regs.s.getD (n + 1) 0).toNat)
  | _ => none

/-- The registers with the old value that a staged atomic brings (20 R392). -/
def stagedRegs (ll : Mask) (e : Staged) (old : Nat) (r : Regs) : Regs :=
  match e.dest with
  | .v n tag =>
    let v := r.readV n
    { r with v := lset r.v n { tag, lanes := lset v.lanes e.lane (BitVec.ofNat 32 old) } }
  | .s n ty => r.writeS ll n (loadImage ty old)
  | .x n => r.writeX ll n (BitVec.ofNat 64 old)
  | _ => r

/-- A staged destination takes its value, and its register is free (20 R392, 04 R103); in a SAVED group its image in the save area
takes it (R440). -/
def stagedWrite (s : State) (id : ThreadId) (e : Staged) (old : Nat) : State :=
  match s.thread? id with
  | none => s
  | some th =>
    let th1 := (th.land (stagedRegs th.ll e old)).clearPend e.serial
    let s1 := s.setThread th1
    match th.run, saveBase s id, th1.destImage e with
    | .saved, some b, some (o, bs) => poolWrite s1 (b + o) bs
    | _, _, _ => s1

end Sys2Proof.Machine
end

