-- ==== Sys2Proof/Machine/Group.lean ====
section
/-! DEFINITION. The end of a group and the ticket unit: retirement (04_group R86, R118; 16 R322; 19 R368), Kill (R86, 17
R347, 20 R389, R391), and the deterministic staging of a launch (20_kernel R390..R394). -/

namespace Sys2Proof.Machine

/-! ### The ticket unit (20 R391) -/

/-- Every group of a kernel is RETIRED. -/
def allRetired (s : State) (p kn : Nat) : Bool :=
  s.threads.all fun th => match th.id with
    | .grp p' k' _ => !(p' == p && k' == kn) || th.run == .retired
    | .sys _ => true

/-- Block b holds CT up: it is not closed with all its entries performed (R391). -/
def blockOpen (k : Kernel) (b : Nat) : Bool := !(k.closed.contains b) || k.staged.any fun e => e.block == b

/-- Follows CT over closed blocks; `fuel` bounds the closed blocks. -/
def ctFrom : Nat → Kernel → Nat → Nat
  | 0, _, ct => ct
  | fuel + 1, k, ct => if blockOpen k ct || k.desc.nb ≤ ct then ct else ctFrom fuel k (ct + 1)

/-- The least begun block from `ct` on that holds CT up, else NB: blocks never begun are skipped (R391). -/
def ctLast (k : Kernel) (ct : Nat) : Nat :=
  (k.begun.filter fun b => ct ≤ b && blockOpen k b).foldl (fun m b => if b < m then b else m) k.desc.nb

/-- CT advances (R391); entries of the new block are performed next; the kernel may now end (R388). -/
def advanceCt (s : State) (p kn : Nat) : State :=
  match s.kernel? p kn with
  | none => s
  | some k =>
    if !k.desc.det then s
    else
      let ct := if allRetired s p kn then ctLast k k.ct else ctFrom (k.closed.length + 1) k k.ct
      let s1 := s.setKernel p kn { k with ct }
      if k.staged.any fun e => e.block == ct then s1.push (.ticketPerform p kn) else s1

/-- The kernel ends once every group is RETIRED and no entry is left (R388). -/
def endCheck (s : State) (p kn : Nat) : State :=
  match s.kernel? p kn with
  | none => s
  | some k => if allRetired s p kn && k.staged.isEmpty && k.depart.isNone then s.push (.kernelEnd p kn) else s

/-- Takes an entry out of the staging buffer. -/
def dropStaged (s : State) (p kn serial : Nat) : State :=
  match s.kernel? p kn with
  | some k => s.setKernel p kn { k with staged := k.staged.filter fun e => e.serial != serial }
  | none => s

/-- LANES of a staged-entry fault (22 R426). -/
def stagedLanes (e : Staged) : Nat := e.block % 2 ^ 24 + e.pos % 256 * 2 ^ 24 + 2 ^ 95

/-- The cart of an entry whose translation fails; CT is held until the handler answers (R392). -/
def holdStaged (s : State) (p kn : Nat) (e : Staged) (code level : Nat) : State :=
  let id : ThreadId := .grp p kn e.gid
  let s1 := match s.kernel? p kn with
    | some k => s.setKernel p kn { k with staged := k.staged.map fun x => if x.serial == e.serial then { x with held := true } else x }
    | none => s
  raiseCart s1 id (.staged e.serial) e.head code (memDetail 1 level) e.iaddr.toNat e.ea.toNat (stagedLanes e)

/-- A staged entry as an access of one lane. -/
def stagedAccess (id : ThreadId) (core key : Nat) (e : Staged) : Access :=
  { id := e.serial, th := id, core, kind := e.kind, width := e.width, ty := e.ty, order := e.order, scope := e.scope,
    lanes := [{ lane := e.lane, ea := e.ea, key, data := e.data, expect := e.expect }] }

/-- An access of the group in flight, earlier in its program order, holds the entry back (11 R265, R266, 14 R298, R300). -/
def entryWaits (s : State) (id : ThreadId) (a : Access) : Bool :=
  s.accs.any fun x => x.th == id && x.id < a.id && !mayPass x a

/-- Performs an entry at home under wt, whatever policy the instruction named (R392, 10 R217, R218), and starts what it held back.
The stamp's clock is hardware's. -/
def performStaged (s : State) (p kn : Nat) (e : Staged) (key : Nat) : State :=
  let id : ThreadId := .grp p kn e.gid
  let core := ((s.thread? id).map (·.core)).getD 0
  let a := stagedAccess id core key e
  let l : LaneAcc := { lane := e.lane, ea := e.ea, key, data := e.data, expect := e.expect }
  let s1 := dropLease s core (key / 128)
  let w0 := (entryOf (settle s1 (key / 128)) (key / 128)).wts
  let sh := match ownerOf (settle s1 (key / 128)) (key / 128) with
    | some o => addShare s1 o core e.width
    | none => s1
  let (s2, old, _) := opHome sh key e.width none (some id) (opOf a l)
  let s3 := match e.kind with
    | .atomic _ => stagedWrite s2 id e old
    | .futFill => answerDeferred s2 key e.data
    | _ => s2
  let s4 := if !acquires e.order then s3
    else if e.scope == 0 && !(s3.part p).promoted then raiseClock s3 core w0
    else discardLeases (raiseClock s3 core w0) core []
  pump (dropStaged s4 p kn e.serial) id

/-- TICKET_PERFORM (R391): the oldest entry of block CT, unless a fault holds it, or its group's earlier accesses; a page on the move
and a link that is not UP are waited for. -/
def ticketStep (s : State) (p kn : Nat) : State :=
  match s.kernel? p kn with
  | none => s
  | some k =>
    match k.staged.find? fun e => e.block == k.ct with
    | none => endCheck (advanceCt s p kn) p kn
    | some e =>
      if e.held then s
      else
        let perm : Perm := match e.kind with
          | .store => .store
          | .futFill => .store
          | _ => .rmw
        match regionOf e.ea.toNat with
        | some .global =>
          match walk s p k.ctx e.ea.toNat with
          | .error (.moving _) => s
          | .error (.link _) => s
          | .error (.fault code level) => holdStaged s p kn e code level
          | .ok l =>
            if l.state == 1 then s
            else if !l.allows perm then holdStaged s p kn e PROT l.level
            else if protectedByte s (l.key e.ea.toNat) then holdStaged s p kn e PROT 0
            else if !hwReady s (l.key e.ea.toNat) || entryWaits s (.grp p kn e.gid) (stagedAccess (.grp p kn e.gid) 0 (l.key e.ea.toNat) e)
            then s
            else
              let s1 := performStaged s p kn e (l.key e.ea.toNat)
              endCheck (advanceCt s1 p kn) p kn
        | _ => holdStaged s p kn e PROT 0

/-- TICKET_PERFORM (R391). -/
def execTicketPerform (part kern : Nat) (s : State) : Host.Outcome State Fault Refusal := .next (ticketStep s part kern)

/-! ### Retirement and Kill -/

/-- Cancels every engine operation of a thread (17 R346, R347). -/
def cancelEngines (s : State) (th : Thread) : State :=
  let k := s.core th.core
  let keep (l : List EngOpRec) : List EngOpRec := l.filter fun o => o.th != th.id
  s.setCore th.core { k with copyQ := keep k.copyQ, matrixQ := keep k.matrixQ }

/-- A waiting pop is withdrawn (19 R372). -/
def withdrawPops (s : State) (id : ThreadId) : State :=
  { s with queues := s.queues.map fun q => { q with waiters := q.waiters.filter fun w => w.1 != id } }

/-- The entries of a group go unperformed, from serial `since` on, and their destinations receive 0 (20 R391, 22 R427). -/
def discardStaged (s : State) (p kn gid since : Nat) : State :=
  match s.kernel? p kn with
  | none => s
  | some k =>
    let gone (e : Staged) : Bool := e.gid == gid && since ≤ e.serial
    let s1 := s.setKernel p kn { k with staged := k.staged.filter fun e => !gone e }
    (k.staged.filter gone).foldl (fun s e => stagedWrite s (.grp p kn gid) e 0) s1

/-- The group's open block closes (20 R391). -/
def closeBlock (s : State) (th : Thread) : State :=
  match th.id, th.block with
  | .grp p kn _, some b =>
    match s.kernel? p kn with
    | some k => (s.setKernel p kn { k with closed := k.closed ++ [b] }).onThread th.id fun x => { x with block := none }
    | none => s
  | _, _ => s

/-- The teams of a group, and the notice of its retirement to each (16 R316, R322). -/
def noticeRetirement (s : State) (id : ThreadId) : State :=
  match id with
  | .sys _ => s
  | .grp p kn g =>
    match s.kernel? p kn with
    | none => s
    | some k => s.pushAll ((k.teams.filter fun t => t.members.contains g).map fun t => .barrierRetirement id t.num)

/-- The object is an entry in the staging buffer. -/
def TrapObject.isStaged : TrapObject → Bool
  | .staged _ => true
  | _ => false

/-- The thread becomes RETIRED: its stack goes, and its traps are no longer outstanding, but for those of its staged entries
(R86, R118, 22 R427, 20 R392; log 21). A cart that TRAPQ refused is tried again all the same (22 R425). -/
def becomeRetired (s : State) (id : ThreadId) : State :=
  s.onThread id fun th => { th with run := .retired, stack := [], traps := th.traps.filter fun r => r.object.isStaged,
                                    preempt := false, moveTo := none, resv := none,
                                    chain := none, replay := none, detstall := false, carriage := { serial := 0 }, sealed := [], cancelled := [] }

/-- What follows a retirement: barriers, CT and the kernel's end. -/
def afterRetirement (s : State) (id : ThreadId) : State :=
  match id with
  | .grp p kn _ => endCheck (advanceCt (noticeRetirement s id) p kn) p kn
  | .sys _ => s

/-- DRAINED (R118): the drain is complete. The stream is released as `qdone` would (19 R368). -/
def drained (s : State) (id : ThreadId) : State :=
  afterRetirement (becomeRetired (releaseStream s id) id) id

/-- The requests of a group that wait at links are discarded (24 R444), the services that they held end, and its other accesses go
on. -/
def discardWaiting (s : State) (id : ThreadId) : State :=
  let gone (a : Access) : Bool := a.th == id && a.todo.any fun l => !(localKind a.space) && !lineReachable s (dieOfCore a.core) l.key
  let s1 : State := { s with accs := s.accs.filter fun a => !gone a }
  pump ((s.accs.filter gone).foldl (fun s a => endServiceOf s a.id) s1) id

/-- The stream of a killed group is released with no release ordering (19 R368). -/
def killGroup (s : State) (id : ThreadId) : State :=
  match s.thread? id with
  | none => s
  | some th =>
    if th.run == .retired then s
    else
      let s1 := discardWaiting (withdrawFutures (withdrawPops (cancelEngines s th) id) id) id
      let s2 := releaseStream (closeBlock s1 th) id
      let s3 := match id with
        | .grp p kn g => discardStaged s2 p kn g 0
        | .sys _ => s2
      afterRetirement ((becomeRetired s3 id).onThread id fun x => { x with traps := [] }) id

/-- The drain of `done` is complete (R118). -/
def drainDone (th : Thread) : Bool :=
  th.lc == 0 && th.sc == 0 && th.sealed.isEmpty && th.carriage.finished == th.carriage.nops

/-- DRAINED (R118). -/
def execDrained (th : ThreadId) (s : State) : Host.Outcome State Fault Refusal :=
  .next (match s.thread? th with
    | some x => if x.run == .waiting .drain && drainDone x then drained s th else s
    | none => s)

/-! ### Blocks (20 R398, R394) -/

/-- `dtbeg` (R398): reason 2 before reason 3 (log 17). -/
def execDtbeg (f : Fields) (s : State) : Host.Outcome State Fault Refusal :=
  control (.dtbeg f) f (fun s th =>
    match th.id with
    | .sys _ => trap ILLEGAL
    | .grp p kn gid =>
      match s.kernel? p kn with
      | none => .ok (finish s th s.cur f .none)
      | some k =>
        let b := (th.regs.srcS f.a).toNat
        if !k.desc.det then .ok (finish s th s.cur f .none)
        else if k.desc.nb ≤ b || k.begun.contains b then .error (.trap DETSTALL 2 0 0)
        else if th.block.isSome then .error (.trap DETSTALL 3 0 0)
        else
          let s1 := s.setKernel p kn { k with begun := k.begun ++ [b], owners := k.owners ++ [(b, gid)] }
          .ok (finish s1 { th with block := some b, blockPos := 0 } s.cur f .none)) s

/-- `dtend` (R398). -/
def execDtend (f : Fields) (s : State) : Host.Outcome State Fault Refusal :=
  control (.dtend f) f (fun s th =>
    match th.id with
    | .sys _ => trap ILLEGAL
    | .grp p kn _ =>
      match s.kernel? p kn with
      | none => .ok (finish s th s.cur f .none)
      | some k =>
        if !k.desc.det then .ok (finish s th s.cur f .none)
        else match th.block with
          | none => .error (.trap DETSTALL 4 0 0)
          | some b =>
            let s1 := finish s { th with block := none } s.cur f .none
            .ok (advanceCt (s1.setKernel p kn { k with closed := k.closed ++ [b] }) p kn)) s

/-- DETSTALL_TIMEOUT (R394): raised to the group that holds block CT, at its next issue; where none does, to the stalled
group. The stall's count starts again. -/
def detstall (s : State) (id : ThreadId) : State :=
  match id, s.thread? id with
  | .grp p kn g, some th =>
    match th.run, s.kernel? p kn with
    | .waiting c, some k =>
      let again : Option Cond := match c with
        | .staging _ n => some (.staging s.t n)
        | .stagedValue a b _ => some (.stagedValue a b s.t)
        | _ => none
      match again with
      | none => s
      | some c1 =>
        let s1 := s.setThread { th with run := .waiting c1 }
        match (k.owners.find? fun o => o.1 == k.ct && !k.closed.contains k.ct).map (·.2) with
        | some h => if h == g then takeTrap s1 id DETSTALL 1 0 0
                    else s1.onThread (.grp p kn h) fun x => { x with detstall := true }
        | none => takeTrap s1 id DETSTALL 1 0 0
    | _, _ => s
  | _, _ => s

/-- DETSTALL_TIMEOUT (R394). -/
def execDetstallTimeout (th : ThreadId) (s : State) : Host.Outcome State Fault Refusal := .next (detstall s th)

end Sys2Proof.Machine
end

