-- ==== Sys2Proof/Machine/Kernel.lean ====
section
/-! DEFINITION. Kernels (20_kernel R378..R389, R396, R397): the launch and its checks, placement, the groups it forms,
departures, completion and teardown. -/

namespace Sys2Proof.Machine

/-! ### What the launch unit reads -/

/-- Reads n bytes in a context. -/
def hwBytes (s : State) (p ctx va : Nat) : Nat → Except Nat (List Byte)
  | 0 => .ok []
  | n + 1 =>
    match hwRead s p ctx {} va 1 with
    | .error c => .error c
    | .ok x =>
      match hwBytes s p ctx (va + 1) n with
      | .error c => .error c
      | .ok bs => .ok (BitVec.ofNat 8 x :: bs)

/-- The n-byte number at offset o of the bytes read. -/
def fieldAt (bs : List Byte) (o n : Nat) : Nat := ofLeBytes ((bs.drop o).take n)

/-- The fields of a launch descriptor (R379). -/
def descOf (bs : List Byte) : Desc :=
  let d (o : Nat) : DWord := BitVec.ofNat 64 (fieldAt bs o 8)
  let flags := fieldAt bs 87 1
  { code := d 0, param := d 8, teamt := d 16, staget := d 24, ownt := d 32, shrl := d 40, done := d 48, doneq := d 56,
    ng := fieldAt bs 64 4, lanes := fieldAt bs 68 1, v8 := fieldAt bs 69 1, m := fieldAt bs 70 1, t := fieldAt bs 71 1,
    scr := fieldAt bs 72 4, ws := fieldAt bs 76 4, chip := fieldAt bs 80 4, start := fieldAt bs 84 2,
    psz := fieldAt bs 86 1, det := bitSet flags 0, pack := bitSet flags 1, stage := flags / 16, nb := fieldAt bs 88 4,
    shrn := fieldAt bs 92 2, cores := fieldAt bs 96 48, ownlo := d 144, ownlog := fieldAt bs 152 1 }

/-- Every field of the descriptor lies in its range and its reserved fields are 0 (R379, R380). -/
def descOk (bs : List Byte) (d : Desc) (x : Partition) : Bool :=
  d.code.toNat % 256 == 0 && d.done.toNat % 16 == 0 && 1 ≤ d.ng && d.ng ≤ 12288 && 1 ≤ d.lanes && d.lanes ≤ 96 &&
  d.v8 ≤ 31 && d.m ≤ 32 && d.t ≤ 8 && d.scr % 256 == 0 && d.ws % 4096 == 0 && d.ws ≤ 2 ^ 21 && d.chip % 4096 == 0 &&
  d.psz ≤ 60 && fieldAt bs 87 1 / 4 % 4 == 0 && fieldAt bs 94 2 == 0 && fieldAt bs 153 7 == 0 &&
  (List.range 384).all (fun c => !bitSet d.cores c || bitSet x.cores c) &&
  (!d.det || (d.ownt.toNat % 4096 == 0 && d.shrl.toNat % 16 == 0 && 1 ≤ d.nb && d.nb ≤ 2 ^ 24 && 17 ≤ d.ownlog &&
    d.ownlog ≤ 40 && d.ownlo.toNat % 2 ^ d.ownlog == 0))

/-- The code with which a launch is refused for what could not be read, or WAITS (21 R413, 24 R444). -/
def orWait (code c : Nat) : Nat := if c == WAITS then WAITS else code

/-- SIZE and the start entry's offset, where the code header passes R378: every entry of its table is in range. -/
def readHeader (s : State) (p ctx : Nat) (d : Desc) : Except Nat (Nat × Nat) :=
  match hwBytes s p ctx d.code.toNat 16 with
  | .error c => .error (orWait stBadDesc c)
  | .ok h =>
    let ne := fieldAt h 6 2
    let size := fieldAt h 8 8
    if fieldAt h 0 4 != 0x4B5A4334 || fieldAt h 4 2 != 1 || ne < 1 || 4096 < ne || size % 8 != 0 || ne ≤ d.start then .error stBadDesc
    else match hwBytes s p ctx (d.code.toNat + 16) (8 * ne) with
      | .error c => .error (orWait stBadDesc c)
      | .ok es =>
        let entry (e : Nat) : Nat := fieldAt es (8 * e) 8
        if (List.range ne).all fun e => entry e % 8 == 0 && entry e < size then .ok (size, entry d.start) else .error stBadDesc

/-- The shared ranges (base, length), where they pass R380. -/
def readRanges (s : State) (p ctx : Nat) (d : Desc) : Except Nat (List (Nat × Nat)) :=
  if !d.det then .ok []
  else match hwBytes s p ctx d.shrl.toNat (16 * d.shrn) with
    | .error c => .error (orWait stBadDesc c)
    | .ok bs =>
      let rs := (List.range d.shrn).map fun k => (fieldAt bs (16 * k) 8, fieldAt bs (16 * k + 8) 8)
      let lo := d.ownlo.toNat
      if rs.all fun r => r.1 % 128 == 0 && r.2 % 128 == 0 && lo ≤ r.1 && r.1 + r.2 ≤ lo + 2 ^ d.ownlog then .ok rs else .error stBadDesc

/-- The parameter words (R382). -/
def readParams (s : State) (p ctx : Nat) (d : Desc) : Except Nat (List Word) :=
  if d.psz == 0 then .ok []
  else match hwBytes s p ctx d.param.toNat (4 * d.psz) with
    | .error c => .error (orWait stBadDesc c)
    | .ok bs => .ok ((List.range d.psz).map fun k => BitVec.ofNat 32 (fieldAt bs (4 * k) 4))

/-- The numbers rise strictly. -/
def ascending : List Nat → Bool
  | x :: y :: zs => decide (x < y) && ascending (y :: zs)
  | _ => true

/-- One entry of the team table; an absent team has no members (R312, R313). -/
def readTeam (s : State) (p ctx : Nat) (d : Desc) (t e : Nat) : Except Nat Team :=
  let count := e / 2 ^ 32 % 2 ^ 16
  let list := e % 2 ^ 32
  if e / 2 ^ 48 != 0 || list % 2 != 0 then .error stBadTeam
  else if count == 0 then .ok { num := t, members := [] }
  else match hwBytes s p ctx (d.teamt.toNat + list) (2 * count) with
    | .error c => .error (orWait stBadTeam c)
    | .ok bs =>
      let ms := (List.range count).map fun k => fieldAt bs (2 * k) 2
      if ascending ms && ms.all (· < d.ng) then .ok { num := t, members := ms } else .error stBadTeam

/-- The present teams, where the table passes R313. -/
def readTeams (s : State) (p ctx : Nat) (d : Desc) : Except Nat (List Team) :=
  if d.teamt == 0 then .ok []
  else match hwBytes s p ctx d.teamt.toNat 2048 with
    | .error c => .error (orWait stBadTeam c)
    | .ok bs =>
      match (List.range 256).mapM fun t => readTeam s p ctx d t (fieldAt bs (8 * t) 8) with
      | .error c => .error c
      | .ok ts =>
        let present := ts.filter fun t => !t.members.isEmpty
        if (List.range d.ng).all fun g => (present.filter fun t => t.members.contains g).length ≤ 4 then .ok present else .error stBadTeam

/-- The stage table (19 R365). -/
def readStages (s : State) (p ctx : Nat) (d : Desc) : Except Nat (List Stage) :=
  if d.staget == 0 then .ok []
  else match hwBytes s p ctx d.staget.toNat 256 with
    | .error c => .error (orWait stBadDesc c)
    | .ok bs => .ok ((List.range 16).map fun k => {
        handle := BitVec.ofNat 64 (fieldAt bs (16 * k) 8), high := BitVec.ofNat 32 (fieldAt bs (16 * k + 8) 4),
        low := BitVec.ofNat 32 (fieldAt bs (16 * k + 12) 4) })

/-! ### Placement (R381) -/

/-- The cores of the set, ascending. -/
def coreSet (x : Partition) (d : Desc) : List Nat := bitMembers (if d.cores == 0 then x.cores else d.cores) 384

/-- The core of a group (R381). -/
def coreOf (cs : List Nat) (d : Desc) (g : Nat) : Nat :=
  let n := if cs.length == 0 then 1 else cs.length
  if d.pack then cs.getD (g / ((d.ng + n - 1) / n)) 0 else cs.getD (g % n) 0

/-- Bank groups of a role under BANKROLE (17 R329). -/
def bankGroups (role : DWord) (code : Nat) : List Nat := (List.range 32).filter fun g => role.toNat / 4 ^ g % 4 == code

/-- Bytes of a register window (04 R90). -/
def windowBytes (v m : Nat) : Nat := (1536 + 384 * v + 768 * m + 2047) / 2048 * 2048

/-- The groups whose windows a core holds. -/
def residents (s : State) (core : Nat) : List Thread :=
  s.threads.filter fun th => th.core == core && th.run != .saved

/-- What a core's stores hold: groups, REG, SCR and TOB bytes, with the kernels' reserves (17 R330, R381). -/
structure Usage where
  groups : Nat := 0
  reg : Nat := 0
  scr : Nat := 0
  tob : Nat := 0
  deriving DecidableEq, Repr

/-- The cluster-shared reserve of all kernels on a core (17 R330). -/
def reserveOn (s : State) (p core : Nat) : Nat :=
  (s.part p).kernels.foldl (fun n e =>
    if (coreSet (s.part p) e.2.desc).contains core || e.2.extra.contains core then n + e.2.desc.ws / 2 else n) 0

def usageOf (s : State) (p core : Nat) : Usage :=
  (residents s core).foldl (fun u th =>
    { groups := u.groups + 1, reg := u.reg + windowBytes th.regs.v.length th.regs.m.length, scr := u.scr + th.scrSize,
      tob := u.tob + 16384 * th.nTiles }) { scr := reserveOn s p core }

/-- The limits of R381 on one core hold (R90, 17 R330). -/
def Usage.fits (u : Usage) (role : DWord) : Bool :=
  u.groups ≤ 32 && u.reg ≤ 32768 * (bankGroups role 0).length && u.scr ≤ 32768 * (bankGroups role 1).length &&
  u.tob ≤ 32768 * (bankGroups role 2).length

/-- The new groups fit on a core beside what it holds. -/
def coreFits (s : State) (p : Nat) (d : Desc) (core groups : Nat) : Bool :=
  let u := usageOf s p core
  { groups := u.groups + groups, reg := u.reg + groups * windowBytes (8 * d.v8) d.m, scr := u.scr + groups * d.scr + d.ws / 2,
    tob := u.tob + groups * (16384 * d.t) : Usage }.fits (s.part p).reg.bankrole

/-- The chip scratchpad ranges (base, length) in use on a die. -/
def chipUsed (s : State) (die : Nat) : List (Nat × Nat) :=
  (s.parts.map fun e => (e.2.kernels.filterMap fun k => (tget? die k.2.chipBase).map fun b => (b, k.2.desc.chip))).flatten

/-- The lowest base at which n bytes fit among the ranges, below a limit (log 18). -/
def firstFit (used : List (Nat × Nat)) (n limit : Nat) : Option Nat :=
  let clear (b : Nat) : Bool := b + n ≤ limit && used.all fun r => b + n ≤ r.1 || r.1 + r.2 ≤ b
  (0 :: used.map fun r => r.1 + r.2).foldl (fun (best : Option Nat) b =>
    if clear b then match best with
      | none => some b
      | some c => some (if b < c then b else c)
    else best) none

/-- A base on every die that holds a placed core (R379, R381); `none` where one does not fit. -/
def placeChip (s : State) (chip : Nat) (dies : List Nat) : Option (Table Nat) :=
  dies.foldl (fun (t : Option (Table Nat)) d => match t, firstFit (chipUsed s d) chip (2 ^ 25) with
    | some t, some b => some (tset d b t)
    | _, _ => none) (some [])

/-- Pool units (64 KiB) in use by the partition's kernels: first unit, count (21 R401). -/
def poolUsed (s : State) (p : Nat) : List (Nat × Nat) := ((s.part p).kernels.map fun e => e.2.pool).flatten

/-- The lowest run of n free units within one pool page of a die, pages in ascending order (21 R401). -/
def poolRun (x : Partition) (used : List (Nat × Nat)) (die n : Nat) : Option Nat :=
  ((List.range 128).map fun i => 128 * die + i).findSome? fun page =>
    if !bitSet x.rsvpool page then none
    else
      let base := 16384 * page
      let here := (used.filter fun r => base ≤ r.1 && r.1 < base + 16384).map fun r => (r.1 - base, r.2)
      (firstFit here n 16384).map (base + ·)

/-- Bytes of a save area (22 R429). -/
def saveUnits (d : Desc) : Nat := (0x3000 + 384 * (8 * d.v8) + 768 * d.m + 16384 * d.t + 65535) / 65536

/-- Reserves, for each group, its lane slices and its save area on the die of its first core (21 R401, 22 R429). -/
def reservePool (x : Partition) (units : Nat) : List Nat → List (Nat × Nat) → List (Nat × Nat) → Option (List (Nat × Nat))
  | [], _, mine => some mine
  | core :: cores, used, mine =>
    let die := dieOfCore core
    match poolRun x used die 2 with
    | none => none
    | some a =>
      match poolRun x ((a, 2) :: used) die units with
      | none => none
      | some b => reservePool x units cores ((b, units) :: (a, 2) :: used) ((b, units) :: (a, 2) :: mine)

/-! ### Forming a kernel (R382) -/

/-- TEAMS (16 R314). -/
def teamsReg (ts : List Nat) : Word :=
  match ts.getLast? with
  | none => 0
  | some top => BitVec.ofNat 32 ((List.range 4).foldl (fun n i => n + ts.getD i top * 2 ^ (8 * i)) 0)

/-- The launched-lane triple of n lanes (04 R96). -/
def launchedLanes (n : Nat) : Mask := BitVec.ofNat 96 (2 ^ n - 1)

/-- A group as Allocated and the launch leave it (04 R91, R382). -/
def formGroup (s : State) (p kn : Nat) (k : Kernel) (g : Nat) (run : RunState) : Thread :=
  let d := k.desc
  let ll := launchedLanes d.lanes
  let teams := (k.teams.filter fun t => t.members.contains g).map (·.num)
  let words := (k.params ++ List.replicate (60 - k.params.length) 0) ++
    [ll.extractLsb' 0 32, ll.extractLsb' 32 32, ll.extractLsb' 64 32, 0]
  let core := k.cores.getD g 0
  { id := .grp p kn g, core, ctx := k.ctx,
    regs := { pc := k.entry, s := words, v := List.replicate (8 * d.v8) {}, m := List.replicate d.m {},
              sr := { stage := BitVec.ofNat 4 d.stage, teams := teamsReg teams } },
    ll, nTiles := d.t, scrSize := d.scr, run, pendingStage := BitVec.ofNat 4 d.stage, residentSince := s.t, lastCore := core }

/-- The bytes of one line of the ownership table: bit n is 1 where line n of the span lies in a shared range (R390). -/
def ownLine (d : Desc) (ranges : List (Nat × Nat)) (j : Nat) : List Byte :=
  (List.range 128).map fun b => BitVec.ofNat 8 ((List.range 8).foldl (fun x i =>
    let va := d.ownlo.toNat + 128 * (1024 * j + 8 * b + i)
    if ranges.any fun r => r.1 ≤ va && va < r.1 + r.2 then x + 2 ^ i else x) 0)

/-- Writes the ownership table, line by line (R390). -/
def writeOwnership (p ctx : Nat) (d : Desc) (ranges : List (Nat × Nat)) : List Nat → State → Except Nat State
  | [], s => .ok s
  | j :: js, s =>
    match hwKey s p ctx {} (d.ownt.toNat + 128 * j) .store with
    | .error c => .error c
    | .ok key => writeOwnership p ctx d ranges js (writeHome s key (ownLine d ranges j) none).1

/-- Draws the placement codes of the teams (13 R286). -/
def drawTeams : List Team → State → List Team × State
  | [], s => ([], s)
  | t :: ts, s =>
    let (c, s1) := s.drawCode t.code
    let (rest, s2) := drawTeams ts s1
    ({ t with code := c } :: rest, s2)

/-- The lowest free kernel number (R383). -/
def freeKernel (x : Partition) : Option Nat := (List.range 64).find? fun n => (tget? n x.kernels).isNone

/-- What the launch unit reads of a launch's code header, shared ranges, parameters and stages. -/
structure Read where
  size : Nat
  off : Nat
  ranges : List (Nat × Nat)
  params : List Word
  stages : List Stage
  deriving DecidableEq, Repr

/-- Reads all of them (R378, R380, R382, 19 R365). -/
def readAll (s : State) (p ctx : Nat) (d : Desc) : Except Nat Read :=
  match readHeader s p ctx d, readRanges s p ctx d, readParams s p ctx d, readStages s p ctx d with
  | .error c, _, _, _ => .error c
  | _, .error c, _, _ => .error c
  | _, _, .error c, _ => .error c
  | _, _, _, .error c => .error c
  | .ok (size, off), .ok ranges, .ok params, .ok stages => .ok { size, off, ranges, params, stages }

/-- The launch of R380 to R383: a STATUS code that refuses it, WAITS, or the kernel number and the state with the kernel
formed. The start of its groups is an acquire side on each placed core (14 R299, R303). -/
def launch (s : State) (p : Nat) (r : Launch) : Except Nat (Nat × State) :=
  let x := s.part p
  match hwBytes s p r.ctx r.desc.toNat 160 with
  | .error c => .error (orWait stBadDesc c)
  | .ok bs =>
    let d := descOf bs
    if r.desc.toNat % 32 != 0 || !descOk bs d x then .error stBadDesc
    else match readAll s p r.ctx d with
      | .error c => .error c
      | .ok rd =>
        match readTeams s p r.ctx d with
        | .error c => .error c
        | .ok teams =>
          let late := match r.time with
            | some t => !((x.gt.now s).ult t)
            | none => false
          if late then .error stLate
          else match freeKernel x with
            | none => .error stFull
            | some kn =>
              let cs := coreSet x d
              let cores := (List.range d.ng).map (coreOf cs d)
              let placed := cores.eraseDups
              let fits := !cs.isEmpty && cs.all fun c => coreFits s p d c (cores.filter (· == c)).length
              match placeChip s d.chip (placed.map dieOfCore).eraseDups,
                reservePool x (saveUnits d) cores (poolUsed s p) [] with
              | some chipBase, some pool =>
                if !fits then .error stNoFit
                else
                  let lines := if d.det then List.range (2 ^ (d.ownlog - 17)) else []
                  match writeOwnership p r.ctx d rd.ranges lines s with
                  | .error c => .error (orWait stBadDesc c)
                  | .ok s1 =>
                    let (teams1, s2) := drawTeams teams s1
                    let k : Kernel := {
                      desc := d, ctx := r.ctx, size := rd.size, entry := d.code + BitVec.ofNat 64 rd.off, params := rd.params, cores,
                      chipBase, pool, teams := teams1, stages := rd.stages, depart := r.time, awaiting := r.time.isSome }
                    let run : RunState := if r.time.isSome then .forming else .ready
                    let s3 := s2.setKernel p kn k
                    let s4 := placed.foldl (fun s c =>
                      let s' := s.setQueue (freshQueue (.data p kn c) p)
                      if r.time.isSome then s' else discardLeases s' c []) s3
                    .ok (kn, { s4 with others := s4.others ++ (List.range d.ng).map fun g => formGroup s4 p kn k g run })
              | _, _ => .error stNoFit

/-- The thread waits for a launch, SAVED or not: its destination. -/
def Thread.awaitsLaunch (th : Thread) : Option (Option Nat) :=
  match (if th.run == .saved then th.left else th.run) with
  | .waiting (.launch d) => some d
  | _ => none

/-- The result of a launch reaches the thread that asked: s[D], where it has one, and STATUS (R397); s[D] of a SAVED group lies in
its save area (22 R429). -/
def launchAnswered (s : State) (th : Thread) (d : Option Nat) (code : Nat) (kn : Option Nat) : State :=
  let th1 := th.answer 8
  let r := th1.regs.setStatus code
  let x : Word := match kn with
    | some k => BitVec.ofNat 32 k
    | none => 0xFFFFFFFF
  let th2 := { th1 with regs := match d with
    | some n => r.writeS th.ll n x
    | none => r }
  let s1 := s.setThread th2
  match th.run, saveBase s th.id, d with
  | .saved, some b, some n => poolWrite s1 (b + 0x100 + 4 * n) (leBytes 4 (th2.regs.s.getD n 0).toNat)
  | _, _, _ => s1

/-- The answer of a launch to the one who asked (R384, R397). -/
def answerLaunch (s : State) (p : Nat) (by_ : LaunchBy) (code : Nat) (kn : Option Nat) : State :=
  match by_ with
  | .kldb =>
    let x := s.part p
    s.setPart p { x with reg := { x.reg with klRes := BitVec.ofNat 8 code, klValid := true,
                                             klKn := BitVec.ofNat 6 (kn.getD x.reg.klKn.toNat) } }
  | .thread id _ =>
    match s.thread? id with
    | none => s
    | some th => match th.awaitsLaunch with
      | some d => launchAnswered s th d code kn
      | none => s

/-! ### Completion (R387, R388) -/

/-- A DEPART cart (R387); a refused push is lost. -/
def departCart (s : State) (p kn : Nat) (k : Kernel) (what : DWord) (status : Nat) : State :=
  let now := (s.part p).gt.now s
  let x := 3 + kn * 2 ^ 32 + what.toNat * 2 ^ 64 + now.toNat * 2 ^ 128 + status * 2 ^ 192
  if k.desc.doneq == 0 then s else (pushHandle s p k.desc.doneq (cartWords x)).2

/-- The completion record, in the kernel's context under wt; where a write faults, the DEPART cart (R388). -/
def completionRecord (s : State) (p kn : Nat) (k : Kernel) (status : Nat) : State :=
  if k.desc.done == 0 then s
  else
    let va := k.desc.done.toNat
    let now := ((s.part p).gt.now s).toNat
    match hwKey s p k.ctx {} (va + 8) .store with
    | .error code => departCart s p kn k k.desc.done code
    | .ok _ =>
      match hwWrite s p k.ctx {} va 8 now with
      | .error code => departCart s p kn k k.desc.done code
      | .ok s1 =>
        match hwWrite s1 p k.ctx {} (va + 8) 8 (status + kn * 2 ^ 8 + 0x80 * 2 ^ 56) with
        | .error code => departCart s1 p kn k k.desc.done code
        | .ok s2 => s2

/-- The completion record's page is on the move, or behind a link that is not UP: its write waits (21 R413, 24 R444). -/
def recordWaits (s : State) (p : Nat) (k : Kernel) : Bool :=
  k.desc.done != 0 && match hwKey s p k.ctx {} k.desc.done.toNat .store with
    | .error c => c == WAITS
    | .ok _ => false

/-- The thread is of a kernel. -/
def ofKernel (p kn : Nat) (id : ThreadId) : Bool :=
  match id with
  | .grp p' k' _ => p' == p && k' == kn
  | .sys _ => false

/-- Frees everything a kernel holds: its threads with their windows, tiles, scratchpads, frozen entries and barriers, its
data queues, its chip scratchpad and reservations, its number (R388). The trap carts that TRAPQ has refused stay with the partition
(22 R425). -/
def freeKernelState (s : State) (p kn : Nat) : State :=
  let others := s.others.filter fun th => !ofKernel p kn th.id
  let late := ((s.threads.filter fun th => ofKernel p kn th.id).map fun th => th.carts.map fun c => (th.ctx, c.1, c.2)).flatten
  let s1 := if ofKernel p kn s.cur.id then
      match others with
      | th :: rest => { s with cur := th, others := rest }
      | [] => { s with others }
    else { s with others }
  let s2 := { s1 with queues := s1.queues.filter fun q => match q.id with
    | .data p' k' _ => !(p' == p && k' == kn)
    | .table _ => true }
  let x := s2.part p
  s2.setPart p { x with kernels := tdel kn x.kernels, lateCarts := x.lateCarts ++ late }

/-- DEPARTURE_CHECK (R386). -/
def departureCheck (s : State) (p kn : Nat) : State :=
  match s.kernel? p kn with
  | none => s
  | some k =>
    match k.depart, k.awaiting with
    | some t, true =>
      if k.cores.eraseDups.any fun c => !(s.core c).gt.sync then
        if recordWaits s p k then s
        else departCart (completionRecord (freeKernelState s p kn) p kn k stTimeUnsync) p kn k t stTimeUnsync
      else s.setKernel p kn { k with awaiting := false }
    | _, _ => s

/-- T − 4 µs is at or before a time (R386). -/
def checkDue (t now : DWord) : Bool := !(now.ult (t - gtMicros 4)) || t.ult (gtMicros 4)

/-- LAUNCH_ACCEPT (R380, R383): the launch at the head of the partition's launch unit. While BANKROLE changes, nothing is
placed and the launch waits (17 R331); it waits for a page on the move and for links (21 R413, 24 R444). -/
def acceptLaunch (s : State) (p : Nat) : State :=
  let x := s.part p
  match if x.newRole.isSome then [] else x.launches with
  | [] => s
  | r :: rs =>
    let s1 := s.setPart p { x with launches := rs }
    match launch s1 p r with
    | .error code => if code == WAITS then s else answerLaunch s1 p r.by_ code none
    | .ok (kn, s2) =>
      let s3 := answerLaunch s2 p r.by_ stOk (some kn)
      match r.time with
      | some t => if checkDue t ((s3.part p).gt.now s3) then departureCheck s3 p kn else s3
      | none => s3

/-- LAUNCH_ACCEPT (R380). -/
def execLaunchAccept (part : Nat) (s : State) : Host.Outcome State Fault Refusal := .next (acceptLaunch s part)

/-- A launch reaches the launch unit (R383). -/
def askLaunch (s : State) (p : Nat) (r : Launch) : State :=
  let x := s.part p
  (s.setPart p { x with launches := x.launches ++ [r] }).push (.launchAccept p)

/-- A write of KLDB (R384). -/
def kldb (s : State) (p : Nat) (desc : DWord) : State :=
  let x := s.part p
  askLaunch (s.setPart p { x with reg := { x.reg with klValid := false } }) p
    { desc, ctx := x.reg.pctx.toNat, time := none, by_ := .kldb }

/-- KLDB_LAUNCH (R384). -/
def execKldbLaunch (part : Nat) (desc : DWord) (s : State) : Host.Outcome State Fault Refusal := .next (kldb s part desc)

/-! ### The end of a kernel (R388, R389) -/

/-- KernelEnd with a status (R388). -/
def finishKernel (s : State) (p kn status : Nat) : State :=
  match s.kernel? p kn with
  | none => s
  | some k => completionRecord (freeKernelState s p kn) p kn k status

/-- KERNEL_END (R388): every group is RETIRED and every staged entry performed or discarded. Where the write of its completion
record waits, the kernel ends then. -/
def kernelEnd (s : State) (p kn : Nat) : State :=
  match s.kernel? p kn with
  | none => s
  | some k =>
    if allRetired s p kn && k.staged.isEmpty && (k.depart.isNone || k.killed) then
      if recordWaits s p k then s.setKernel p kn { k with ending := true }
      else finishKernel s p kn (if k.killed then stKilled else stOk)
    else s

/-- KERNEL_END (R388). -/
def execKernelEnd (part kern : Nat) (s : State) : Host.Outcome State Fault Refusal := .next (kernelEnd s part kern)

/-- Kill of a kernel (R389). -/
def killKernel (s : State) (p kn : Nat) : State :=
  match s.kernel? p kn with
  | none => s
  | some k =>
    let s1 := s.setKernel p kn { k with killed := true, staged := [] }
    let ids := (s1.threads.map (·.id)).filter (ofKernel p kn)
    kernelEnd (ids.foldl killGroup s1) p kn

/-- KCTL_KILL (R389). -/
def execKctlKill (part kern : Nat) (s : State) : Host.Outcome State Fault Refusal := .next (killKernel s part kern)

/-! ### Departures (R385, R386) -/

/-- DEPARTURE_CHECK (R386). -/
def execDepartureCheck (part kern : Nat) (s : State) : Host.Outcome State Fault Refusal := .next (departureCheck s part kern)

/-- DEPARTURE_FIRE (R386): Allocated for the kernel's groups on one core, an acquire side there (14 R299, R303). -/
def departureFire (s : State) (p kn core : Nat) : State :=
  match s.kernel? p kn with
  | none => s
  | some k =>
    match k.depart, k.awaiting with
    | some t, false =>
      if ((s.core core).gt.now s).ult t then s
      else
        let s1 := (discardLeases s core []).mapThreads fun th =>
          if ofKernel p kn th.id && th.core == core && th.run == .forming then { th with run := .ready, residentSince := s.t } else th
        if s1.threads.any fun th => ofKernel p kn th.id && th.run == .forming then s1
        else s1.setKernel p kn { k with depart := none }
    | _, _ => s

/-- DEPARTURE_FIRE (R386). -/
def execDepartureFire (part kern core : Nat) (s : State) : Host.Outcome State Fault Refusal :=
  .next (departureFire s part kern core)

/-! ### Instructions (R396, R397) -/

/-- The fault of the first byte, of n, that the launcher's context does not let it load: code, level, address. -/
def probe (s : State) (p ctx va : Nat) : Nat → Option (Nat × Nat × Nat)
  | 0 => none
  | n + 1 =>
    match probe s p ctx va n with
    | some e => some e
    | none =>
      let a := va + n
      match regionOf a with
      | some .global =>
        match walk s p ctx a with
        | .error (.fault c l) => some (c, l, a)
        | .error _ => none
        | .ok l => if l.allows .load then none else some (PROT, l.level, a)
      | _ => some (PROT, 0, a)

/-- The fault on the descriptor, or on the parameter block that it names (R397). -/
def probeLaunch (s : State) (p ctx : Nat) (desc : DWord) : Option (Nat × Nat × Nat) :=
  match probe s p ctx desc.toNat 160 with
  | some e => some e
  | none =>
    match hwBytes s p ctx desc.toNat 160 with
    | .error _ => none
    | .ok bs => let d := descOf bs
                if d.psz ≤ 60 then probe s p ctx d.param.toNat (4 * d.psz) else none

/-- What a read of n bytes in a context waits for: a page on the move, or a link that is not UP (21 R413, 24 R444). -/
def readWait (s : State) (p ctx va n : Nat) : Option Cond :=
  (pieces va n).findSome? fun y => match hwKey s p ctx {} y.1 .load with
    | .error c => if c == WAITS then some (hwWait s p ctx y.1) else none
    | .ok _ => none

/-- What the reads of the descriptor and of the parameter block wait for (R397). -/
def launchWait (s : State) (p ctx : Nat) (desc : DWord) : Option Cond :=
  match readWait s p ctx desc.toNat 160, hwBytes s p ctx desc.toNat 160 with
  | some c, _ => some c
  | none, .ok bs => let d := descOf bs
                    if d.psz ≤ 60 then readWait s p ctx d.param.toNat (4 * d.psz) else none
  | none, .error _ => none

/-- `klaunch` and `depart`: the launcher's earlier accesses are performed first, and it waits for the launch unit
(R397). -/
def launchOp (i : Instr) (f : Fields) (time : Thread → Option DWord) (s : State) : Host.Outcome State Fault Refusal :=
  control i f (fun s th =>
    let desc := th.regs.readX f.a.toNat
    let p := partOf s th.id
    if desc.toNat % 32 != 0 then .error (.trap ALIGN (memDetail 0 0) desc.toNat 0)
    else if !quietThread s th.id then .error (.wait .quiet)
    else match launchWait s p th.ctx desc with
    | some c => .error (.wait c)
    | none => match probeLaunch s p th.ctx desc with
      | some (code, level, va) =>
        if code == PAGE then .error (.park (memDetail 0 level) va 0 s) else .error (.trap code (memDetail 0 level) va 0)
      | none =>
        let d := if f.nd then none else some f.d.toNat
        .ok (askLaunch (s.setThread { th with run := .waiting (.launch d) }) p
          { desc, ctx := th.ctx, time := time th, by_ := .thread th.id d })) s

/-- `klaunch` (R397). -/
def execKlaunch (f : Fields) (s : State) : Host.Outcome State Fault Refusal := launchOp (.klaunch f) f (fun _ => none) s

/-- `depart` (R397). -/
def execDepart (f : Fields) (s : State) : Host.Outcome State Fault Refusal :=
  launchOp (.depart f) f (fun th => some (th.regs.readX f.b.toNat)) s

end Sys2Proof.Machine
end

