-- ==== Sys2Proof/Machine/Tile.lean ====
section
/-! DEFINITION. What an operation of the matrix engine computes (17_tile R348..R351, 09_moment R209, R210): its operands
in the group's core scratchpad, and the tiles it leaves. The operation's fields: `src` the operand A (or the one
operand), `aux` the operand B, `stride0` and `stride1` their strides. -/

namespace Sys2Proof.Machine

/-- Tile n of a thread. -/
def Thread.tile (th : Thread) (n : Nat) : Tile := tget {} n th.tiles

/-- Element (i, j) of a tile. -/
def Tile.at_ (t : Tile) (i j : Nat) : Nat := (t.elems.getD (64 * i + j) 0).toNat

/-- Sets the tags of tiles (R338). -/
def Thread.tagTiles (th : Thread) (tag : Tag) (ns : List Nat) : Thread :=
  { th with tiles := ns.foldl (fun t n => tset n { tget {} n t with tag } t) th.tiles }

/-- Sets the elements of a tile, computed from row and column. -/
def Thread.setTile (th : Thread) (n : Nat) (g : Nat → Nat → Nat) : Thread :=
  { th with tiles := tset n { th.tile n with
      elems := ((List.range 64).map fun i => (List.range 64).map fun j => BitVec.ofNat 32 (g i j)).flatten } th.tiles }

/-- The tiles of a tile operand, or of a pair. -/
def tileList (n : Nat) (pair : Bool) : List Nat := if pair then [n, n + 1] else [n]

/-- The scratchpad offset of byte `o` from an operand's base. -/
def EngAddr.scratch (a : EngAddr) (o : Nat) : Nat := (a.base.ea (a.off + o)).toNat % 2 ^ 56

/-- `n` elements of `e` bytes from offset `o` of an operand. -/
def Thread.scrRow (th : Thread) (a : EngAddr) (o e n : Nat) : List Nat :=
  (List.range n).map fun k => th.scr.readNat (a.scratch (o + e * k)) e

/-- Row r of A that the operation reads: ρ(r), or `none` where `tmmag` reads no row (R348). -/
def EngOpRec.rowA (o : EngOpRec) (r : Nat) : Option Nat :=
  if o.op == .tmmag then (if o.mask.getLsbD r then some (laneOf o.idx r).toNat else none) else some r

/-- The 32 elements of row r of A, `e` bytes each; all +0 for an inactive row (R348). -/
def Thread.operandA (th : Thread) (o : EngOpRec) (e r : Nat) : List Nat :=
  match o.rowA r with
  | some q => th.scrRow o.src (q * o.stride0) e 32
  | none => List.replicate 32 0

/-- The columns of B: 64 lists of 32 elements of `e` bytes. -/
def Thread.operandB (th : Thread) (o : EngOpRec) (e : Nat) : List (List Nat) :=
  let rows := (List.range 32).map fun k => th.scrRow o.aux (k * o.stride1) e 64
  (List.range 64).map fun j => rows.map fun r => r.getD j 0

/-- The exact product of bf16 factors (R45, 09 R210). -/
def product (xs : List Nat) : FVal := xs.foldl (fun v x => v.mul (fDecode 8 x)) (.fin false 1 1)

/-- FusedSum of an f32 addend and exact products of bf16 factors (R45). -/
def fusedProducts (c : Nat) (terms : List (List Nat)) : Nat :=
  match (fDecode 24 c :: terms.map product).foldl (FVal.add 0) (.zero false) with
  | .zero _ => 0
  | x => fEncode 24 {} x

/-- Mean and variance of a 4-byte moment element (R44). -/
def mean4 (x : Nat) : Nat := x % 2 ^ 16
def var4 (x : Nat) : Nat := x / 2 ^ 16 % 2 ^ 16

/-- The terms of one product element in the mean and in the variance (09 R210). -/
def momentTerms (op : EngOp) (a b : Nat) : List (List Nat) × List (List Nat) :=
  if op == .tmam then ([[mean4 a, b]], [[var4 a, b, b]])
  else ([[mean4 a, mean4 b]],
    [[var4 a, mean4 b, mean4 b], [mean4 a, mean4 a, var4 b], [var4 a, var4 b]])

/-- `tmma` and `tmmag` (R348). -/
def Thread.matMul (th : Thread) (o : EngOpRec) : Thread :=
  let as := (List.range 64).map fun r => th.operandA o 2 r
  let bs := th.operandB o 2
  let t := th.tile o.tile
  th.setTile o.tile fun i j => fusedProducts (t.at_ i j) (List.zipWith (fun a b => [a, b]) (as.getD i []) (bs.getD j []))

/-- `tmam` and `tmamm` (09 R209, R210). -/
def Thread.matMoment (th : Thread) (o : EngOpRec) : Thread :=
  let as := (List.range 64).map fun r => th.operandA o 4 r
  let bs := th.operandB o (if o.op == .tmam then 2 else 4)
  let terms (i j : Nat) : List (List (List Nat) × List (List Nat)) :=
    List.zipWith (momentTerms o.op) (as.getD i []) (bs.getD j [])
  let c := th.tile o.tile
  let v := th.tile (o.tile + 1)
  (th.setTile o.tile fun i j => fusedProducts (c.at_ i j) ((terms i j).map (·.1)).flatten).setTile (o.tile + 1) fun i j =>
    plusZero 32 (fusedProducts (v.at_ i j) ((terms i j).map (·.2)).flatten)

/-- Bytes of an element in scratchpad (R351). -/
def tileElem (pair : Bool) (ty : Nat) : Nat := (if pair then 2 else 1) * (if ty == 9 then 2 else 4)

/-- An element read by `tld`: bf16 widened exactly, a NaN canonical, a variance of −0 as +0 (R351). -/
def loadedElem (ty : Nat) (var : Bool) (x : Nat) : Nat :=
  let y := if ty == 9 then x * 2 ^ 16 else x
  if isNaN 24 y then canonNaN 24 else if var && y == 2 ^ 31 then 0 else y

/-- `tld` (R351). -/
def Thread.tileLoad (th : Thread) (o : EngOpRec) : Thread :=
  let w := if o.ty == 9 then 2 else 4
  let e := tileElem o.pair o.ty
  let get (i j k : Nat) : Nat := th.scr.readNat (o.src.scratch (i * o.stride0 + e * j + w * k)) w
  let th1 := th.setTile o.tile fun i j => loadedElem o.ty false (get i j 0)
  if o.pair then th1.setTile (o.tile + 1) fun i j => loadedElem o.ty true (get i j 1) else th1

/-- An element as `tst` writes it (R351). -/
def storedElem (o : EngOpRec) (var : Bool) (x : Nat) : Nat :=
  if o.ty == 9 then
    let y := convert 10 9 o.mo (if var then o.seedVar else o.seed) x
    if var then plusZero 16 y else y
  else if isNaN 24 x then canonNaN 24 else x

/-- Element (i, j) stored: the tile's, or both members of the pair's. -/
def Thread.storeElem (th : Thread) (o : EngOpRec) (i j : Nat) (m : Memory) : Memory :=
  let w := if o.ty == 9 then 2 else 4
  let at_ := i * o.stride0 + tileElem o.pair o.ty * j
  (tileList o.tile o.pair).foldl (fun m n =>
    Memory.writeNat m (o.src.scratch (at_ + w * (n - o.tile))) w (storedElem o (n != o.tile) ((th.tile n).at_ i j))) m

/-- `tst` (R351). -/
def Thread.tileStore (th : Thread) (o : EngOpRec) : Thread :=
  let cells := ((List.range 64).map fun i => (List.range 64).map fun j => (i, j)).flatten
  { th with scr := cells.foldl (fun m x => th.storeElem o x.1 x.2 m) th.scr }

/-- `tzero` (R350). -/
def Thread.tileZero (th : Thread) (o : EngOpRec) : Thread :=
  { th with tiles := (tileList o.tile o.pair).foldl (fun t n => tset n { tget {} n t with elems := [] } t) th.tiles }

/-- What an operation of the matrix engine leaves when it completes. -/
def Thread.tileOp (th : Thread) (o : EngOpRec) : Thread :=
  match o.op with
  | .tmma => th.matMul o
  | .tmmag => th.matMul o
  | .tmam => th.matMoment o
  | .tmamm => th.matMoment o
  | .tld => th.tileLoad o
  | .tst => th.tileStore o
  | .tzero => th.tileZero o
  | .cp => th
  | .cpq => th
  | .cpg => th

end Sys2Proof.Machine
end

