-- ==== Sys2Proof/Machine/Engine.lean ====
section
/-! DEFINITION. The engines of a core (17_tile R333..R351, 09_moment R209..R211): carriages, the issue of an engine
operation with its checks, the queues of the two engines, and the copies. -/

namespace Sys2Proof.Machine

/-! ### Operands -/

/-- The bytes of an operand: from offset `first` to `last` past its base; `align` is what its addresses must be a multiple
of. `used` is false where the operation accesses nothing. -/
structure Span where
  addr : EngAddr
  first : Nat := 0
  last : Nat := 0
  write : Bool := false
  align : Nat := 4
  used : Bool := true
  deriving DecidableEq, Repr

/-- The bounding span of rows of `n` bytes at the given offsets. -/
def spanOf (addr : EngAddr) (offs : List Nat) (n : Nat) (write : Bool) : Span :=
  match offs with
  | [] => { addr, write, used := false }
  | o :: os =>
    { addr, first := os.foldl (fun m x => if x < m then x else m) o,
      last := os.foldl (fun m x => if m < x then x else m) o + n - 1, write, used := n != 0 }

/-- `n` rows a stride apart. -/
def strided (n stride : Nat) : List Nat := if n == 0 then [] else [0, (n - 1) * stride]

/-- The lanes whose rows `cpg` copies. -/
def EngOpRec.gathered (o : EngOpRec) : List Nat := Lanes o.mask

/-- The offset of the row that lane i names in `cpg` (R345). -/
def EngOpRec.gatherOff (o : EngOpRec) (i : Nat) : Nat := (laneOf o.idx i).toNat * o.ext1

/-- The operands of an operation (R343..R345, R348, R351, 09 R209). -/
def EngOpRec.spans (o : EngOpRec) : List Span :=
  match o.op with
  | .cp =>
    [spanOf o.dst (strided o.ext1 o.stride1) o.ext0 true, spanOf o.src (strided o.ext1 o.stride0) o.ext0 false]
  | .cpq =>
    let n := o.ext0 * o.ext1
    [spanOf o.dst (strided o.ext1 o.stride1) (64 * o.ext0) true,
     { spanOf o.src (strided o.ext1 o.stride0) (16 * o.ext0) false with align := 16 },
     { spanOf o.aux (strided n 0) (8 * ((n + 2) / 3)) false with align := 8 }]
  | .cpg =>
    [spanOf o.dst (o.gathered.map (· * o.stride1)) o.ext0 true, spanOf o.src (o.gathered.map o.gatherOff) o.ext0 false]
  | .tmma => [spanOf o.src (strided 64 o.stride0) 64 false, spanOf o.aux (strided 32 o.stride1) 128 false]
  | .tmmag =>
    [spanOf o.src (((List.range 64).filterMap o.rowA).map (· * o.stride0)) 64 false,
     spanOf o.aux (strided 32 o.stride1) 128 false]
  | .tmam => [spanOf o.src (strided 64 o.stride0) 128 false, spanOf o.aux (strided 32 o.stride1) 128 false]
  | .tmamm => [spanOf o.src (strided 64 o.stride0) 128 false, spanOf o.aux (strided 32 o.stride1) 256 false]
  | .tzero => []
  | .tld =>
    let e := tileElem o.pair o.ty
    [{ spanOf o.src (strided 64 o.stride0) (64 * e) false with align := if e < 4 then e else 4 }]
  | .tst =>
    let e := tileElem o.pair o.ty
    [{ spanOf o.src (strided 64 o.stride0) (64 * e) true with align := if e < 4 then e else 4 }]

/-- The tiles that an operation writes, and those that it reads. -/
def EngOpRec.writesTiles (o : EngOpRec) : List Nat :=
  match o.op with
  | .cp | .cpq | .cpg | .tst => []
  | _ => tileList o.tile o.pair
def EngOpRec.readsTiles (o : EngOpRec) : List Nat :=
  match o.op with
  | .tmma | .tmmag | .tmam | .tmamm | .tst => tileList o.tile o.pair
  | _ => []

/-- A base register's kind is one that the operand may have (R337, R344, R348, R351). -/
def spanKindOk (op : EngOp) (sp : Span) : Bool :=
  let k := sp.addr.base.kind
  match op with
  | .cp | .cpg => k != .slice && k != .regWindow
  | .cpq => if sp.write then k == .scratch || k == .cluster || k == .chip else k != .slice && k != .regWindow
  | _ => k == .scratch

/-- An address or a length that R343 to R345, R348, R351 or 09 R209 refuse as misaligned. -/
def EngOpRec.misaligned (o : EngOpRec) : Option Nat :=
  let addr (sp : Span) (off : Nat) : Nat := (sp.addr.base.ea (sp.addr.off + off)).toNat
  let bases := if o.op == .cpg then
      ((o.gathered.map fun i => [(o.dst.base.ea (o.dst.off + i * o.stride1)).toNat, (o.src.base.ea (o.src.off + o.gatherOff i)).toNat]).flatten).find?
        fun a => a % 4 != 0
    else o.spans.findSome? fun sp => if addr sp 0 % sp.align != 0 then some (addr sp 0) else none
  let bad := match o.op with
    | .cp => o.ext0 % 4 != 0 || o.stride0 % 4 != 0 || o.stride1 % 4 != 0
    | .cpq => o.stride0 % 16 != 0 || o.stride1 % 4 != 0
    | .cpg => o.ext0 % 4 != 0 || o.stride1 % 4 != 0
    | .tld | .tst => let e := tileElem o.pair o.ty
                     o.stride0 % (if e < 4 then e else 4) != 0
    | _ => false
  match bases with
  | some a => some a
  | none => if bad then some ((o.spans.map fun sp => addr sp 0).headD 0) else none

/-- A footprint in the chip scratchpad lies in one allocation of the kernel (21 R400). -/
def spanAllocated (k : Kernel) (die : Nat) (sp : Span) : Bool :=
  let va (x : Nat) : Nat := (sp.addr.base.ea (sp.addr.off + x)).toNat
  sp.addr.base.kind != .chip ||
    ((chipKey k die (va sp.first)).isSome && (chipKey k die (va sp.last)).isSome && va sp.first / 2 ^ 32 == va sp.last / 2 ^ 32)

/-- The checks of R337 steps 3 to 5 for an operation of a thread of kernel k. The kind reported is 3, engine (21 R415). -/
def engineCheck (k : Kernel) (o : EngOpRec) : Res Unit :=
  let fault (code va : Nat) : Res Unit := .error (.trap code (memDetail 3 0) va 0)
  if o.spans.any fun sp => !sp.addr.base.valid || !spanKindOk o.op sp then fault BOUNDS 0
  else match o.misaligned with
    | some va => fault ALIGN va
    | none =>
      match o.spans.find? fun sp => sp.used && sp.addr.base.kind != .global &&
          (sp.addr.base.limit ≤ sp.addr.off + sp.last || !spanAllocated k o.die sp) with
      | some sp => fault BOUNDS (sp.addr.base.ea (sp.addr.off + sp.last)).toNat
      | none => .ok ()

/-! ### Issue -/

/-- The queue of an engine. -/
def Core.engQ (k : Core) (e : EngineSel) : List EngOpRec :=
  match e with
  | .copy => k.copyQ
  | .matrix => k.matrixQ

def Core.setEngQ (k : Core) (e : EngineSel) (q : List EngOpRec) : Core :=
  match e with
  | .copy => { k with copyQ := q }
  | .matrix => { k with matrixQ := q }

/-- Puts back an operation of a queue. -/
def setEngOp (s : State) (core : Nat) (e : EngineSel) (o : EngOpRec) : State :=
  let k := s.core core
  s.setCore core (k.setEngQ e ((k.engQ e).map fun x => if x.serial == o.serial then o else x))

/-- Issues an engine operation: `build` answers the operation with its operands read, after the checks on tags; `tag` is the
tag that its tiles take (R337..R339). -/
def engine (i : Instr) (f : Fields) (e : EngineSel) (scope : Nat) (tag : Option Tag)
    (build : Thread → Res EngOpRec) (s : State) : Host.Outcome State Fault Refusal :=
  control i f (fun s th =>
    match build th with
    | .error x => .error x
    | .ok o0 =>
      let o := { o0 with die := dieOfCore th.core }
      if regroupHeld s th.core scope .global ||
          (o.spans.any fun sp => sp.addr.base.valid && regroupHeld s th.core 0 sp.addr.base.kind) then .error (.wait .regroup)
      else match engineCheck (kernelOf s th) o with
        | .error x => .error x
        | .ok _ =>
          let k := s.core th.core
          if 8 ≤ (k.engQ e).length then .error (.wait (.engine e))
          else
            let (n, s1) := s.fresh
            let c := th.carriage
            let o1 := { o with serial := n, th := th.id, carriage := c.serial, index := c.nops, iaddr := th.regs.pc }
            let th1 := { th with carriage := { c with nops := c.nops + 1 } }
            let th2 := match tag with
              | some t => th1.tagTiles t o1.writesTiles
              | none => th1
            .ok (finish (s1.setCore th.core (k.setEngQ e (k.engQ e ++ [o1]))) th2 s.cur f .none)) s

/-- An operand: base register field and offset register. Global memory is translated as the operation runs (R341). -/
def Thread.engAddr (th : Thread) (b off : BitVec 8) : EngAddr :=
  let r := th.bases.getD b.toNat {}
  { base := if r.kind == .global then { r with limit := 0 } else r, off := (th.regs.srcS off).toNat }

/-- The two halves of EI (R61). -/
def eiLow (f : Fields) : Nat := f.ei.toNat % 65536
def eiHigh (f : Fields) : Nat := f.ei.toNat / 65536

/-- A stride of 0 stands for packed rows. -/
def strideOr (x packed : Nat) : Nat := if x == 0 then packed else x

/-- The operation before its serial number, thread and carriage. -/
def engOp (op : EngOp) : EngOpRec := { serial := 0, th := .sys 0, op, carriage := 0, index := 0 }

/-- `cp` (R343). -/
def execCp (f : Fields) (s : State) : Host.Outcome State Fault Refusal :=
  engine (.cp f) f .copy (scopeOf f) none (fun th =>
    let x := (th.regs.srcS f.ea).toNat
    let rb := x % 65536
    .ok { engOp .cp with
          dst := th.engAddr f.d f.a, src := th.engAddr f.b f.c, ext0 := rb, ext1 := x / 65536,
          stride0 := strideOr (eiHigh f) rb, stride1 := strideOr (eiLow f) rb, pol := polOf f }) s

/-- `cpq` (R344). -/
def execCpq (f : Fields) (s : State) : Host.Outcome State Fault Refusal :=
  engine (.cpq f) f .copy (scopeOf f) none (fun th =>
    let x := (th.regs.srcS f.ea).toNat
    let bpr := x % 65536
    .ok { engOp .cpq with
          dst := th.engAddr f.d f.a, src := th.engAddr f.b f.c, aux := th.engAddr f.eb f.ec, ext0 := bpr,
          ext1 := x / 65536, stride0 := strideOr (eiHigh f) (16 * bpr), stride1 := strideOr (eiLow f) (64 * bpr),
          mo := f.mo.toNat, pol := polOf f }) s

/-- `cpg` (R345). -/
def execCpg (f : Fields) (s : State) : Host.Outcome State Fault Refusal :=
  engine (.cpg f) f .copy (scopeOf f) none (fun th =>
    let v := th.regs.srcV f f.ea
    if !tagOk [I32, N32] v.tag then trap TAG
    else .ok { engOp .cpg with
          dst := th.engAddr f.d f.a, src := th.engAddr f.b f.c, ext0 := eiLow f, ext1 := (th.regs.srcS f.eb).toNat,
          stride1 := strideOr (eiHigh f) (eiLow f), idx := v.lanes, mask := th.regs.mask, pol := polOf f }) s

/-- The tags of tiles are what the operation expects (R348, R351, 09 R209). -/
def tilesOk (th : Thread) (tag : Tag) (ns : List Nat) : Bool := ns.all fun n => tagOk [tag] (th.tile n).tag

/-- `tmma` and the forms with its operands: A at bA + s[B], B at bC + s[EA]. -/
def matrixOp (op : EngOp) (pair : Bool) (packedA packedB : Nat) (f : Fields) (th : Thread) : Res EngOpRec :=
  if !tilesOk th (if pair then MACC else ACC) (tileList f.d.toNat pair) then trap TAG
  else .ok { engOp op with
        tile := f.d.toNat, pair, src := th.engAddr f.a f.b, aux := th.engAddr f.c f.ea,
        stride0 := strideOr (eiLow f) packedA, stride1 := strideOr (eiHigh f) packedB }

/-- `tmma` (R348). -/
def execTmma (f : Fields) (s : State) : Host.Outcome State Fault Refusal :=
  engine (.tmma f) f .matrix 0 (some ACC) (matrixOp .tmma false 64 128 f) s

/-- `tmmag` (R348). -/
def execTmmag (f : Fields) (s : State) : Host.Outcome State Fault Refusal :=
  engine (.tmmag f) f .matrix 0 (some ACC) (fun th =>
    let v := th.regs.srcV f f.eb
    match matrixOp .tmmag false 64 128 f th with
    | .error e => .error e
    | .ok o => if !tagOk [I32, N32] v.tag then trap TAG else .ok { o with idx := v.lanes, mask := th.regs.mask }) s

/-- `tmam` (09 R209). -/
def execTmam (f : Fields) (s : State) : Host.Outcome State Fault Refusal :=
  engine (.tmam f) f .matrix 0 (some MACC) (matrixOp .tmam true 128 128 f) s

/-- `tmamm` (09 R209). -/
def execTmamm (f : Fields) (s : State) : Host.Outcome State Fault Refusal :=
  engine (.tmamm f) f .matrix 0 (some MACC) (matrixOp .tmamm true 128 256 f) s

/-- FN 1 of `tzero`, `tld` and `tst` names a pair (R342). -/
def onPair (f : Fields) : Bool := f.fn == 1

/-- `tzero` (R350). -/
def execTzero (f : Fields) (s : State) : Host.Outcome State Fault Refusal :=
  engine (.tzero f) f .matrix 0 (some (if onPair f then MACC else ACC)) (fun _ =>
    .ok { engOp .tzero with tile := f.d.toNat, pair := onPair f }) s

/-- `tld` (R351). -/
def execTld (f : Fields) (s : State) : Host.Outcome State Fault Refusal :=
  engine (.tld f) f .matrix 0 (some (if onPair f then MACC else ACC)) (fun th =>
    .ok { engOp .tld with
          tile := f.d.toNat, pair := onPair f, src := th.engAddr f.a f.b, ty := f.ty.toNat,
          stride0 := strideOr (eiLow f) (64 * tileElem (onPair f) f.ty.toNat) }) s

/-- `tst` (R351). -/
def execTst (f : Fields) (s : State) : Host.Outcome State Fault Refusal :=
  engine (.tst f) f .matrix 0 none (fun th =>
    if !tilesOk th (if onPair f then MACC else ACC) (tileList f.c.toNat (onPair f)) then trap TAG
    else
      let r := th.regs.sr
      .ok { engOp .tst with
            tile := f.c.toNat, pair := onPair f, src := th.engAddr f.a f.b, ty := f.ty.toNat, mo := f.mo.toNat,
            stride0 := strideOr (eiLow f) (64 * tileElem (onPair f) f.ty.toNat), seed := r.srseed,
            seedVar := r.srseed ^^^ BitVec.ofNat 32 (r.mcr.toNat / 16 * 2 ^ 28) }) s

/-! ### Carriages (R333..R336) -/

/-- The carriage status word (R335). -/
def Carriage.status (c : Carriage) : Word :=
  let first := match c.fail with
    | some (i, _) => if i < 255 then i else 255
    | none => 255
  let code := match c.fail with
    | some (_, x) => x
    | none => 0
  BitVec.ofNat 32 (code + first * 2 ^ 8 + (if c.nops < 255 then c.nops else 255) * 2 ^ 16 + (if c.rst then 2 ^ 31 else 0))

/-- Every member has completed. -/
def Carriage.complete (c : Carriage) : Bool := c.finished == c.nops

/-- A member completes, with a failure code or 0; of the failures the lowest issue index stays (R335). -/
def Carriage.member (c : Carriage) (index code : Nat) : Carriage :=
  { c with
    finished := c.finished + 1
    fail := if code == 0 then c.fail else match c.fail with
      | some (i, x) => if index < i then some (index, code) else some (i, x)
      | none => some (index, code) }

/-- `seal` (R333, R334). -/
def execSeal (f : Fields) (s : State) : Host.Outcome State Fault Refusal :=
  control (.seal f) f (fun s th =>
    if 16 ≤ (th.sealed.filter fun c => !c.complete).length then .error (.wait .carriage)
    else
      let (n, s1) := s.fresh
      let c := { th.carriage with token := some f.d.toNat, tag := n }
      let th1 := { th with
        carriage := { serial := c.serial + 1 }, sealed := th.sealed ++ [c], pend := th.pend ++ [{ reg := .s f.d.toNat, tag := n }] }
      let s2 := finish s1 th1 s.cur f .none
      .ok (if c.complete then s2.push (.carriageComplete th.id c.serial) else s2)) s

/-- CARRIAGE_COMPLETE (R333): the status goes to the token register, which is no longer pending. -/
def carriageDone (s : State) (id : ThreadId) (serial : Nat) : State :=
  s.onThread id fun th =>
    match th.sealed.find? fun c => c.serial == serial && c.complete with
    | none => th
    | some c =>
      let th1 := { th with sealed := th.sealed.filter fun x => x.serial != serial }
      match c.token with
      | some d => (th1.clearPend c.tag).land fun r => r.writeS th.ll d c.status
      | none => th1.clearPend c.tag

/-- CARRIAGE_COMPLETE (R333). -/
def execCarriageComplete (th : ThreadId) (serial : Nat) (s : State) : Host.Outcome State Fault Refusal :=
  .next (carriageDone s th serial)

/-! ### The copies -/

/-- A fault of an element: how, and its address. -/
abbrev EngRes (α : Type) := Except (NoLeaf × Nat) α

/-- The place of an element at offset x of an operand: key and policy, with the TLB as the translation leaves it (R340, R341). An
element behind a link that is not UP waits for it (24 R444). -/
def engPlace (s : State) (th : Thread) (o : EngOpRec) (a : EngAddr) (x : Nat) (write : Bool) : EngRes ((Nat × Nat) × State) :=
  let va := (a.base.ea (a.off + x)).toNat
  let shared := write && a.base.kind == .global && match th.id with
    | .grp p kn _ => (match s.kernel? p kn with
      | some k => k.desc.det && isShared s p th.ctx k va
      | none => false)
    | .sys _ => false
  if a.base.kind == .global && (regionOf va != some .global || shared) then .error (.fault PROT 0, va)
  else if a.base.kind == .chip then
    match chipKey (kernelOf s th) o.die va with
    | none => .error (.fault PROT 0, va)
    | some key =>
      if s.ecc.contains (key / 128) then .error (.fault ECC 0, va)
      else if !lineReachable s (dieOfCore th.core) key then .error (.link key, va)
      else .ok ((key, if o.pol == 0 then 2 else o.pol), s)
  else match locate s th a.base { perm := if write then .store else .load, width := 4, align := 4, writes := write } o.pol 0
      (a.off + x) with
    | (.ok y, s1) =>
      if a.base.kind != .scratch && !lineReachable s1 (dieOfCore th.core) y.1 then .error (.link y.1, va) else .ok (y, s1)
    | (.error e, _) => .error (e, va)

/-- An engine's request to another die, or over a coupling, crosses the links of its route (01 R15). -/
def engCross (s : State) (c ln : Nat) : State := sendCrossing s (dieOfCore c) (ln * 128)

/-- A core obtains tokens of a line within the step (R222, log 28): all of them, or as an own or wis load does. -/
def obtainTokens (s : State) (c ln pol : Nat) (all : Bool) : State :=
  let s1 := ensureEntry (settle (contact (engCross s c ln) c (homeOf s ln)) ln) ln
  let e := entryOf s1 ln
  let ask (s : State) (h n : Nat) : State := addShare (giveTokens s h ln n) h c 128
  if all then grant ((otherHolders s1 ln c).foldl (fun s h => ask s h 512) s1) ln c 512
  else if e.tokens == 512 && pol == 1 then grant s1 ln c 512
  else if e.tokens != 0 then grant s1 ln c 1
  else match otherHolders s1 ln c with
    | [] => s1
    | h :: hs =>
      let (n, s2) := s1.choose (hs.length + 1)
      grant (ask s2 ((h :: hs).getD n h) 1) ln c 1

/-- A lease copy obtained within the step (R229, R240, log 28). -/
def obtainLease (s : State) (c ln : Nat) (lease : BitVec 8) : State :=
  let s1 := ensureEntry (settle (contact (engCross s c ln) c (homeOf s ln)) ln) ln
  let s2 := match ownerOf s1 ln with
    | some o => (match copy? s1 o ln with
      | some y => if y.dirty then
          addShare (absorb (putCopy s1 o { y with dirty := false }) ln o 0 (some y.data) (s1.core o).lclk) o c 128
        else s1
      | none => s1)
    | none => s1
  let s3 := onEntry s2 ln fun e => { e with rts := maxT e.rts ((s2.core c).lclk + BitVec.zeroExtend 16 lease) }
  let e := entryOf s3 ln
  putCopy s3 c { line := ln, tokens := 0, data := homeBytes s3 ln, rts := e.rts, wts := e.wts }

/-- A read of n bytes by an engine of core c, under the policy of its access (R340, 10 R216, R219, R220). -/
def engLoad (s : State) (c key n pol : Nat) (lease : BitVec 8) : Nat × State :=
  let ln := key / 128
  let from_ (s : State) : Nat × State := match copy? s c ln with
    | some y => (ofLeBytes ((y.data.drop (key % 128)).take n), s)
    | none => (readHome s key n, s)
  let held := match copy? s c ln with
    | some y => y.tokens != 0 || (pol == 3 && !before y.rts (s.core c).lclk)
    | none => false
  if pol == 2 || !keepsCopies s c || (pol == 3 && !(s.core c).gt.sync) then
    let s1 := ensureEntry (settle (contact (engCross s c ln) c (homeOf s ln)) ln) ln
    (readHome s1 key n, match ownerOf s1 ln with
      | some o => addShare s1 o c 128
      | none => s1)
  else if held then from_ s
  else if pol == 3 then from_ (obtainLease s c ln lease)
  else from_ (obtainTokens s c ln pol false)

/-- An engine of core c contacts the home of a line, its lease copy dropped, to write there (10 R217, R235). -/
def engContact (s : State) (c ln : Nat) : State := contact (engCross (dropLease s c ln) c ln) c (homeOf s ln)

/-- A write of 4 bytes at home for thread `id`, or merged at the owner, under wt or sis (10 R231, R239). Answers wts. -/
def engHome (s : State) (id : ThreadId) (c key x : Nat) : State × BitVec 16 :=
  let s1 := engContact s c (key / 128)
  let s2 := match ownerOf s1 (key / 128) with
    | some o => addShare s1 o c 4
    | none => s1
  let r := opHome s2 key 4 (some (s2.core c).lclk) (some id) fun _ => x
  (r.1, r.2.2)

/-- A write of 4 bytes under wis: all tokens come home, a dirty owner's data with them (13 R273), and one goes to the core (10
R217). -/
def engWis (s : State) (id : ThreadId) (c key x : Nat) : State :=
  let ln := key / 128
  let s0 := ensureEntry (settle (engContact s c ln) ln) ln
  let s1 := match ownerOf s0 ln with
    | some o => if ((copy? s0 o ln).map (·.dirty)) == some true then addShare s0 o c 128 else s0
    | none => s0
  let s2 := gatherAll (breakHomeResv s1 ln (some id)) ln
  let s3 := onEntry s2 ln fun e => e.stamp (s2.core c).lclk
  grant { s3 with mem := s3.mem.writeNat key 4 x } ln c 1

/-- A write of 4 bytes under own, in the core's copy with all tokens (10 R217). -/
def engOwn (s : State) (id : ThreadId) (c key x : Nat) : State :=
  let ln := key / 128
  let s1 := if tokensAt s c ln == 512 then s else obtainTokens (dropLease s c ln) c ln 1 true
  match copy? s1 c ln with
  | some y => putCopy (breakResv (breakHomeResv s1 ln (some id)) c ln (some id)) c
      { y with dirty := true, data := spliceBytes y.data (key % 128) (leBytes 4 x) }
  | none => (engHome s1 id c key x).1

/-- A write of 4 bytes by an engine of core c for thread `id`, under the policy of its access (R340, 10 R217, R219); under sis
the core's clock jumps to wts (10 R231). -/
def engStore (s : State) (id : ThreadId) (c key pol x : Nat) : State :=
  if pol == 3 then raiseClock (engHome s id c key x).1 c (engHome s id c key x).2
  else if pol == 2 || !keepsCopies s c then (engHome s id c key x).1
  else if pol == 4 then engWis s id c key x
  else engOwn s id c key x

/-- The bytes that an engine moves to or from a line of the cluster-shared window are counted (13 R273). -/
def countEngine (s : State) (c : Nat) (kind : BaseKind) (key n : Nat) : State :=
  if kind == .cluster then addShare s c (homeOf s (key / 128)) n else s

/-- Reads n bytes of an operand of an operation, within one line. -/
def engRead (s : State) (o : EngOpRec) (a : EngAddr) (x n : Nat) : EngRes (Nat × State) :=
  match s.thread? o.th with
  | none => .ok (0, s)
  | some th =>
    match engPlace s th o a x false with
    | .error e => .error e
    | .ok ((key, p), s1) =>
      .ok (if a.base.kind == .scratch then (th.scr.readNat key n, s1)
        else engLoad (countEngine s1 th.core a.base.kind key n) th.core key n p th.regs.sr.lease)

/-- A write in a private window breaks the group's reservation on the bytes (11 R264). -/
def Thread.breakPrivate (th : Thread) (kind : BaseKind) (ea n : Nat) : Thread :=
  match th.resv with
  | some r => if r.line.isNone && r.kind == kind && r.ea.toNat < ea + n && ea < r.ea.toNat + r.width then { th with resv := none } else th
  | none => th

/-- Writes 4 bytes of an operand of an operation (R340). -/
def engWrite (s : State) (o : EngOpRec) (a : EngAddr) (x v : Nat) : EngRes State :=
  match s.thread? o.th with
  | none => .ok s
  | some th =>
    match engPlace s th o a x true with
    | .error e => .error e
    | .ok ((key, p), s1) =>
      .ok (if a.base.kind == .scratch then
          s1.setThread ({ th with scr := th.scr.writeNat key 4 v }.breakPrivate .scratch (a.base.ea (a.off + x)).toNat 4)
        else enableAgains (engStore (countEngine s1 th.core a.base.kind key 4) th.id th.core key p v) key (leBytes 4 v))

/-- An operation at an element: the operation as it stands, the fault that stopped it, if any, and the state. -/
abbrev Course := EngOpRec × Option (NoLeaf × Nat) × State

/-- The element is done. -/
def EngOpRec.past (o : EngOpRec) : EngOpRec := { o with done := o.done + 1, word := 0 }

/-- Copies one word. -/
def copyWord (s : State) (o : EngOpRec) (src dst : Nat) : Course :=
  match engRead s o o.src src 4 with
  | .error e => (o, some e, s)
  | .ok (x, s1) => match engWrite s1 o o.dst dst x with
    | .error e => (o, some e, s)
    | .ok s2 => (o.past, none, s2)

/-- The words that a Q4 block writes: 32 bf16 elements (R344, R43). -/
def blockWords (o : EngOpRec) (codes scaleWord b : Nat) : List Nat :=
  let (sc, bad) := q4Scale scaleWord (b % 3)
  let e (j : Nat) : Nat := fEncode 8 { mode := o.mo } (q4Decode sc bad (codes / 2 ^ (4 * j) % 16))
  (List.range 16).map fun w => e (2 * w) + 2 ^ 16 * e (2 * w + 1)

/-- Writes the words of a block that are left, from offset x of the destination on, up to the first that fails: what has been
written stays (R335). -/
def blockWrites (x : Nat) : List Nat → EngOpRec → State → Course
  | [], o, s => (o.past, none, s)
  | v :: vs, o, s =>
    match engWrite s o o.dst (x + 4 * o.word) v with
    | .error e => (o, some e, s)
    | .ok s1 => blockWrites x vs { o with word := o.word + 1 } s1

/-- Decompresses block b of `cpq` (R344). -/
def copyBlock (s : State) (o : EngOpRec) (b : Nat) : Course :=
  let r := b / o.ext0
  let c := b % o.ext0
  match engRead s o o.src (r * o.stride0 + 16 * c) 16 with
  | .error e => (o, some e, s)
  | .ok (codes, s1) =>
    match engRead s1 o o.aux (8 * (b / 3)) 8 with
    | .error e => (o, some e, s)
    | .ok (word, s2) => blockWrites (r * o.stride1 + 64 * c) ((blockWords o codes word b).drop o.word) o s2

/-- Element e of a copy: a word, or for `cpq` a block. -/
def copyElem (s : State) (o : EngOpRec) (e : Nat) : Course :=
  let w := o.ext0 / 4
  match o.op with
  | .cpq => copyBlock s o e
  | .cpg =>
    let i := o.gathered.getD (e / w) 0
    copyWord s o (o.gatherOff i + 4 * (e % w)) (i * o.stride1 + 4 * (e % w))
  | _ => copyWord s o (e / w * o.stride0 + 4 * (e % w)) (e / w * o.stride1 + 4 * (e % w))

/-- The elements of a copy. -/
def EngOpRec.total (o : EngOpRec) : Nat :=
  match o.op with
  | .cp => o.ext1 * (o.ext0 / 4)
  | .cpq => o.ext1 * o.ext0
  | .cpg => o.gathered.length * (o.ext0 / 4)
  | _ => 0

/-- Runs `fuel` elements from the one the operation stands at, up to the first that fails. -/
def runCopy : Nat → EngOpRec → State → Course
  | 0, o, s => (o, none, s)
  | fuel + 1, o, s =>
    match copyElem s o o.done with
    | (o1, none, s1) => runCopy fuel o1 s1
    | r => r

/-! ### The run of the engines -/

/-- Two ranges of bytes meet. -/
def rangesMeet (a n b m : Nat) : Bool := decide (a < b + m) && decide (b < a + n)

/-- A range of bytes of an operation, where they lie: in the group's scratchpad (`true`) or at a key of memory; whether it writes
them. A global byte with no translation counts under its generic address, past all keys. -/
structure Bytes where
  priv : Bool
  first : Nat
  size : Nat
  write : Bool
  deriving DecidableEq, Repr

def Bytes.meets (x y : Bytes) : Bool := x.priv == y.priv && rangesMeet x.first x.size y.first y.size

/-- The operands with the ranges of offsets that the operation touches (R343..R345, R348, R351). -/
def EngOpRec.parts (o : EngOpRec) : List (EngAddr × Nat × Nat × Bool) :=
  let all : List (EngAddr × Nat × Nat × Bool) := match o.op with
    | .cpg => (o.gathered.map fun i => [(o.dst, i * o.stride1, o.ext0, true), (o.src, o.gatherOff i, o.ext0, false)]).flatten
    | _ => (o.spans.filter fun (sp : Span) => sp.used).map fun (sp : Span) => (sp.addr, sp.first, sp.last + 1 - sp.first, sp.write)
  all.filter fun x => x.2.2.1 != 0

/-- The bytes of one part, by their place in memory, so that two addresses of one byte count as one (R339, R340). -/
def partBytes (s : State) (th : Thread) (o : EngOpRec) (x : EngAddr × Nat × Nat × Bool) : List Bytes :=
  let (a, off, n, write) := x
  let va := (a.base.ea (a.off + off)).toNat
  match a.base.kind with
  | .scratch => [{ priv := true, first := va % 2 ^ 56, size := n, write }]
  | .chip => (match chipKey (kernelOf s th) o.die va with
    | some key => [{ priv := false, first := key, size := n, write }]
    | none => [])
  | .cluster => [{ priv := false, first := keyCluster (a.base.slot.getD 0) (va % 2 ^ 56), size := n, write }]
  | .global => (pieces va n).map fun y => {
      priv := false, size := y.2, write
      first := match (lookupFor s th y.1).1 with
        | .ok l => l.key y.1
        | .error _ => 2 ^ 62 + y.1 }
  | _ => []

def opBytes (s : State) (th : Thread) (o : EngOpRec) : List Bytes := (o.parts.map (partBytes s th o)).flatten

/-- The operation must wait for an earlier one of its group (R339). -/
def waitsFor (s : State) (th : Thread) (o e : EngOpRec) : Bool :=
  (e.writesTiles.any fun t => o.writesTiles.contains t || o.readsTiles.contains t) ||
  (e.readsTiles.any fun t => o.writesTiles.contains t) ||
  ((opBytes s th o).any fun x => (opBytes s th e).any fun y => (x.write || y.write) && x.meets y)

/-- The operation must wait for an access of its group that issued before it and touches the same bytes, in flight or staged (R340, 14
R305). Staged bytes lie on shared lines, which an operation never writes (20 R393). -/
def waitsForAccess (s : State) (th : Thread) (o : EngOpRec) : Bool :=
  let mine := opBytes s th o
  let before : List Bytes := ((s.accs.filter fun a => a.th == o.th && a.id < o.serial).map fun a => a.todo.map fun l =>
    { priv := a.space == .scratch, first := l.key, size := a.width, write := true : Bytes }).flatten
  let staged : List Bytes := match th.id with
    | .grp p kn g => (match s.kernel? p kn with
      | some k => ((stagedOf k g).filter fun e => e.serial < o.serial).map fun e => {
          priv := false, size := e.width, write := true
          first := match hwKey s p th.ctx k e.ea.toNat .none with
            | .ok key => key
            | .error _ => 2 ^ 62 + e.ea.toNat }
      | none => [])
    | .sys _ => []
  (before.any fun y => mine.any fun x => x.meets y) || staged.any fun y => mine.any fun x => !x.write && x.meets y

/-- The operation can run. -/
def startable (s : State) (core : Nat) (o : EngOpRec) : Bool :=
  let k := s.core core
  let th := (s.thread? o.th).getD s.cur
  !o.running && !o.suspended &&
  (match o.moving with
    | some x => readHome s x 8 / 2 ^ 58 % 4 != 1
    | none => true) &&
  (match o.link with
    | some x => lineReachable s (dieOfCore core) x
    | none => true) &&
  !((k.copyQ ++ k.matrixQ).any fun e => e.th == o.th && e.serial < o.serial && waitsFor s th o e) &&
  !waitsForAccess s th o

/-- The operation that an engine takes next: in issue order, but that an operation suspended on a PAGE fault holds up no other (R339,
R341). -/
def nextEngOp (s : State) (core : Nat) (e : EngineSel) : Option EngOpRec :=
  let q := (s.core core).engQ e
  if q.any fun o => o.running then none
  else match q.find? fun o => !o.suspended with
    | some o => if startable s core o then some o else none
    | none => none

/-- LANES of an engine fault (22 R426). -/
def engineLanes (o : EngOpRec) : Nat := o.index % 256 + o.carriage % 256 * 2 ^ 8

/-- ENGINE_OP_START (R339..R341): the engine takes an operation; a copy runs up to its first fault. -/
def engineStart (s : State) (core : Nat) (e : EngineSel) : State :=
  match nextEngOp s core e with
  | none => s
  | some o =>
    let run (s : State) (o : EngOpRec) : State := (setEngOp s core e { o with running := true }).push (.engineOpComplete core e)
    match e with
    | .matrix => run s o
    | .copy =>
      let (o1, stop, s1) := runCopy (o.total - o.done) { o with moving := none, link := none } s
      match stop with
      | none => run s1 o1
      | some (.moving x, _) => setEngOp s1 core e { o1 with moving := some x }
      | some (.link x, _) => setEngOp s1 core e { o1 with link := some x }
      | some (.fault code level, va) =>
        if code == PAGE then
          raiseCart (setEngOp s1 core e { o1 with suspended := true }) o.th (.engineOp o.serial) 0 PAGE (memDetail 3 level)
            o.iaddr.toNat va (engineLanes o)
        else run s1 { o1 with fail := if code == ECC then ECC else PROT }

/-- ENGINE_OP_START (R339). -/
def execEngineOpStart (core : Nat) (engine : EngineSel) (s : State) : Host.Outcome State Fault Refusal :=
  .next (engineStart s core engine)

/-- The rows that `tst` writes break the group's reservation (11 R264). -/
def Thread.breakRows (th : Thread) (o : EngOpRec) : Thread :=
  if o.op == .tst then (List.range 64).foldl (fun th i =>
    th.breakPrivate .scratch (o.src.base.ea (o.src.off + i * o.stride0)).toNat (64 * tileElem o.pair o.ty)) th
  else th

/-- The member's completion in its carriage, open or sealed. -/
def Thread.memberDone (th : Thread) (o : EngOpRec) : Thread :=
  if th.carriage.serial == o.carriage then { th with carriage := th.carriage.member o.index o.fail }
  else { th with sealed := th.sealed.map fun c => if c.serial == o.carriage then c.member o.index o.fail else c }

/-- ENGINE_OP_COMPLETE (R335, R340): the tile changes, the queue entry frees, the carriage counts its member. -/
def engineComplete (s : State) (core : Nat) (e : EngineSel) : State :=
  let k := s.core core
  match (k.engQ e).find? fun o => o.running with
  | none => s
  | some o =>
    let s1 := s.setCore core (k.setEngQ e ((k.engQ e).filter fun x => x.serial != o.serial))
    let s2 := s1.onThread o.th fun th => (((th.tileOp o).breakRows o).memberDone o)
    match s2.thread? o.th with
    | none => s2
    | some th =>
      if th.sealed.any fun c => c.serial == o.carriage && c.complete then s2.push (.carriageComplete o.th o.carriage) else s2

/-- ENGINE_OP_COMPLETE (R340). -/
def execEngineOpComplete (core : Nat) (engine : EngineSel) (s : State) : Host.Outcome State Fault Refusal :=
  .next (engineComplete s core engine)

/-- The thread's operations that have not completed. -/
def engOpsOf (s : State) (th : Thread) : List EngOpRec :=
  ((s.core th.core).copyQ ++ (s.core th.core).matrixQ).filter fun o => o.th == th.id

/-- ENGINE_DRAIN_TIMEOUT (R346, 22 R427): 10 µs after a pre-emption began, what still runs or is suspended is cancelled and
kept with its operands; a trap of a cancelled operation is no longer outstanding. -/
def cancelForSave (s : State) (id : ThreadId) : State :=
  match s.thread? id with
  | none => s
  | some th =>
    let ops := engOpsOf s th
    let k := s.core th.core
    let keep (l : List EngOpRec) : List EngOpRec := l.filter fun o => o.th != id
    let sorted := ops.foldl (fun (l : List EngOpRec) o =>
      (l.filter fun x => x.serial < o.serial) ++ [o] ++ l.filter fun x => o.serial ≤ x.serial) []
    (s.setCore th.core { k with copyQ := keep k.copyQ, matrixQ := keep k.matrixQ }).setThread { th with
      cancelled := th.cancelled ++ sorted
      traps := th.traps.filter fun r => match r.object with
        | .engineOp n => !(ops.any fun o => o.serial == n)
        | _ => true }

/-- ENGINE_DRAIN_TIMEOUT (R346). -/
def execEngineDrainTimeout (th : ThreadId) (s : State) : Host.Outcome State Fault Refusal :=
  .next (match s.thread? th with
    | some x => if x.preempt then cancelForSave s th else s
    | none => s)

/-- At a restore, the cancelled operations run again from their start, in their issue order, and their carriages' RST is
set (R346). -/
def rerunCancelled (s : State) (id : ThreadId) : State :=
  match s.thread? id with
  | none => s
  | some th =>
    let fresh (o : EngOpRec) : EngOpRec := { o with running := false, suspended := false, moving := none, link := none, done := 0, word := 0, fail := 0 }
    let isCopy (o : EngOpRec) : Bool := o.op == .cp || o.op == .cpq || o.op == .cpg
    let ops := th.cancelled.map fresh
    let k := s.core th.core
    let mark (c : Carriage) : Carriage := if ops.any fun o => o.carriage == c.serial then { c with rst := true } else c
    (s.setCore th.core { k with copyQ := k.copyQ ++ ops.filter isCopy, matrixQ := k.matrixQ ++ ops.filter fun o => !isCopy o }).setThread
      { th with cancelled := [], carriage := mark th.carriage, sealed := th.sealed.map mark }

end Sys2Proof.Machine
end

