-- ==== Sys2Proof/Machine/Page.lean ====
section
/-! DEFINITION. Translations removed and pages moved (21_page R406..R417): `tlbi`, the moves that MIGGO commands, and the
thrash detector. -/

namespace Sys2Proof.Machine

/-! ### Removing translations (R409, R412) -/

/-- The thread's own context and partition match a CTXID test. -/
def inContext (s : State) (p : Nat) (test : Nat → Bool) (th : Thread) : Bool :=
  match th.id with
  | .grp q _ _ => q == p && test (16 * p + th.ctx)
  | .sys _ => partOf s th.id == p && test (16 * p)

/-- The base register is GLOBAL and its leaf is among those removed. -/
def BaseReg.covered (b : BaseReg) (gone : Leaf → Bool) : Bool := b.valid && b.kind == .global && gone b.leaf

/-- The leaves that `removeTranslations` removes. -/
def removedLeaves (s : State) (p : Nat) (test : Nat → Bool) (gone : Leaf → Bool) : List Leaf :=
  ((coresOf s p).map fun c => ((s.core c).tlb.filter fun e => test e.ctxid && gone e.leaf).map (·.leaf)).flatten ++
  ((s.threads.filter fun th => inContext s p test th && th.run != .saved).map fun th =>
    (th.bases.filter fun b => b.covered gone).map (·.leaf)).flatten

/-- FRAME of a GLOBAL base register, the physical address of VBASE (11 R246), lies in the page of a leaf. -/
def BaseReg.frameIn (b : BaseReg) (e : Leaf) : Bool :=
  b.valid && b.kind == .global &&
  (let k := b.leaf.key b.vbase.toNat
   e.key e.page ≤ k && k < e.key e.page + pageBytes e.level)

/-- Removes, in every core of partition p, the TLB entries whose CTXID passes `test` and whose leaf `gone` names; the
GLOBAL base registers of its threads with such a leaf, or whose FRAME lies in a removed page, have their LIMIT set to 0 (R409). -/
def removeTranslations (s : State) (p : Nat) (test : Nat → Bool) (gone : Leaf → Bool) : State :=
  let rs := removedLeaves s p test gone
  let s1 := (coresOf s p).foldl (fun s c =>
    let k := s.core c
    if k.tlb.any fun e => test e.ctxid && gone e.leaf then
      s.setCore c { k with tlb := k.tlb.filter fun e => !(test e.ctxid && gone e.leaf) }
    else s) s
  s1.mapThreads fun th =>
    if partOf s th.id == p && th.run != .saved then
      { th with bases := th.bases.map fun b =>
          if (inContext s p test th && b.covered gone) || rs.any b.frameIn then { b with limit := 0 } else b }
    else th

/-- The accesses in flight of the partition's threads that went through the leaves. -/
def accessesThrough (s : State) (p : Nat) (leaves : List Leaf) : List Nat :=
  (s.accs.filter fun a => partOf s a.th == p && a.space == .global && a.todo.any fun l =>
    leaves.any fun e => e.page ≤ l.ea.toNat && l.ea.toNat < e.page + pageBytes e.level).map (·.id)

/-- `tlbi`: the thread's earlier accesses are performed, the translations go, and the accesses in flight through them
are performed (R409). -/
def tlbi (i : Instr) (f : Fields) (test : State → Nat → Thread → Nat → Bool) (gone : Thread → Leaf → Bool) (s : State) :
    Host.Outcome State Fault Refusal :=
  control i f (fun s th =>
    let p := partOf s th.id
    if !quietThread s th.id then .error (.wait .quiet)
    else
      let t := test s p th
      let busy := accessesThrough s p (removedLeaves s p t (gone th))
      let s1 := removeTranslations s p t (gone th)
      if busy.isEmpty then .ok (finish s1 ((s1.thread? th.id).getD th) s.cur f .none)
      else .error (.parkWait (stall s1 th.id (.accesses busy)))) s

/-- The context that s[B][15:0] names, where the partition has it. -/
def ctxTest (f : Fields) (s : State) (p : Nat) (th : Thread) (id : Nat) : Bool :=
  let ctx := (th.regs.srcS f.b).toNat % 65536
  id == ctx && ctx / 16 == p && ctx % 16 < (s.part p).nctx

/-- `tlbi va` (R409). -/
def execTlbiVa (f : Fields) (s : State) : Host.Outcome State Fault Refusal :=
  tlbi (.tlbiVa f) f (ctxTest f) (fun th l =>
    let va := (th.regs.readX f.a.toNat).toNat
    l.page ≤ va && va < l.page + pageBytes l.level) s

/-- `tlbi ctx` (R409). -/
def execTlbiCtx (f : Fields) (s : State) : Host.Outcome State Fault Refusal :=
  tlbi (.tlbiCtx f) f (ctxTest f) (fun _ _ => true) s

/-- `tlbi all` (R409). -/
def execTlbiAll (f : Fields) (s : State) : Host.Outcome State Fault Refusal :=
  tlbi (.tlbiAll f) f (fun _ p _ id => id / 16 == p) (fun _ _ => true) s

/-! ### Moves (R410..R412) -/

/-- The level of the table, among those under `table` of a level, in which the entry at `pte` lies; `fuel` is the levels
left. -/
def levelIn (s : State) (pte : Nat) : Nat → Nat → Nat → Option Nat
  | 0, _, _ => none
  | fuel + 1, level, table =>
    let n := match level with
      | 0 => 2 ^ 13
      | 3 => 2 ^ 5
      | _ => 2 ^ 9
    if table ≤ pte && pte < table + 8 * n then some level
    else if level == 3 then none
    else (List.range n).findSome? fun i =>
      let e := readHome s (table + 8 * i) 8
      if bitSet e 0 && !bitSet e 1 then levelIn s pte fuel (level + 1) (e / 2 ^ 8 % 2 ^ 44 * 2 ^ 8) else none

/-- The level at which the tables of the partition's contexts hold the entry at `pte` (log 19). -/
def leafLevel (s : State) (p pte : Nat) : Option Nat :=
  (List.range (s.part p).nctx).findSome? fun c => levelIn s pte 4 0 (tget {} c (s.part p).ctxs).root

/-- The n bytes at `pa` lie in a memory tier: 0 HBM, 1 the second tier (R402). -/
def inTier (loc pa n : Nat) : Bool :=
  if loc == 0 then pa + n ≤ 2 ^ 39 else 2 ^ 40 ≤ pa && paExists (pa + n - 1) && pa + n ≤ 2 ^ 43

/-- Sets a field of the leaf at `pte` by one atomic at home: bits from `lo`, `n` of them (R412). -/
def writeLeafField (s : State) (pte lo n x : Nat) : State :=
  let e := readHome s pte 8
  paWrite s pte 8 (e - e / 2 ^ lo % 2 ^ n * 2 ^ lo + x % 2 ^ n * 2 ^ lo)

/-- Ends a move command with its code (R411). -/
def moveResult (s : State) (p code : Nat) (busy : Bool) : State :=
  let x := s.part p
  s.setPart p { x with reg := { x.reg with migRes := BitVec.ofNat 8 code, migBusy := busy } }

/-- A command that passes the detector: STATE becomes 01 and the page's translations go in every context of the
partition (R412 steps 1 and 2). -/
def beginMove (s : State) (p : Nat) (m : Move) : State :=
  let s1 := writeLeafField s m.pte 58 2 1
  let s2 := removeTranslations s1 p (fun id => id / 16 == p) (fun l => l.pte == m.pte)
  let x := s2.part p
  s2.setPart p { x with move := some m, reg := { x.reg with migBusy := true } }

/-- The thrash detector's count of a command (R414): the entries, and whether the command pins; `none` where every entry
is pinned. -/
def thrashCount (x : Partition) (now pte : Nat) : Option (List ThrashEntry × Bool) :=
  let es := x.thrash
  let win := x.reg.migwin.toNat * 65536000
  let bump (e : ThrashEntry) : ThrashEntry :=
    let e1 := if win < now - e.w0 then { e with w0 := now, n := 0 } else e
    { e1 with n := e1.n + 1 }
  let close (es : List ThrashEntry) (e : ThrashEntry) : List ThrashEntry × Bool :=
    let e1 := bump e
    let pins := x.reg.mign.toNat < e1.n
    let e2 := if pins then { e1 with pinEnd := some (now + x.reg.mighold.toNat * 65536000) } else e1
    ((es.filter fun y => y.leaf != pte) ++ [e2], pins)
  match es.find? fun e => e.leaf == pte with
  | some e => some (close es e)
  | none =>
    let fresh : ThrashEntry := { leaf := pte, w0 := now, n := 0 }
    if es.length < 1024 then some (close es fresh)
    else match es.filter fun e => e.pinEnd.isNone with
      | [] => none
      | y :: ys =>
        let oldest := ys.foldl (fun (b : ThrashEntry) e => if e.w0 < b.w0 || (e.w0 == b.w0 && e.leaf < b.leaf) then e else b) y
        some (close (es.filter fun e => e.leaf != oldest.leaf) fresh)

/-- A write of MIGGO (R411, R414). -/
def moveCommand (s : State) (p : Nat) (value : DWord) : State :=
  let x := s.part p
  let pte := x.reg.migpte.toNat
  let e := readHome s pte 8
  let loc := value.toNat / 2 ^ 56 % 4
  let frame := value.toNat / 2 ^ 16 % 2 ^ 36 * 2 ^ 16
  if x.reg.migBusy then moveResult s p stBusy true
  else match leafLevel s p pte with
    | none => moveResult s p stBadMove false
    | some level =>
      let l := leafOf e pte level 0
      let bytes := pageBytes level
      if !bitSet e 0 || !bitSet e 1 || level == 0 || leafMalformed x e level l || 2 ≤ l.loc || 2 ≤ loc || loc == l.loc ||
          frame % bytes != 0 || !inTier loc frame bytes then moveResult s p stBadMove false
      else if l.state == 2 then moveResult s p stPinned false
      else
        let m : Move := { pte, level, oldFrame := l.frame, loc, frame, pin := false }
        match thrashCount x (x.gt.now s).toNat pte with
        | none => beginMove s p m
        | some (es, pins) =>
          let s1 := s.setPart p { x with thrash := es }
          if !pins then beginMove s1 p m
          else if loc == 1 then beginMove s1 p { m with pin := true }
          else moveResult (writeLeafField s1 pte 58 2 2) p stPinned false

/-- MIGGO_MOVE (R411). -/
def execMiggoMove (part : Nat) (value : DWord) (s : State) : Host.Outcome State Fault Refusal := .next (moveCommand s part value)

/-- The byte at `key` lies in the old frame of a move. -/
def Move.has (m : Move) (key : Nat) : Bool := m.oldFrame ≤ key && key < m.oldFrame + pageBytes m.level

/-- The accesses in flight to a moving page are performed (R412 step 2). A deferred future request, held apart from the line (11
R263), and an access that has not started go with the page instead: the first could wait for a fill that waits for the page (log
60). -/
def moveReady (s : State) (m : Move) : Bool :=
  !(s.accs.any fun a => a.started && a.space == .global && a.todo.any fun l => m.has l.key &&
    !(s.homes.any fun h => h.2.deferred.any fun d => d.acc == a.id && d.key == l.key))

/-- The accesses that go with the page name its new frame. -/
def rekey (s : State) (m : Move) : State :=
  let newKey (key : Nat) : Nat := if m.has key then key - m.oldFrame + m.frame else key
  { s with accs := s.accs.map fun a => if a.space == .global then
      { a with lanes := a.lanes.map fun l => if l.done then l else { l with key := newKey l.key } } else a }

/-- MOVE_COMPLETE (R412 steps 3 to 5): the lines are recalled and moved, and the leaf names the new frame. Ticket units that
wait for the page try again. -/
def completeMove (s : State) (p : Nat) : State :=
  match (s.part p).move with
  | none => s
  | some m =>
    if !moveReady s m then s
    else
      let s0 := (List.range (pageBytes m.level / 128)).foldl (fun s i => moveLine s (m.oldFrame / 128 + i) (m.frame / 128 + i)) s
      let s1 := moveDeferred (rekey s0 m) fun key => if m.has key then some (key - m.oldFrame + m.frame) else none
      let e := readHome s1 m.pte 8
      let keep := e % 2 ^ 16 + e / 2 ^ 52 % 2 ^ 4 * 2 ^ 52 + e / 2 ^ 60 * 2 ^ 60
      let s2 := paWrite s1 m.pte 8 (keep + m.frame / 2 ^ 16 % 2 ^ 36 * 2 ^ 16 + m.loc * 2 ^ 56 + (if m.pin then 2 ^ 59 else 0))
      let x := s2.part p
      let s3 := moveResult (s2.setPart p { x with move := none }) p stOk false
      s3.pushAll ((x.kernels.filter fun k => k.2.desc.det).map fun k => .ticketPerform p k.1)

/-- MOVE_COMPLETE (R412). -/
def execMoveComplete (part : Nat) (s : State) : Host.Outcome State Fault Refusal := .next (completeMove s part)

/-- PIN_END (R414): the leaf's STATE returns to 00 and the detector's entry goes. -/
def endPin (s : State) (p leaf : Nat) : State :=
  let x := s.part p
  let s1 := s.setPart p { x with thrash := x.thrash.filter fun e => e.leaf != leaf }
  if readHome s1 leaf 8 / 2 ^ 58 % 4 == 2 then writeLeafField s1 leaf 58 2 0 else s1

/-- PIN_END (R414). -/
def execPinEnd (part leaf : Nat) (s : State) : Host.Outcome State Fault Refusal := .next (endPin s part leaf)

end Sys2Proof.Machine
end

