-- ==== Sys2Proof/Machine/Queue.lean ====
section
/-! DEFINITION. Queues (19_queue R353..R377): the queue instructions, the commands of QCMD, aging and the stage
governor. What a push, a pop and a delivery do to a queue is in Ops.lean. -/

namespace Sys2Proof.Machine

/-- Runs a queue instruction that is a release once the group's earlier accesses are performed (R371, R373, R374, R375). -/
def queueOp (i : Instr) (f : Fields) (body : State → Thread → Res State) (s : State) : Host.Outcome State Fault Refusal :=
  control i f (fun s th => if quietThread s th.id then body s th else .error (.wait .quiet)) s

/-- Ends a queue instruction with a STATUS code and a result. -/
def queueEnd (s : State) (th before : Thread) (f : Fields) (code : Nat) (v : Value) : State :=
  finish s { th with regs := th.regs.setStatus code } before f v

/-- `qpush` (R371). -/
def execQpush (f : Fields) (s : State) : Host.Outcome State Fault Refusal :=
  queueOp (.qpush f) f (fun s th =>
    let (code, s1) := pushHandle s (partOf s th.id) (th.regs.readX f.a.toNat) (th.regs.readCart f.c.toNat)
    .ok (queueEnd s1 th s.cur f code .none)) s

/-- A pop on a queue that its handle names (R372); `try_` says that it does not wait. The thread of `s` is `th`. -/
def popQueue (s : State) (th : Thread) (f : Fields) (q0 : Queue) (try_ : Bool) : State :=
  let before := s.cur
  let none_ (code : Nat) : State := queueEnd s th before f code .none
  if q0.stream && th.stream.isSome then none_ stHeld
  else
    let (s1, q) := unswapFor s q0
    let taken := if popsHeld s q then none else q.pop s.mesh
    match taken with
    | some (c, q1) =>
      let s2 := deliver (s1.setThread th) q1 th.id f.d.toNat c
      drainCheck (finish s2 ((s2.thread? th.id).getD th) before f .none) q.id
    | none =>
      let empty := q.count == 0 && !popsHeld s q
      if try_ then queueEnd s1 th before f stEmpty .none
      else if q.st == .draining && empty then queueEnd s1 th before f stClosed .none
      else
        (s1.setQueue { q with waiters := q.waiters ++ [(th.id, f.d.toNat)] }).setThread
          { th with run := .waiting (.cart q.id f.d.toNat) }

/-- A pop through a handle (R372). -/
def popHandle (s : State) (th : Thread) (f : Fields) (h : DWord) (try_ : Bool) : State :=
  match findQueue s (partOf s th.id) h (qPop h) with
  | .error c => queueEnd s th s.cur f c .none
  | .ok q => popQueue s th f q try_

/-- `qpop` (R372). -/
def execQpop (f : Fields) (s : State) : Host.Outcome State Fault Refusal :=
  control (.qpop f) f (fun s th =>
    let try_ := f.ax.toNat % 2 == 1
    match f.ax.toNat / 2, th.id with
    | 0, _ => .ok (popHandle s th f (th.regs.readX f.a.toNat) try_)
    | _, .sys _ => trap ILLEGAL
    | 1, .grp _ _ _ =>
      let th1 := { th with subscribed := true, regs := { th.regs with sr := { th.regs.sr with stage := th.pendingStage } } }
      let h := ((kernelOf s th).stages.getD th.pendingStage.toNat {}).handle
      if h == 0 then .ok (queueEnd s th1 s.cur f stHandle .none) else .ok (popHandle s th1 f h try_)
    | _, .grp p k _ =>
      let id : QueueId := .data p k th.core
      .ok (popQueue s th f ((s.queue? id).getD (freshQueue id p)) try_)) s

/-- `qdone` (R373). -/
def execQdone (f : Fields) (s : State) : Host.Outcome State Fault Refusal :=
  queueOp (.qdone f) f (fun s th =>
    let h := th.regs.readX f.a.toNat
    match findQueue s (partOf s th.id) h (qPop h) with
    | .error c => .ok (queueEnd s th s.cur f c .none)
    | .ok q =>
      if (th.stream.map (·.1)) == some q.id then
        .ok (releaseStream (queueEnd s th s.cur f stOk .none) th.id)
      else .ok (queueEnd s th s.cur f stNotHeld .none)) s

/-! ### Spawn and join (R363, R364, R374, R375) -/

/-- The first of `cs` above `c`, or the least. -/
def nextCore (c : Nat) (cs : List Nat) : Option Nat :=
  match (sortAsc cs).find? fun x => c < x with
  | some x => some x
  | none => (sortAsc cs).head?
where
  ins (x : Nat) : List Nat → List Nat
    | [] => [x]
    | y :: ys => if x ≤ y then x :: y :: ys else y :: ins x ys
  sortAsc (l : List Nat) : List Nat := l.foldl (fun a x => ins x a) []

/-- The core that a spawn at this key aims at (R374). -/
def spawnCore (s : State) (th : Thread) (kind : BaseKind) (key : Nat) : Nat :=
  if localKind kind || 2 ^ 53 ≤ key then th.core else homeOf s (key / 128)

/-- The cores on which groups of the thread's kernel are. -/
def kernelCores (s : State) (id : ThreadId) : List Nat :=
  match id with
  | .grp p k _ => ((s.threads.filter fun x => match x.id with
      | .grp p' k' _ => p' == p && k' == k && x.run != .saved
      | .sys _ => false).map (·.core)).eraseDups
  | .sys _ => []

/-- The core whose data queue takes the cart (R374). -/
def dataCore (s : State) (id : ThreadId) (target : Nat) : Nat :=
  let cs := kernelCores s id
  if cs.contains target then target
  else match nextCore target (cs.filter fun c => c / 96 == target / 96) with
    | some c => c
    | none => (nextCore 1000 cs).getD target

/-- `qspawn` (R374): a system core runs no kernel, so its data queue is that of no group (log 16). -/
def execQspawn (f : Fields) (s : State) : Host.Outcome State Fault Refusal :=
  queueOp (.qspawn f) f (fun s th =>
    let b := th.bases.getD f.a.toNat {}
    match resolve s th b { perm := .load, width := 1, align := 1, writes := false } 0 true [(0, (th.regs.srcBS f).toNat)] with
    | .error e => .error e
    | .ok r =>
      match r.page, r.lanes with
      | some (detail, va, u), _ => .error (.park detail va u r.st)
      | none, l :: _ =>
        let (p, k) := match th.id with
          | .grp p k _ => (p, k)
          | .sys _ => (partOf s th.id, 64)
        let id : QueueId := .data p k (dataCore s th.id (spawnCore s th b.kind l.key))
        let s1 := if (r.st.queue? id).isSome then r.st else r.st.setQueue (freshQueue id p)
        let ws := th.regs.readCart f.c.toNat
        let (code, s2) := pushCart s1 ((s1.queue? id).getD (freshQueue id p)) ws (cartPrio ws)
        .ok (queueEnd s2 th s.cur f code .none)
      | none, [] => .ok r.st) s

/-- The join record at a key: its old COUNT, the state and STATUS after the decrement (R364, R375). -/
def joinAt (s : State) (th : Thread) (key : Nat) : Nat × Nat × State :=
  let s1 := dropLease (contact s th.core (homeOf s (key / 128))) th.core (key / 128)
  let old := readHome s1 key 4
  if old == 0 then (old, stUnderflow, settle s1 (key / 128))
  else
    let s0 := match ownerOf s1 (key / 128) with
      | some o => addShare s1 o th.core 4
      | none => s1
    let (s2, _, _) := opHome s0 key 4 (some (s0.core th.core).lclk) (some th.id) fun x => x - 1
    if old == 1 then
      let h := BitVec.ofNat 64 (readHome s2 (key + 8) 8)
      let ws := (List.range 8).map fun i => BitVec.ofNat 32 (readHome s2 (key + 32 + 4 * i) 4)
      let (code, s3) := pushHandle s2 (partOf s2 th.id) h ws
      (old, code, s3)
    else (old, stOk, s2)

/-- `qjoin` (R375), a release held by an event of the regroup engine under scope `.clu` (13 R279). It counts in SC from its issue
until its decrement has been performed (04 R106), which its queue unit answers in the same step. -/
def execQjoin (f : Fields) (s : State) : Host.Outcome State Fault Refusal :=
  control (.qjoin f) f (fun s th =>
    let b := th.bases.getD f.a.toNat {}
    let off := (th.regs.srcBS f).toNat
    let ea := (b.ea off).toNat
    if counterFull th false true then .error (.wait (.counter false true))
    else if !quietThread s th.id then .error (.wait .quiet)
    else if regroupHeld s th.core (scopeOf f) .global then .error (.wait .regroup)
    else if b.valid && ea % 64 == 0 && b.kind != .global && b.kind != .chip then .error (.trap BOUNDS (memDetail 1 0) ea 0)
    else match resolve s th b { perm := .store, width := 4, align := 64, writes := true } 2 true [(0, off)] with
      | .error e => .error e
      | .ok r =>
        match r.page, r.lanes with
        | some (detail, va, u), _ => .error (.park detail va u r.st)
        | none, l :: _ =>
          if !lineReachable r.st (dieOfCore th.core) l.key then .error (.wait (.link l.key))
          else
            let issued := { th with sc := th.sc + 1 }
            let (old, code, s1) := joinAt (r.st.setThread issued) issued l.key
            let th1 := (s1.thread? th.id).getD issued
            .ok (queueEnd s1 { th1 with sc := th1.sc - 1 } s.cur f code (.s (BitVec.ofNat 32 old)))
        | none, [] => .ok r.st) s

/-- `qstat` (R376). -/
def execQstat (f : Fields) (s : State) : Host.Outcome State Fault Refusal :=
  control (.qstat f) f (fun s th =>
    let h := th.regs.readX f.a.toNat
    match findQueue s (partOf s th.id) h (qStat h) with
    | .error c => .ok (queueEnd s th s.cur f c (.s 0))
    | .ok q =>
      let x : Word := match f.ax.toNat with
        | 0 => BitVec.ofNat 32 q.count
        | 1 => (match q.st with
          | .active => 1
          | .swapped => 2
          | _ => 3)
        | 2 => q.drops
        | _ => BitVec.ofNat 32 q.held.length
      .ok (queueEnd s th s.cur f stOk (.s x))) s

/-! ### Queue commands (R358, R360) -/

/-- Records the outcome of a queue command. -/
def qcmdResult (s : State) (p : Nat) (code : Nat) : State :=
  let x := s.part p
  s.setPart p { x with reg := { x.reg with qcmdRes := BitVec.ofNat 8 code } }

/-- INDEX of QCMD takes the command's index, which must be one of the partition's (R358). -/
def qcmd (s : State) (p i : Nat) (k : State → Queue → State) : State :=
  let x := s.part p
  let s1 := s.setPart p { x with reg := { x.reg with qcmdIndex := BitVec.ofNat 16 i } }
  if i < x.qbase || x.qbase + x.qnum ≤ i then qcmdResult s1 p stStale
  else k s1 ((s1.queue? (.table i)).getD { id := .table i, part := p })

/-- The descriptor's fields as CREATE reads them; `none` where R355 refuses them. -/
def readQueueDesc (s : State) (p i : Nat) (q : Queue) : Option Queue :=
  let a := descAddr s p i
  let ring := paRead s a 8
  let cap := paRead s (a + 8) 1
  let scope := paRead s (a + 9) 1
  let mode := paRead s (a + 10) 1
  let reserved := (paRead s (a + 11) 1 + paRead s (a + 12) 4 + paRead s (a + 52) 4 + paRead s (a + 56) 8)
  if reserved != 0 || 4 ≤ mode || cap < 6 || 20 < cap || scope < 1 || 4 < scope || ring % 4096 != 0 then none
  else some { q with part := p, st := .active, ring := BitVec.ofNat 64 ring, cap, scope, stream := bitSet mode 0,
                     ingress := bitSet mode 1, drops := BitVec.ofNat 32 (paRead s (a + 48) 4),
                     levels := [[], [], [], []], held := [], waiters := [], agedTo := s.mesh }

/-- CREATE (R360, R357); 0x02 where its unit has no room and can make none (log 58). -/
def qcmdCreate (s : State) (p i : Nat) : State :=
  qcmd s p i fun s q =>
    if q.st != .free && q.st != .destroyed then qcmdResult s p stClosed
    else match readQueueDesc s p i q with
      | none => qcmdResult s p stHandle
      | some q1 =>
        match makeRoom s (i % 4) with
        | none => qcmdResult s p stFull
        | some s0 =>
          let (c, s1) := s0.drawCode q.code
          let s2 := s1.setQueue { q1 with code := c }
          let x := s2.part p
          qcmdResult (s2.setPart p { x with reg := { x.reg with qres := BitVec.ofNat 64 (7 * 2 ^ 40 + c.toNat * 2 ^ 16 + i) } }) p stOk

/-- SWAP (R360). -/
def qcmdSwap (s : State) (p i : Nat) : State :=
  qcmd s p i fun s q => if q.st == .active then qcmdResult (swapOut s q) p stOk else qcmdResult s p stClosed

/-- UNSWAP (R360); 0x02 where its unit has no room and can make none (log 58). -/
def qcmdUnswap (s : State) (p i : Nat) : State :=
  qcmd s p i fun s q =>
    if q.st == .swapped then
      let (s1, q1) := unswapFor s q
      qcmdResult s1 p (if q1.st == .active then stOk else stFull)
    else qcmdResult s p stClosed

/-- DRAIN (R360). -/
def qcmdDrain (s : State) (p i : Nat) : State :=
  qcmd s p i fun s q =>
    if q.st == .active || q.st == .swapped then qcmdResult (drainCheck (s.setQueue { q with st := .draining }) q.id) p stOk
    else qcmdResult s p stClosed

/-- DISCARD (R360). -/
def qcmdDiscard (s : State) (p i : Nat) : State :=
  qcmd s p i fun s q =>
    if q.st == .active || q.st == .swapped || q.st == .draining then qcmdResult (discardQueue s q .destroyed) p stOk
    else qcmdResult s p stClosed

/-- Codes 0, 6 and 7 (R358). -/
def qcmdNone (s : State) (p i : Nat) : State := qcmd s p i fun s _ => qcmdResult s p stHandle

/-- A write of QCMD (R358). -/
def queueCommand (s : State) (p : Nat) (x : DWord) : State :=
  let i := (x.extractLsb' 0 16).toNat
  match (x.extractLsb' 16 3).toNat with
  | 1 => qcmdCreate s p i
  | 2 => qcmdSwap s p i
  | 3 => qcmdUnswap s p i
  | 4 => qcmdDrain s p i
  | 5 => qcmdDiscard s p i
  | _ => qcmdNone s p i

/-- QCMD_CREATE (R360). -/
def execQcmdCreate (part index : Nat) (s : State) : Host.Outcome State Fault Refusal := .next (qcmdCreate s part index)
/-- QCMD_SWAP (R360). -/
def execQcmdSwap (part index : Nat) (s : State) : Host.Outcome State Fault Refusal := .next (qcmdSwap s part index)
/-- QCMD_UNSWAP (R360). -/
def execQcmdUnswap (part index : Nat) (s : State) : Host.Outcome State Fault Refusal := .next (qcmdUnswap s part index)
/-- QCMD_DRAIN (R360). -/
def execQcmdDrain (part index : Nat) (s : State) : Host.Outcome State Fault Refusal := .next (qcmdDrain s part index)
/-- QCMD_DISCARD (R360). -/
def execQcmdDiscard (part index : Nat) (s : State) : Host.Outcome State Fault Refusal := .next (qcmdDiscard s part index)
/-- QCMD_NONE (R358). -/
def execQcmdNone (part index : Nat) (s : State) : Host.Outcome State Fault Refusal := .next (qcmdNone s part index)

/-! ### Aging and the governor (R362, R366) -/

/-- QUEUE_AGING (R362): a due cart of the level moves up. -/
def execQueueAging (queue : QueueId) (level : Nat) (s : State) : Host.Outcome State Fault Refusal :=
  .next (match s.queue? queue with
    | some q => serve (s.setQueue (ageLevel s.mesh q level)) queue
    | none => s)

/-- Occupancy of a present stage: its queue's carts. -/
def stageOcc (s : State) (p : Nat) (st : Stage) : Option Nat :=
  if st.handle == 0 then none
  else match findQueue s p st.handle true with
    | .ok q => some q.count
    | .error _ => none

/-- The subscribed groups of a stage, by GID (R365, R366). -/
def stageGroups (s : State) (p kn st : Nat) : List Nat :=
  s.threads.filterMap fun th => match th.id with
    | .grp p' k' g => if p' == p && k' == kn && th.subscribed && th.run != .retired && th.pendingStage.toNat == st then some g else none
    | .sys _ => none

/-- The governor's evaluation of a kernel (R366). -/
def governor (s : State) (p kn : Nat) : State :=
  match s.kernel? p kn with
  | none => s
  | some k =>
    let occ := (List.range 16).filterMap fun i => match k.stages[i]? with
      | some st => (stageOcc s p st).map fun o => (i, st, o)
      | none => none
    let high := occ.filter fun x => x.2.1.high.toNat ≤ x.2.2
    let low := occ.filter fun x => x.2.2 ≤ x.2.1.low.toNat && 2 ≤ (stageGroups s p kn x.1).length
    match high, low with
    | h :: hs, l :: ls =>
      let a := hs.foldl (fun b x => if b.2.2 < x.2.2 then x else b) h
      let t := ls.foldl (fun b x => if x.2.2 < b.2.2 then x else b) l
      if a.1 == t.1 then s
      else
        let g := (stageGroups s p kn t.1).foldl (fun m x => if m < x then x else m) 0
        s.onThread (.grp p kn g) fun th => { th with pendingStage := BitVec.ofNat 4 a.1 }
    | _, _ => s

/-- GOVERNOR_EVAL (R366). -/
def execGovernorEval (part kern : Nat) (s : State) : Host.Outcome State Fault Refusal := .next (governor s part kern)

end Sys2Proof.Machine
end

