-- ==== Sys2Proof/Machine/Scope.lean ====
section
/-! DEFINITION. Scope handles and their instructions (13_scope R286..R294, 11 R252), the clusters of a partition (R271), and
the regroup engine (R274..R283). -/

namespace Sys2Proof.Machine

/-! ### Handles (R286, R287) -/

def hKind (h : DWord) : Nat := (h.extractLsb' 60 3).toNat
def hDie (h : DWord) : Nat := (h.extractLsb' 56 2).toNat
def hSlot (h : DWord) : Nat := (h.extractLsb' 48 8).toNat
def hChk (h : DWord) : BitVec 24 := h.extractLsb' 24 24

/-- A handle with FRZ 0 (R286). -/
def mkHandle (kind die slot : Nat) (chk : BitVec 24) : DWord :=
  BitVec.ofNat 64 (kind * 2 ^ 60 + die * 2 ^ 56 + slot * 2 ^ 48 + chk.toNat * 2 ^ 24)

/-- FRZ of a handle. -/
def setFrz (h : DWord) (b : Bool) : DWord := if b then h ||| (1#64 <<< 63) else h &&& ~~~(1#64 <<< 63)

/-- A handle is malformed (R286). -/
def hMalformed (h : DWord) : Bool :=
  h.extractLsb' 58 2 != 0 || h.extractLsb' 0 24 != 0 || 4 ≤ hKind h ||
  (hKind h == 0 && 192 ≤ hSlot h && hSlot h ≤ 254) || (hKind h == 1 && 192 ≤ hSlot h) ||
  (hKind h ≤ 1 && hSlot h != 255 && hDie h != hSlot h / 48) ||
  (hKind h == 3 && (hSlot h != 0 || hChk h != 0))

/-- The states of R287. -/
inductive HandleState where
  | live
  | frozen
  | stale
  deriving DecidableEq, Repr

/-- The placement code of a team of the thread's kernel. -/
def teamCode (s : State) (th : Thread) (n : Nat) : Option (BitVec 24) :=
  ((kernelOf s th).teams.find? fun t => t.num == n).map (·.code)

/-- The state of a well-formed handle for the issuing group (R287). -/
def handleState (s : State) (th : Thread) (h : DWord) : HandleState :=
  match hKind h with
  | 3 => .live
  | 2 => if teamCode s th (hSlot h) == some (hChk h) then .live else .stale
  | _ =>
    if hSlot h == 255 then .live
    else
      let x := s.slot (hSlot h)
      if !x.inUse || x.code != hChk h || x.part != partOf s th.id then .stale
      else if th.frozen.any fun e => e.1 == hSlot h then .frozen
      else .live

/-- Any of these instructions waits while an event of its die holds it (R279, R294). -/
def scopeHeld (s : State) (core : Nat) (freeze : Bool) : Bool :=
  core < 384 && match (s.die (dieOfCore core)).regroup with
  | some r => freeze || r.affected.contains core
  | none => false

/-- A scope instruction: held by R279, else `body` answers the thread (STATUS written) and the result. -/
def scopeOp (i : Instr) (f : Fields) (freeze : Bool) (body : State → Thread → Thread × Value) (s : State) :
    Host.Outcome State Fault Refusal :=
  control i f (fun s th =>
    if scopeHeld s th.core freeze then .error (.wait .regroup)
    else
      let (th1, v) := body s th
      .ok (finish s th1 s.cur f v)) s

/-- The thread with STATUS written. -/
def Thread.status (th : Thread) (code : Nat) : Thread := { th with regs := th.regs.setStatus code }

/-- `scget` (R290). -/
def execScget (f : Fields) (s : State) : Host.Outcome State Fault Refusal :=
  scopeOp (.scget f) f false (fun s th =>
    let d := dieOfCore th.core
    let n := (th.regs.srcS f.a).toNat
    match f.ax.toNat with
    | 0 => (th.status stOk, .x (match slotOfCore s th.core with
        | some k => mkHandle 0 d k (s.slot k).code
        | none => mkHandle 0 d 255 0))
    | 1 =>
      if 192 ≤ n then (th.status stHandle, .x 0)
      else
        let x := s.slot n
        if x.inUse && x.part == partOf s th.id then (th.status stOk, .x (mkHandle 1 (n / 48) n x.code))
        else (th.status stStale, .x (mkHandle 1 (n / 48) n 0))
    | 2 => match teamCode s th (n % 256) with
      | some c => (th.status stOk, .x (mkHandle 2 d (n % 256) c))
      | none => (th.status stStale, .x (mkHandle 2 d (n % 256) 0))
    | _ => (th.status stOk, .x (mkHandle 3 d 0 0))) s

/-- The members of a well-formed handle (R291). -/
def handleMembers (s : State) (th : Thread) (h : DWord) : List Nat :=
  match hKind h with
  | 3 => (bitMembers (s.part (partOf s th.id)).cores 384).filter fun c => dieOfCore c == hDie h
  | 2 => match (kernelOf s th).teams.find? fun t => t.num == hSlot h, th.id with
    | some t, .grp p k _ =>
      (List.range 384).filter fun c => dieOfCore c == hDie h && s.threads.any fun x => x.core == c && x.run != .saved &&
        match x.id with
        | .grp p' k' g => p' == p && k' == k && t.members.contains g
        | .sys _ => false
    | _, _ => []
  | _ =>
    if hSlot h == 255 then [th.core]
    else
      let x := s.slot (hSlot h)
      if x.inUse && x.part == partOf s th.id then x.members else []

/-- `scq` (R291). -/
def execScq (f : Fields) (s : State) : Host.Outcome State Fault Refusal :=
  scopeOp (.scq f) f false (fun s th =>
    let h := th.regs.readX f.a.toNat
    let info := f.ax == 1
    if hMalformed h then (th.status stHandle, if info then .s 0 else .z 0)
    else
      let st := handleState s th h
      let ms := handleMembers s th h
      let code := if st == .stale then stStale else stOk
      if info then
        let c := match st with
          | .live => 0
          | .frozen => 1
          | .stale => 2
        (th.status code, .s (BitVec.ofNat 32 (ms.length % 256 + hSlot h * 2 ^ 8 + hDie h * 2 ^ 16 + c * 2 ^ 18)))
      else
        (th.status code, .z ((ms.filter fun c => dieOfCore c == hDie h).foldl (fun (z : Mask) c => z ||| (1#96 <<< (c % 96))) 0)))
    s

/-- Frozen entries of all groups resident on a core (R288). -/
def frozenOnCore (s : State) (core : Nat) : Nat :=
  s.threads.foldl (fun n th => if th.core == core && th.run != .saved then n + th.frozen.length else n) 0

/-- `scfrz` (R292). -/
def execScfrz (f : Fields) (s : State) : Host.Outcome State Fault Refusal :=
  scopeOp (.scfrz f) f true (fun s th =>
    let h := th.regs.readX f.a.toNat
    let slot := hSlot h
    if hMalformed h || 1 < hKind h || slot == 255 then (th.status stHandle, .x h)
    else if handleState s th h == .stale then (th.status stStale, .x h)
    else match th.frozen.find? fun e => e.1 == slot with
      | some e =>
        if e.2 == 255 then (th.status stFull, .x h)
        else ({ th.status stOk with frozen := th.frozen.map fun x => if x.1 == slot then (x.1, x.2 + 1) else x },
              .x (setFrz h true))
      | none =>
        if 8 ≤ frozenOnCore s th.core then (th.status stFull, .x h)
        else ({ th.status stOk with frozen := th.frozen ++ [(slot, 1)] }, .x (setFrz h true))) s

/-- `scthaw` (R293). -/
def execScthaw (f : Fields) (s : State) : Host.Outcome State Fault Refusal :=
  scopeOp (.scthaw f) f true (fun _ th =>
    let h := th.regs.readX f.a.toNat
    let slot := hSlot h
    if hMalformed h || 1 < hKind h then (th.status stHandle, .x h)
    else match th.frozen.find? fun e => e.1 == slot with
      | some e =>
        if e.2 == 1 then ({ th.status stOk with frozen := th.frozen.filter fun x => x.1 != slot }, .x (setFrz h false))
        else ({ th.status stOk with frozen := th.frozen.map fun x => if x.1 == slot then (x.1, x.2 - 1) else x },
              .x (setFrz h true))
      | none => (th.status stHandle, .x h)) s

/-- The generic base of the cluster-shared window (21 R399). -/
def clusterBase : DWord := 0xFD00000000000000

/-- `bset.clu` (11 R252). -/
def execBsetClu (f : Fields) (s : State) : Host.Outcome State Fault Refusal :=
  scopeOp (.bsetClu f) f false (fun s th =>
    let h := th.regs.readX f.a.toNat
    let set (b : BaseReg) : Thread := if f.nd then th else th.setBase f.d.toNat b
    if hMalformed h || 1 < hKind h || hSlot h == 255 then ((set {}).status stHandle, .none)
    else if handleState s th h == .stale then ((set {}).status stStale, .none)
    else ((set { valid := true, kind := .cluster, vbase := clusterBase, limit := (kernelOf s th).desc.ws,
                 slot := some (hSlot h) }).status stOk, .none)) s

/-! ### Forming clusters (R271) -/

/-- Cuts a list into clusters of 8; a remainder of 1 joins the cluster before it (R271). -/
def cutClusters : Nat → List Nat → List (List Nat)
  | 0, _ => []
  | fuel + 1, cs =>
    if cs.isEmpty then []
    else if cs.length == 9 then [cs]
    else cs.take 8 :: cutClusters fuel (cs.drop 8)

/-- The lowest free slot of a die not in `taken`. -/
def freeSlot (s : State) (die : Nat) (taken : List Nat) : Option Nat :=
  ((List.range 48).map fun i => 48 * die + i).find? fun k => !(s.slot k).inUse && !taken.contains k

/-- Puts a cluster with a new check code into a slot. -/
def fillSlot (s : State) (k p : Nat) (members : List Nat) : State :=
  let (c, s1) := s.drawCode (s.slot k).code
  s1.setSlot k { inUse := true, part := p, members, code := c }

/-- The initial clusters of a starting partition (R271). A die with one core of the partition has none (R270). -/
def formClusters (s : State) (p : Nat) : State :=
  (List.range 4).foldl (fun s d =>
    let cs := (bitMembers (s.part p).cores 384).filter fun c => c / 96 == d
    if cs.length < 2 then s
    else (cutClusters 13 cs).foldl (fun s ms => match freeSlot s d [] with
      | some k => fillSlot s k p ms
      | none => s) s) s

/-! ### Proposals (R275..R277) -/

/-- The slot is pinned (R275). -/
def pinned (s : State) (k : Nat) : Bool :=
  s.threads.any fun th => (th.frozen.any fun e => e.1 == k) ||
    (!th.frozen.isEmpty && th.run != .saved && (s.slot k).members.contains th.core)

/-- Inserts a pair (W, c, e) by descending W, then ascending c, then e. -/
def insertPair (x : Nat × Nat × Nat) : List (Nat × Nat × Nat) → List (Nat × Nat × Nat)
  | [] => [x]
  | y :: ys =>
    if y.1 < x.1 || (y.1 == x.1 && (x.2.1 < y.2.1 || (x.2.1 == y.2.1 && x.2.2 < y.2.2))) then x :: y :: ys
    else y :: insertPair x ys

/-- Inserts a number in ascending order. -/
def insertNat (x : Nat) : List Nat → List Nat
  | [] => [x]
  | y :: ys => if x ≤ y then x :: y :: ys else y :: insertNat x ys

def sortNat (l : List Nat) : List Nat := l.foldl (fun a x => insertNat x a) []

/-- Inserts a set by its smallest member; sets are kept sorted. -/
def insertSet (x : List Nat) : List (List Nat) → List (List Nat)
  | [] => [x]
  | y :: ys => if x.headD 0 ≤ y.headD 0 then x :: y :: ys else y :: insertSet x ys

def sortSets (l : List (List Nat)) : List (List Nat) := l.foldl (fun a x => insertSet x a) []

/-- Merge(c, e) where the sizes allow it. -/
def mergeSets (sets : List (List Nat)) (c e : Nat) : List (List Nat) :=
  match sets.find? fun x => x.contains c, sets.find? fun x => x.contains e with
  | some a, some b =>
    if a == b || 16 < a.length + b.length then sets
    else sortNat (a ++ b) :: (sets.filter fun x => x != a && x != b)
  | _, _ => sets

/-- Pairs up singletons; an odd one out is left (R276). -/
def pairSingles : List Nat → List (List Nat) × Option Nat
  | [] => ([], none)
  | [x] => ([], some x)
  | x :: y :: zs => let r := pairSingles zs
                    ([x, y] :: r.1, r.2)

/-- Propose(U) (R276), with the die's counts. -/
def propose (counts : Table Nat) (u : List Nat) : List (List Nat) :=
  let ps := counts.foldl (fun (l : List (Nat × Nat × Nat)) x =>
    let c := x.1 / 512
    let e := x.1 % 512
    if 0 < x.2 && u.contains c && u.contains e then insertPair (x.2, c, e) l else l) []
  let sets := ps.foldl (fun sets x => mergeSets sets x.2.1 x.2.2) (u.map fun c => [c])
  let big := sets.filter fun x => 2 ≤ x.length
  let (pairs, odd) := pairSingles (sortNat ((sets.filter fun x => x.length == 1).map fun x => x.headD 0))
  match odd, pairs.getLast? with
  | none, _ => sortSets (big ++ pairs)
  | some x, some last => sortSets (big ++ (pairs.filter fun y => y != last) ++ [sortNat (last ++ [x])])
  | some x, none =>
    match (sortSets big).foldl (fun (b : Option (List Nat)) y => match b with
        | none => some y
        | some z => some (if y.length < z.length then y else z)) none with
    | none => [[x]]
    | some k =>
      let others := big.filter fun y => y != k
      if k.length == 16 then
        let h := k.getLastD 0
        sortSets (others ++ [k.filter fun y => y != h, sortNat [h, x]])
      else sortSets (others ++ [sortNat (k ++ [x])])

/-- Members of a set in a slot. -/
def contribution (s : State) (k : Nat) (set : List Nat) : Nat := ((s.slot k).members.filter fun c => set.contains c).length

/-- A partition's proposal on a die: its unpinned slots, and the sets that Propose gives (R276). -/
structure Proposal where
  part : Nat
  old : List Nat
  sets : List (List Nat)
  deriving DecidableEq, Repr

/-- Step 1 of R277: a set equal to that of a present cluster keeps its slot. -/
def Proposal.same (s : State) (x : Proposal) : List RegroupSet :=
  x.sets.filterMap fun m => (x.old.find? fun k => sortNat (s.slot k).members == m).map fun k =>
    { part := x.part, slot := k, members := m, fresh := false }

/-- A set with its partition and that partition's slots, inserted by its smallest member. -/
def insertRest (x : Nat × List Nat × List Nat) : List (Nat × List Nat × List Nat) → List (Nat × List Nat × List Nat)
  | [] => [x]
  | y :: ys => if x.2.2.headD 0 ≤ y.2.2.headD 0 then x :: y :: ys else y :: insertRest x ys

/-- Slots for the sets of all proposals of one event (R277): step 2 takes the sets of every partition together, in ascending order of
their smallest member. -/
def assignSlots (s : State) (die : Nat) (ps : List Proposal) : List RegroupSet :=
  let same := (ps.map (Proposal.same s)).flatten
  let rest := ((ps.map fun x => (x.sets.filter fun m => !(same.any fun y => y.part == x.part && y.members == m)).map fun m =>
    (x.part, x.old, m)).flatten).foldl (fun l x => insertRest x l) []
  (rest.foldl (fun (r : List RegroupSet × List Nat) x =>
    let (p, old, m) := x
    let best := old.foldl (fun (b : Option Nat) k =>
      if r.2.contains k || contribution s k m == 0 then b
      else match b with
        | none => some k
        | some j => some (if contribution s j m < contribution s k m then k else j)) none
    match best.orElse fun _ => freeSlot s die r.2 with
    | some k => (r.1 ++ [{ part := p, slot := k, members := m, fresh := true }], r.2 ++ [k])
    | none => r) (same, same.map (·.slot))).1

/-- The partition's slots on a die, those not pinned. -/
def unpinnedSlots (s : State) (die p : Nat) : List Nat :=
  ((List.range 48).map fun i => 48 * die + i).filter fun k => (s.slot k).inUse && (s.slot k).part == p && !pinned s k

/-- REGMIN has passed on the die (R274, R272). -/
def regminPassed (s : State) (die p : Nat) : Bool :=
  let us := (s.part p).reg.regmin.toNat
  us != 0xFFFFFFFF && match (s.die die).lastRegroup with
  | none => true
  | some t => t + us * 2500 ≤ s.t

/-- The partition's proposal, where it qualifies (R274). -/
def proposal (s : State) (die p : Nat) : Option Proposal :=
  let old := unpinnedSlots s die p
  let u := sortNat (old.map fun k => (s.slot k).members).flatten
  let sets := propose (s.die die).counts u
  let current := old.map fun k => sortNat (s.slot k).members
  if u.isEmpty || !regminPassed s die p || !(sets.any fun x => !current.contains x) then none else some { part := p, old, sets }

/-- The event that the qualifying proposals of these partitions start on a die, if any (R274). -/
def regroupOf (s : State) (die : Nat) (parts : List Nat) : Option Regroup :=
  let ps := parts.filterMap (proposal s die)
  let sets := assignSlots s die ps
  let freed := ((ps.map (·.old)).flatten).filter fun k => !(sets.any fun x => x.slot == k)
  if sets.isEmpty then none
  else
    let changed := sets.filter (·.fresh)
    let affected := sortNat ((changed.map (·.members)).flatten ++ (changed.map fun x => (s.slot x.slot).members).flatten ++
      (freed.map fun k => (s.slot k).members).flatten).eraseDups
    some { sets, freed, affected }

/-- Drops the counts of a partition's pairs (R273). -/
def clearCounts (s : State) (p : Nat) : State :=
  (List.range 4).foldl (fun s d =>
    let x := s.die d
    s.setDie d { x with counts := x.counts.filter fun e => !bitSet (s.part p).cores (e.1 / 512) }) s

/-- SHARING_WINDOW_END (R274): the windows of these partitions end in one core cycle; new ones begin. -/
def sharingWindowEnd (s : State) (parts : List Nat) : State :=
  let s1 := (List.range 4).foldl (fun s d =>
    if (s.die d).regroup.isSome then s
    else match regroupOf s d parts with
      | some r => s.setDie d { s.die d with regroup := some r }
      | none => s) s
  parts.foldl (fun s p =>
    let s2 := clearCounts s p
    s2.setPart p { s2.part p with winStart := s.t, winLog := (s2.part p).reg.shwin.toNat }) s1

/-- SHARING_WINDOW_END (R274). -/
def execSharingWindowEnd (parts : List Nat) (s : State) : Host.Outcome State Fault Refusal :=
  .next (sharingWindowEnd s parts)

/-! ### The regroup event (R278, R282) -/

/-- A write of an affected core has not been acknowledged (R278 step 2). -/
def writesOutstanding (s : State) (cores : List Nat) : Bool :=
  s.accs.any fun a => cores.contains a.core && !a.todo.isEmpty && !(localKind a.space) && a.kind.writes

/-- The lines of a slot's window that a home or a core knows of. -/
def windowLines (s : State) (k : Nat) : List Nat :=
  let inW (ln : Nat) : Bool := keyCluster k 0 ≤ ln * 128 && ln * 128 < keyCluster k (2 ^ 21)
  let dirs := (s.homes.map fun e => (e.2.dir.map (·.line)).filter inW).flatten
  let cps := (s.cores.map fun e => (e.2.copies.map (·.line)).filter inW).flatten
  (dirs ++ cps).eraseDups

/-- Removes a window's bytes: it reads as zeros. -/
def zeroWindow (s : State) (k : Nat) : State :=
  { s with mem := s.mem.filter fun c => !(keyCluster k 0 ≤ c.1 && c.1 < keyCluster k (2 ^ 21)) }

/-- The lines of a window of `bytes`, with those that a home or a core knows of past them (R281). -/
def allLines (s : State) (k bytes : Nat) : List Nat :=
  ((List.range (bytes / 128)).map fun i => keyCluster k 0 / 128 + i) ++
    (windowLines s k).filter fun ln => keyCluster k bytes ≤ 128 * ln

/-- Recalls lines at their old homes and notes their times, the stamp of a returned dirty copy among them (R282). -/
def recallWindow (s : State) (lines : List Nat) : State × List (Nat × BitVec 16 × BitVec 16) :=
  lines.foldl (fun r ln =>
    let (s1, rts, wts) := recallTimes r.1 ln
    (s1, r.2 ++ [(ln, rts, wts)])) (s, [])

/-- Bytes of the largest cluster-shared window of a partition's kernels (R281). -/
def windowSize (s : State) (p : Nat) : Nat := (s.part p).kernels.foldl (fun n e => max n e.2.desc.ws) 0

/-- The core cycles from the promotion point to the end: 2,000 mesh cycles, and one for each 128 bytes of window that is
migrated or zeroed, a window having the bytes of the partition's largest WS (R278, R281). -/
def regroupCycles (s : State) (r : Regroup) : Nat :=
  let lines := ((r.sets.filter (·.fresh)).map fun x => windowSize s x.part / 128).foldl (· + ·) 0
  ((2000 + lines) * 5 + 3) / 4

/-- A release of a partition's cores has been promoted (R280, R284). -/
def notePromoted (s : State) (p : Nat) : State := s.setPart p { s.part p with promoted := true }

/-- REGROUP_PROMOTION (R278 steps 2 and 3): once the affected cores' writes are acknowledged, windows that keep their slot
move to their new homes, with their lines' times and the requests deferred there (R282), and the other windows of the event are
zeroed. -/
def promote (s : State) (die : Nat) : State :=
  match (s.die die).regroup with
  | none => s
  | some r =>
    if r.promoted || writesOutstanding s r.affected then s
    else
      let changed := r.sets.filter (·.fresh)
      let (kept, new) := changed.partition fun x => (s.slot x.slot).inUse
      let (s1, times) := recallWindow s (kept.map fun x => allLines s x.slot (windowSize s x.part)).flatten
      let s2 := (new.map (·.slot) ++ r.freed).foldl (fun s k => zeroWindow (recallWindow s (windowLines s k)).1 k) s1
      let s3 := s2.setDie die { s2.die die with regroup := some { r with promoted := true, endAt := s.t + regroupCycles s r } }
      let s4 := times.foldl (fun s x => setTimes s x.1 x.2.1 x.2.2) s3
      let s5 := moveDeferred s4 fun key => if 2 ^ 52 ≤ key && key < 2 ^ 53 then some key else none
      ((r.affected.filterMap (partOfCore s)).eraseDups).foldl notePromoted s5

/-- A base register loses a binding to a slot that is free (R283). -/
def rebind (s : State) (th : Thread) : Thread :=
  { th with bases := th.bases.map fun b =>
      match b.kind, b.slot with
      | .cluster, some k => if (s.slot k).inUse then b else { b with valid := false }
      | _, _ => b }

/-- REGROUP_EVENT_END (R278 steps 4 and 5). -/
def endRegroup (s : State) (die : Nat) : State :=
  match (s.die die).regroup with
  | none => s
  | some r =>
    if !r.promoted || s.t < r.endAt then s
    else
      let s1 := r.freed.foldl (fun s k => s.setSlot k { s.slot k with inUse := false, members := [] }) s
      let s2 := r.sets.foldl (fun s x => if x.fresh then fillSlot s x.slot x.part x.members else s) s1
      let s3 := s2.setDie die { s2.die die with regroup := none, lastRegroup := some s.t }
      s3.mapThreads (rebind s3)

/-- REGROUP_PROMOTION (R278). -/
def execRegroupPromotion (die : Nat) (s : State) : Host.Outcome State Fault Refusal := .next (promote s die)

/-- REGROUP_EVENT_END (R278). -/
def execRegroupEventEnd (die : Nat) (s : State) : Host.Outcome State Fault Refusal := .next (endRegroup s die)

end Sys2Proof.Machine
end

