-- ==== Sys2Proof/Machine/Context.lean ====
section
/-! DEFINITION. Contexts (22_context R421..R439): answers to traps, pre-emption, save and restore, a change of BANKROLE (17
R331), the privileged registers, and the instructions of system cores. -/

namespace Sys2Proof.Machine

/-! ### Answers to traps (R427) -/

/-- A group that waits on its trap, or is PARKED, goes on: at the same place, with the lanes that it owes (04 R109), or past it
(R427). `past` says that the program counter stands past the instruction already (R119). -/
def goOn (s : State) (th : Thread) (act : Answer) (past : Bool) : Thread :=
  let skips := act == .skip && !past
  let th1 := if skips then skipPast s 8 th else th
  { th1 with run := .ready, u := 0, action := none,
             replay := if skips then none else if th.run == .parked then (if th.u == 0 then none else some th.u) else th.replay }

/-- Ends the trap of sequence number `seq`. -/
def Thread.dropTrap (th : Thread) (seq : Nat) : Thread := { th with traps := th.traps.filter fun r => r.seq != seq }

/-- An answer to a trap of the group itself: acted on, or recorded where it is SAVED; `none`: no row of R427. -/
def answerGroup (s : State) (th : Thread) (r : TrapRec) (act : Answer) : Option State :=
  let here := if r.object == .group then RunState.waiting .trap else .parked
  if th.run == here then
    some (if act == .abandon then killGroup s th.id else s.setThread (goOn s (th.dropTrap r.seq) act r.past))
  else if th.run == .saved && th.left == here then
    some (if act == .abandon then killGroup s th.id
      else s.setThread { th.dropTrap r.seq with action := some (if r.past then .resume else act) })
  else none

/-- An answer to the fault of a suspended engine operation. -/
def answerEngine (s : State) (th : Thread) (r : TrapRec) (n : Nat) (act : Answer) : Option State :=
  match (engOpsOf s th).find? fun o => o.serial == n && o.suspended with
  | none => none
  | some o =>
    match act with
    | .resume =>
      some ((setEngOp (s.setThread (th.dropTrap r.seq)) th.core .copy { o with suspended := false }).push (.engineOpStart th.core .copy))
    | .skip => none
    | .abandon => some (killGroup s th.id)

/-- An answer to the fault of a staged entry. -/
def answerStaged (s : State) (th : Thread) (p kn : Nat) (r : TrapRec) (n : Nat) (act : Answer) : Option State :=
  match s.kernel? p kn with
  | none => none
  | some k =>
    match k.staged.find? fun e => e.serial == n && e.held with
    | none => none
    | some e =>
      let s1 := s.setThread (th.dropTrap r.seq)
      match act with
      | .resume =>
        let staged := k.staged.map fun x => if x.serial == n then { x with held := false } else x
        some ((s1.setKernel p kn { k with staged }).push (.ticketPerform p kn))
      | .skip =>
        let s2 := dropStaged (match e.kind with
          | .atomic _ => stagedWrite s1 th.id e 0
          | _ => s1) p kn n
        some (pump (endCheck (advanceCt s2 p kn) p kn) th.id)
      | .abandon =>
        let s2 := killGroup s1 th.id
        some (endCheck (advanceCt (discardStaged s2 p kn e.gid 0) p kn) p kn)

/-- The action of R427 on a ticket: the STATUS code, and the state. -/
def answerTrap (s : State) (p ticket : Nat) (act : Answer) : Nat × State :=
  let kn := ticket / 2 ^ 14 % 64
  let seq := ticket / 2 ^ 20 % 16
  match s.thread? (.grp p kn (ticket % 2 ^ 14)) with
  | none => (stStale, s)
  | some th =>
    match th.traps.find? fun r => r.seq == seq with
    | none => (stStale, s)
    | some r =>
      let out := match r.object with
        | .engineOp n => answerEngine s th r n act
        | .staged n => answerStaged s th p kn r n act
        | _ => answerGroup s th r act
      match out with
      | some s1 => (stOk, s1)
      | none => (stState, s)

/-- `sysc resume`, `sysc skip` and `sysc abandon` (R435). -/
def syscAnswer (i : Instr) (f : Fields) (act : Answer) (s : State) : Host.Outcome State Fault Refusal :=
  control i f (fun s th =>
    let (code, s1) := answerTrap s (partOf s th.id) ((th.regs.srcS f.a).toNat % 2 ^ 24) act
    match s1.thread? th.id with
    | none => .ok s1
    | some x =>
      if x.run == .retired then .ok s1
      else .ok (finish s1 { x with regs := x.regs.setStatus code } s.cur f .none)) s

/-- `sysc resume` (R435). -/
def execSyscResume (f : Fields) (s : State) : Host.Outcome State Fault Refusal := syscAnswer (.syscResume f) f .resume s

/-- `sysc skip` (R435). -/
def execSyscSkip (f : Fields) (s : State) : Host.Outcome State Fault Refusal := syscAnswer (.syscSkip f) f .skip s

/-- `sysc abandon` (R435). -/
def execSyscAbandon (f : Fields) (s : State) : Host.Outcome State Fault Refusal := syscAnswer (.syscAbandon f) f .abandon s

/-- `sysc n`, a call (R435, R421): ECAUSE.CODE 0 and DETAIL n. -/
def execSyscCall (f : Fields) (s : State) : Host.Outcome State Fault Refusal :=
  control (.syscCall f) f (fun s th =>
    match th.id with
    | .grp _ _ _ => trap ILLEGAL
    | .sys k =>
      if (s.sysCore k).mode == .hypervisor then trap ILLEGAL
      else .ok (enterTrap s k 0 f.ax.toNat 0 (th.regs.pc + 8) true)) s

/-- `eret` (R436). -/
def execEret (f : Fields) (s : State) : Host.Outcome State Fault Refusal :=
  control (.eret f) f (fun s th =>
    match th.id with
    | .grp _ _ _ => trap PRIV
    | .sys k =>
      match returnFromTrap s k with
      | .error e => .error e
      | .ok s1 => .ok (s1.onThread th.id fun x => { x with run := .ready, replay := none, regs := { x.regs with lats := [] } })) s

/-! ### Pre-emption and saving (R428) -/

/-- A request to pre-empt a group: issue stops; futures and pops are withdrawn and the reservation is broken. A RETIRED or
SAVED group is not pre-empted. -/
def requestPreempt (s : State) (id : ThreadId) : State :=
  match s.thread? id with
  | none => s
  | some th =>
    if th.preempt || th.run == .saved || th.run == .retired then s
    else withdrawFutures (withdrawPops (breakOwnResv (s.setThread { th with preempt := true, preemptAt := s.t }) id) id) id

/-- The states that a group can be saved from (R86, R428). -/
def RunState.savable : RunState → Bool
  | .ready => true
  | .parked => true
  | .waiting _ => true
  | _ => false

/-- The steps before the save are done: LC and SC are 0 and the engines have drained or given up (R428). -/
def canSave (s : State) (th : Thread) : Bool :=
  th.preempt && th.run.savable && th.chain.isNone && th.lc == 0 && th.sc == 0 && quietThread s th.id && (engOpsOf s th).isEmpty

/-- Preempt: the save area is written and the group is SAVED; a sleep keeps what remains of its count (R428, R429). -/
def saveGroup (s : State) (th : Thread) : State :=
  let left := match th.run with
    | .waiting (.sleep w) => .waiting (.sleep (w - s.t))
    | r => r
  (writeSaveArea s th).setThread { th with run := .saved, left, preempt := false, lastCore := th.core }

/-- The `ctxs` instructions that wait for a group complete with a code (R438). -/
def answerCtxs (s : State) (target : ThreadId) (code : Nat) : State :=
  s.mapThreads fun th => match th.run with
    | .waiting (.ctxs g d) =>
      if g != target then th
      else
        let th1 := th.answer 8
        let r := th1.regs.setStatus code
        { th1 with regs := match d with
          | some n => r.writeS th.ll n (BitVec.ofNat 32 code)
          | none => r }
    | _ => th

/-! ### Conditions (04 R86, R103..R118) -/

/-- The counters of `waitc` are at or below n (R116). -/
def waitcClear (th : Thread) (which n : Nat) : Bool :=
  match which with
  | 0 => th.lc ≤ n
  | 1 => th.sc ≤ n
  | _ => th.lc ≤ n && th.sc ≤ n

/-- The condition of a waiting thread is cleared, so that its instruction is tried again (R86 Wake). The other conditions
end by an answer. -/
def condCleared (s : State) (th : Thread) : Cond → Bool
  | .scoreboard regs => !(regs.any fun r => th.pend.any fun p => p.reg == r)
  | .counter lc sc => !counterFull th lc sc
  | .waitc which n => waitcClear th which n
  | .quiet => quietThread s th.id
  | .accesses ids => !(s.accs.any fun a => ids.contains a.id)
  | .barrier _ => false
  | .barrierArrive _ _ _ _ => quietThread s th.id
  | .cart _ _ => false
  | .sleep w => decide (w ≤ s.t)
  | .drain => false
  | .carriage => (th.sealed.filter fun c => !c.complete).length < 16
  | .engine e => ((s.core th.core).engQ e).length < 8
  | .trap => false
  | .staging _ n => (match th.id with
    | .grp p kn g => (match s.kernel? p kn with
      | some k => (stagedOf k g).length + n ≤ 256
      | none => true)
    | .sys _ => true)
  | .stagedValue _ e _ => (match th.id with
    | .grp p kn _ => (match s.kernel? p kn with
      | some k => !(k.staged.any fun x => x.serial == e)
      | none => true)
    | .sys _ => true)
  | .regroup => (s.die (dieOfCore th.core)).regroup.isNone
  | .launch _ => false
  | .moving pte => readHome s pte 8 / 2 ^ 58 % 4 != 1
  | .link key => lineReachable s (dieOfCore th.core) key && hwReady s key
  | .ctxs _ _ => false
  | .bankrole => (s.part (partOf s th.id)).newRole.isNone
  | .idle _ _ _ => false
  | .halted => false

/-! ### Restoring (R430) -/

/-- The limits of R381 and R288 hold for the group on the core. -/
def restoreFits (s : State) (p : Nat) (k : Kernel) (th : Thread) (core : Nat) : Bool :=
  let x := s.part p
  let u := usageOf s p core
  let reserve := if (coreSet x k.desc).contains core || k.extra.contains core then 0 else k.desc.ws / 2
  core < 384 && bitSet x.cores core && x.newRole.isNone && frozenOnCore s core + th.frozen.length ≤ 8 &&
  { groups := u.groups + 1, reg := u.reg + windowBytes th.regs.v.length th.regs.m.length, scr := u.scr + th.scrSize + reserve,
    tob := u.tob + 16384 * th.nTiles : Usage }.fits x.reg.bankrole

/-- A restored group enters the recorded state (R430 step 6): a recorded condition is tested again, and the group is READY where it
no longer holds, else WAITING on it. A withdrawn pop is made again, on the data queue of the new core where it was on one (19 R372);
a stall in the staging buffer is counted from now on (20 R394). -/
def enterRestored (s : State) (th : Thread) : State :=
  let put (s : State) (run : RunState) : State := s.setThread { th with run, leave := false }
  match th.left with
  | .waiting c => match c with
    | .sleep n => put s (if n == 0 then .ready else .waiting (.sleep (s.t + n)))
    | .barrier n => put s (if th.leave then .ready else .waiting (.barrier n))
    | .cart q d =>
      let id : QueueId := match q with
        | .data p k _ => .data p k th.core
        | q => q
      match s.queue? id with
      | none => put s .ready
      | some x =>
        if x.count != 0 || (x.st != .active && x.st != .swapped) then put s .ready
        else put (s.setQueue { x with waiters := x.waiters ++ [(th.id, d)] }) (.waiting (.cart id d))
    | .staging _ n => put s (if condCleared s th c then .ready else .waiting (.staging s.t n))
    | .stagedValue g e _ => put s (if condCleared s th c then .ready else .waiting (.stagedValue g e s.t))
    | c => put s (if condCleared s th c then .ready else .waiting c)
  | r => put s r

/-- New placement codes for the teams of a group (R286). -/
def redrawTeams (g : Nat) : List Team → State → List Team × State
  | [], s => ([], s)
  | t :: ts, s =>
    let (c, s1) := if t.members.contains g then s.drawCode t.code else (t.code, s)
    let (rest, s2) := redrawTeams g ts s1
    ({ t with code := c } :: rest, s2)

/-- Restores a SAVED group on a core (R430); `none`: NOFIT. On a core of another cluster its cluster-scope releases are promoted (13
R284). -/
def restoreGroup (s : State) (p kn g core : Nat) : Option State :=
  let id : ThreadId := .grp p kn g
  match s.kernel? p kn, s.thread? id with
  | some k, some th =>
    if th.run != .saved || !restoreFits s p k th core then none
    else
      let moved := core != th.lastCore
      let extra := if (coreSet (s.part p) k.desc).contains core || k.extra.contains core then k.extra else k.extra ++ [core]
      let (s1, th0) := reloadSaveArea s th
      let th1 := rebind s1 { th0 with
        core, lastCore := core, residentSince := s.t, moveTo := none, preempt := false
        bases := th.bases.map fun b => if b.kind == .global then { b with limit := 0 } else b }
      let (teams, s2) := if moved then redrawTeams g k.teams s1 else (k.teams, s1)
      let s3 := rerunCancelled ((s2.setKernel p kn { k with extra, teams }).setThread th1) id
      let s4 := if moved then discardLeases s3 core [] else s3
      let s5 := if slotOfCore s th.lastCore != slotOfCore s core then notePromoted s4 p else s4
      some (match s5.thread? id with
        | none => s5
        | some th2 =>
          let s6 := enterRestored s5 th2
          let s7 := match s6.thread? id, th2.action with
            | some th3, some act => s6.setThread (goOn s6 th3 act false)
            | _, _ => s6
          if th2.leave then acquireSide s7 id else s7)
  | _, _ => none

/-- Restores a group on the first of the cores that has room. -/
def restoreOn (s : State) (p kn g : Nat) : List Nat → State
  | [] => s
  | c :: cs => match restoreGroup s p kn g c with
    | some s1 => s1
    | none => restoreOn s p kn g cs

/-- The save of a group, and its restore where the thermal unit asked for it (R428, R431). -/
def preemptSave (s : State) (id : ThreadId) : State :=
  match s.thread? id, id with
  | some th, .grp p kn g =>
    if !canSave s th then s
    else
      let s1 := answerCtxs (saveGroup s th) id stOk
      match th.moveTo with
      | some c => restoreOn s1 p kn g [c, th.core]
      | none => s1
  | _, _ => s

/-- PREEMPT_SAVE (R428): once drained, the group is SAVED. -/
def execPreemptSave (th : ThreadId) (s : State) : Host.Outcome State Fault Refusal := .next (preemptSave s th)

/-! ### BANKROLE (17 R330, R331) -/

/-- The bank groups of a role that a range of its space lies in. -/
def rangeGroups (gs : List Nat) (off size : Nat) : List Nat :=
  if size == 0 then [] else (List.range ((off + size - 1) / 32768 + 1 - off / 32768)).map fun i => gs.getD (off / 32768 + i) 32

/-- The place of each resident's window, scratchpad and tiles on a core: packed in the order of the threads, after the
cluster-shared reserve in SCR (log 22). -/
def placesOn (s : State) (p core : Nat) : List (ThreadId × List Nat) :=
  let role := (s.part p).reg.bankrole
  let up (n : Nat) : Nat := (n + 2047) / 2048 * 2048
  ((residents s core).foldl (fun (acc : (Nat × Nat × Nat) × List (ThreadId × List Nat)) th =>
    let (r, c, t) := acc.1
    let w := windowBytes th.regs.v.length th.regs.m.length
    let used := rangeGroups (bankGroups role 0) r w ++ rangeGroups (bankGroups role 1) c th.scrSize ++
      rangeGroups (bankGroups role 2) t (16384 * th.nTiles)
    ((r + w, c + up th.scrSize, t + 16384 * th.nTiles), acc.2 ++ [(th.id, used)])) ((0, up (reserveOn s p core), 0), [])).2

/-- The bank groups whose role changes. -/
def changedGroups (old new : DWord) : List Nat :=
  (List.range 32).filter fun g => old.toNat / 4 ^ g % 4 != new.toNat / 4 ^ g % 4

/-- A write of BANKROLE (R331 steps 1 and 2): placement stops and the affected groups are pre-empted. -/
def bankroleWrite (s : State) (p : Nat) (value : DWord) (by_ : Option ThreadId) : State :=
  let x := s.part p
  let changed := changedGroups x.reg.bankrole value
  let hit := ((bitMembers x.cores 384).map fun c => (placesOn s p c).filterMap fun e =>
    if e.2.any changed.contains then some e.1 else none).flatten
  let live := hit.filter fun id => match s.thread? id with
    | some th => th.run != .retired && th.run != .forming
    | none => false
  live.foldl requestPreempt (s.setPart p { x with newRole := some (value, by_, live) })

/-- Every group that a BANKROLE change pre-empts is out of its core. -/
def bankroleReady (s : State) (p : Nat) : Bool :=
  match (s.part p).newRole with
  | some (_, _, ids) => ids.all fun id => match s.thread? id with
    | some th => th.run == .saved || th.run == .retired
    | none => true
  | none => false

/-- The bank group of a core's reserve in which a line of its window lies: line n of a window of k members is line n / k of the
reserve of member n mod k (13 R281). -/
def reserveGroup (s : State) (gs : List Nat) (k ln : Nat) : Nat :=
  let m := (s.slot k).members.length
  gs.getD ((ln - keyCluster k 0 / 128) / (if m == 0 then 1 else m) * 128 / 32768) 32

/-- A changed bank group that holds part of the cluster-shared reserve is filled with zeros: the window's lines in it at that
core (R331 step 4). -/
def zeroReserve (s : State) (p core : Nat) (changed : List Nat) : State :=
  let gs := rangeGroups (bankGroups (s.part p).reg.bankrole 1) 0 (reserveOn s p core)
  match slotOfCore s core with
  | none => s
  | some k =>
    if !(gs.any changed.contains) then s
    else
      let hit (ln : Nat) : Bool := homeOf s ln == core && changed.contains (reserveGroup s gs k ln)
      let s1 := ((windowLines s k).filter hit).foldl recallLine s
      { s1 with mem := s1.mem.filter fun c => !(keyCluster k 0 ≤ c.1 && c.1 < keyCluster k (2 ^ 21) && hit (c.1 / 128)) }

/-- BANKROLE_EFFECT (R331 steps 3 to 5): bank groups that leave CACHE give up their lines (all lines of the core, log 22), the
changed ones are zeroed, the value takes effect, the `swrp` completes, and the saved groups are restored where they fit. -/
def bankroleEffect (s : State) (p : Nat) : State :=
  match (s.part p).newRole with
  | none => s
  | some (value, by_, ids) =>
    if !bankroleReady s p then s
    else
      let x := s.part p
      let cores := bitMembers x.cores 384
      let changed := changedGroups x.reg.bankrole value
      let s1 := if changed.any fun g => x.reg.bankrole.toNat / 4 ^ g % 4 == 3 then cores.foldl sendAllHome s else s
      let s2 := cores.foldl (fun s c => zeroReserve s p c changed) s1
      let y := s2.part p
      let s3 := s2.setPart p { y with newRole := none, reg := { y.reg with bankrole := value } }
      let s4 : State := match by_ with
        | some id => s3.onThread id fun th => if th.run == RunState.waiting .bankrole then th.answer 8 else th
        | none => s3
      let s5 : State := ids.foldl (fun (s : State) id => match id, s.thread? id with
        | .grp q kn g, some th => if th.run == RunState.saved then restoreOn s q kn g (th.lastCore :: cores) else s
        | _, _ => s) s4
      s5.pushAll ((s5.part p).launches.map fun _ => .launchAccept p)

/-- BANKROLE_WRITE (R331). -/
def execBankroleWrite (part : Nat) (value : DWord) (s : State) : Host.Outcome State Fault Refusal :=
  .next (if (s.part part).newRole.isSome || (s.part part).reg.bankrole == value then s else bankroleWrite s part value none)

/-- BANKROLE_EFFECT (R331). -/
def execBankroleEffect (part : Nat) (s : State) : Host.Outcome State Fault Refusal := .next (bankroleEffect s part)

/-! ### Registers written with an effect -/

/-- A write of LCLKPER (R423, 10 R474): at least 16; every tick counter of the partition restarts. -/
def lclkperWrite (s : State) (p : Nat) (value : Word) : State :=
  let x := s.part p
  let v := value.extractLsb' 0 16
  s.setPart p { x with tickBase := s.t, reg := { x.reg with lclkper := if v.toNat < 16 then 16 else v } }

/-- LCLKPER_WRITE (10 R474). -/
def execLclkperWrite (part : Nat) (value : Word) (s : State) : Host.Outcome State Fault Refusal :=
  .next (lclkperWrite s part value)

/-- A write of UPD.HOLD (R433): clearing it serves the pops that were held. -/
def updHoldWrite (s : State) (p : Nat) (hold : Bool) : State :=
  let x := s.part p
  let s1 := s.setPart p { x with reg := { x.reg with hold } }
  if hold then s1 else ((s1.queues.filter fun q => q.part == p).map (·.id)).foldl serve s1

/-- UPD_HOLD_WRITE (R433). -/
def execUpdHoldWrite (part : Nat) (hold : Bool) (s : State) : Host.Outcome State Fault Refusal :=
  .next (updHoldWrite s part hold)

/-- A group is at the cart boundary (R433). -/
def atBoundary (th : Thread) : Bool :=
  th.run == .retired ||
  ((th.run == .saved || match th.run with
      | .waiting (.cart _ _) => true
      | _ => false) &&
    th.stream.isNone && th.carriage.nops == 0 && th.sealed.isEmpty && th.lc == 0 && th.sc == 0)

/-- UPD.QUIET (R433). -/
def updQuiet (s : State) (p : Nat) : Bool :=
  s.threads.all fun th => match th.id with
    | .grp q _ _ => q != p || atBoundary th
    | .sys _ => true

end Sys2Proof.Machine
end

