-- ==== Sys2Proof/Machine/Crf.lean ====
section
/-! DEFINITION. The correctly rounded functions (02_numbers R50, R51; 07 R167, R168; 09 R200..R203): each encloses the
exact value between two rationals and rounds both ends; when they agree, that is the rounded value. The enclosure is
narrowed up to three times. Fixed-point numbers are natural numbers over 2^P. -/

namespace Sys2Proof.Machine

/-- An enclosure: the value lies between ln/ld and hn/hd (its sign is kept apart). -/
structure Enclosure where
  ln : Nat
  ld : Nat
  hn : Nat
  hd : Nat
  deriving DecidableEq, Repr

/-- The first precision, then its double and its quadruple. -/
def precisions : List Nat := [512, 1024, 2048]

/-- Rounds ±value to f32 under RNE, from ever narrower enclosures (R50). -/
def roundEnclosed (neg : Bool) (enc : Nat → Enclosure) : List Nat → Nat
  | [] => withSign 24 neg 0
  | p :: ps =>
    let e := enc p
    let lo := if e.ln == 0 then withSign 24 neg 0 else roundTo 24 {} neg e.ln e.ld
    let hi := roundTo 24 {} neg e.hn e.hd
    if lo == hi || ps.isEmpty then hi else roundEnclosed neg enc ps

/-! ### Series -/

/-- Σ term over n, where each term is the previous one times `x` over `n`·2^P (the exponential). -/
def expSeries (p x : Nat) : Nat → Nat → Nat → Nat → Nat
  | 0, _, _, acc => acc
  | fuel + 1, n, term, acc => if term == 0 then acc else expSeries p x fuel (n + 1) (term * x / (n * 2 ^ p)) (acc + term)

/-- Two sums of the terms with even and with odd index, each term the previous one times `y` over `div n`·2^P. -/
def altSeries (p y : Nat) (div : Nat → Nat) (weight : Nat → Nat) : Nat → Nat → Nat → Nat → Nat → Nat × Nat
  | 0, _, _, a, b => (a, b)
  | fuel + 1, n, term, a, b =>
    if term == 0 then (a, b)
    else altSeries p y div weight fuel (n + 1) (term * y / (div n * 2 ^ p)) (b + term / weight n) a

/-- The alternating sum: first term positive. -/
def altSum (p y : Nat) (div weight : Nat → Nat) (fuel first : Nat) : Nat :=
  let (a, b) := altSeries p y div weight fuel 0 first 0 0
  -- the two sums change places at every term, so the larger one holds the even terms of a convergent series
  if a < b then b - a else a - b

/-- Σ x^(2k+1)/(2k+1) with x² = num/den, from first term `pw`: atanh. -/
def atanhSeries (num den : Nat) : Nat → Nat → Nat → Nat → Nat
  | 0, _, _, acc => acc
  | fuel + 1, k, pw, acc => if pw == 0 then acc else atanhSeries num den fuel (k + 1) (pw * num / den) (acc + pw / (2 * k + 1))

/-- ln 2 over 2^P, by 2·atanh(1/3). -/
def ln2Fix (p : Nat) : Nat := 2 * atanhSeries 1 9 (2 * p) 0 (2 ^ p / 3) 0

/-- arctan(1/n) over 2^P, as the sums of its even and odd terms. -/
def arctanSums (sq : Nat) : Nat → Nat → Nat → Nat → Nat → Nat × Nat
  | 0, _, _, a, b => (a, b)
  | fuel + 1, k, pw, a, b => if pw == 0 then (a, b) else arctanSums sq fuel (k + 1) (pw / sq) (b + pw / (2 * k + 1)) a

def arctanFix (p n : Nat) : Nat :=
  let (a, b) := arctanSums (n * n) p 0 (2 ^ p / n) 0 0
  if a < b then b - a else a - b

/-- π over 2^P, within 2^12 units (Machin). -/
def piFix (p : Nat) : Nat := 16 * arctanFix p 5 - 4 * arctanFix p 239

/-- The integer square root of a number below 4^n. -/
def isqrt (n x : Nat) : Nat := isqrtFrom n x 0

/-! ### Enclosures of the functions, at precision P -/

/-- exp(±n/d), for a magnitude below 2^10. -/
def encExp (neg : Bool) (n d p : Nat) : Enclosure :=
  let l := ln2Fix p
  let x := n * 2 ^ p / d
  let e (r : Nat) : Nat := expSeries p r (2 * p) 1 (2 ^ p) 0
  if neg then
    let k := x / l + 1
    let v := e (k * l - x)
    { ln := v - 2 ^ 16, ld := 2 ^ (p + k), hn := v + 2 ^ 16, hd := 2 ^ (p + k) }
  else
    let k := x / l
    let v := e (x - k * l)
    { ln := (v - 2 ^ 16) * 2 ^ k, ld := 2 ^ p, hn := (v + 2 ^ 16) * 2 ^ k, hd := 2 ^ p }

/-- 2^(±n/d). -/
def encExp2 (neg : Bool) (n d p : Nat) : Enclosure :=
  let k := n / d
  let x := (n - k * d) * ln2Fix p / d
  let v := expSeries p x (2 * p) 1 (2 ^ p) 0
  let lo := v - 2 ^ 16
  let hi := v + 2 ^ 16
  if neg then { ln := 2 ^ p, ld := hi * 2 ^ k, hn := 2 ^ p, hd := lo * 2 ^ k }
  else { ln := lo * 2 ^ k, ld := 2 ^ p, hn := hi * 2 ^ k, hd := 2 ^ p }

/-- ln of m/2^P in [1, 2). -/
def lnFix (p m : Nat) : Nat :=
  let t := (m - 2 ^ p) * 2 ^ p / (m + 2 ^ p)
  2 * atanhSeries (t * t) (2 ^ (2 * p)) (2 * p) 0 t 0

/-- |log2(n/d)| and whether it is negative, n/d not a power of two. -/
def encLog2 (n d p : Nat) : Enclosure :=
  let e := floorLog2 n d
  let m := if e < 0 then n * 2 ^ e.natAbs * 2 ^ p / d else n * 2 ^ p / (d * 2 ^ e.toNat)
  let f := lnFix p m * 2 ^ p / ln2Fix p
  let v : Int := e * 2 ^ p + f
  { ln := v.natAbs - 2 ^ 16, ld := 2 ^ p, hn := v.natAbs + 2 ^ 16, hd := 2 ^ p }

/-- sin (or cos) of n/d: the sign, and an enclosure of the magnitude. The argument is reduced by π/2 at a precision that
covers every f32 magnitude. -/
def sinCos (cosine : Bool) (n d p : Nat) : Bool × Enclosure :=
  let w := p + 192
  let half := piFix w / 2
  let x := n * 2 ^ w / d
  let q := x / half
  let r := x - q * half
  let sq := r * r / 2 ^ w
  let s := altSum w sq (fun k => (2 * k + 2) * (2 * k + 3)) (fun _ => 1) w r
  let c := altSum w sq (fun k => (2 * k + 1) * (2 * k + 2)) (fun _ => 1) w (2 ^ w)
  let quad := (q + if cosine then 1 else 0) % 4
  let v := if quad % 2 == 0 then s else c
  (2 ≤ quad, { ln := v - 2 ^ 160, ld := 2 ^ w, hn := v + 2 ^ 160, hd := 2 ^ w })

/-- tanh(n/d). -/
def encTanh (n d p : Nat) : Enclosure :=
  let e := encExp false (2 * n) d p
  { ln := e.ln - e.ld, ld := e.ln + e.ld, hn := e.hn - e.hd, hd := e.hn + e.hd }

/-- √π over 2^P. -/
def rootPiFix (p : Nat) : Nat := isqrt (p + 2) (piFix p * 2 ^ p)

/-- erf(n/d), for a magnitude at most 4. -/
def encErf (n d p : Nat) : Enclosure :=
  let x := n * 2 ^ p / d
  let s := altSum p (x * x / 2 ^ p) (fun k => k + 1) (fun k => 2 * k + 1) (8 * p) x
  let r := rootPiFix p
  { ln := 2 * (s - 2 ^ 80), ld := r + 2 ^ 16, hn := 2 * (s + 2 ^ 80), hd := r - 2 ^ 16 }

/-- Φ(±n/d), for a magnitude below 15. -/
def encPhi (neg : Bool) (n d p : Nat) : Enclosure :=
  let x := n * 2 ^ p / d
  let s := altSum p (x * x / 2 ^ p) (fun k => 2 * k + 2) (fun k => 2 * k + 1) (8 * p) x
  let r := isqrt (p + 2) (2 * piFix p * 2 ^ p)
  let v := s * 2 ^ p / r
  let y := if neg then 2 ^ (p - 1) - v else 2 ^ (p - 1) + v
  { ln := y - 2 ^ 200, ld := 2 ^ p, hn := y + 2 ^ 200, hd := 2 ^ p }

/-- φ(n/d). -/
def encDensity (n d p : Nat) : Enclosure :=
  let e := encExp true (n * n) (2 * d * d) p
  let r := isqrt (p + 2) (2 * piFix p * 2 ^ p)
  { ln := e.ln * 2 ^ p, ld := e.ld * (r + 2 ^ 16), hn := e.hn * 2 ^ p, hd := e.hd * (r - 2 ^ 16) }

/-- 1/(1 + exp(−y)) for y = ±n/d. -/
def encLogistic (neg : Bool) (n d p : Nat) : Enclosure :=
  let e := encExp (!neg) n d p
  { ln := e.hd, ld := e.hn + e.hd, hn := e.ld, hd := e.ln + e.ld }

/-- n/d · π/8. -/
def encPiEighth (n d p : Nat) : Enclosure :=
  let c := piFix p
  { ln := n * (c - 2 ^ 16), ld := 8 * d * 2 ^ p, hn := n * (c + 2 ^ 16), hd := 8 * d * 2 ^ p }

/-! ### The functions on f32 bit patterns -/

def oneBits : Nat := 0x3F800000
def halfBits : Nat := 0x3F000000

/-- `vfexp2` (R168). -/
def fExp2 (a : Nat) : Nat :=
  match fDecode 24 a with
  | .nan => canonNaN 24
  | .inf neg => if neg then 0 else infBits 24
  | .zero _ => oneBits
  | .fin neg n d =>
    if neg && 150 * d ≤ n then 0
    else if !neg && 128 * d ≤ n then infBits 24
    else if n % d == 0 then (if neg then roundTo 24 {} false 1 (2 ^ (n / d)) else roundTo 24 {} false (2 ^ (n / d)) 1)
    else roundEnclosed false (encExp2 neg n d) precisions

/-- n/d is the power of two 2^e. -/
def isPow2 (n d : Nat) : Bool :=
  let e := floorLog2 n d
  if e < 0 then n * 2 ^ e.natAbs == d else n == d * 2 ^ e.toNat

/-- `vflog2` (R168). -/
def fLog2 (a : Nat) : Nat :=
  match fDecode 24 a with
  | .nan => canonNaN 24
  | .inf neg => if neg then canonNaN 24 else infBits 24
  | .zero _ => withSign 24 true (infBits 24)
  | .fin neg n d =>
    let e := floorLog2 n d
    if neg then canonNaN 24
    else if isPow2 n d then (if e == 0 then 0 else roundTo 24 {} (e < 0) e.natAbs 1)
    else roundEnclosed (e < 0) (encLog2 n d) precisions

/-- `vfsin` and `vfcos` (R168). -/
def fSin (a : Nat) : Nat :=
  match fDecode 24 a with
  | .nan => canonNaN 24
  | .inf _ => canonNaN 24
  | .zero neg => withSign 24 neg 0
  | .fin neg n d => roundEnclosed (neg != (sinCos false n d 512).1) (fun p => (sinCos false n d p).2) precisions

def fCos (a : Nat) : Nat :=
  match fDecode 24 a with
  | .nan => canonNaN 24
  | .inf _ => canonNaN 24
  | .zero _ => oneBits
  | .fin _ n d => roundEnclosed (sinCos true n d 512).1 (fun p => (sinCos true n d p).2) precisions

/-- `vftanh` (R168). -/
def fTanh (a : Nat) : Nat :=
  match fDecode 24 a with
  | .nan => canonNaN 24
  | .inf neg => withSign 24 neg oneBits
  | .zero neg => withSign 24 neg 0
  | .fin neg n d => if 16 * d ≤ n then withSign 24 neg oneBits else roundEnclosed neg (encTanh n d) precisions

/-- `vferf` (R168). -/
def fErf (a : Nat) : Nat :=
  match fDecode 24 a with
  | .nan => canonNaN 24
  | .inf neg => withSign 24 neg oneBits
  | .zero neg => withSign 24 neg 0
  | .fin neg n d => if 4 * d ≤ n then withSign 24 neg oneBits else roundEnclosed neg (encErf n d) precisions

/-- exp (R51). -/
def fExpE (a : Nat) : Nat :=
  match fDecode 24 a with
  | .nan => canonNaN 24
  | .inf neg => if neg then 0 else infBits 24
  | .zero _ => oneBits
  | .fin neg n d =>
    if neg && 105 * d ≤ n then 0
    else if !neg && 89 * d ≤ n then infBits 24
    else roundEnclosed false (encExp neg n d) precisions

/-- Φ (R51). -/
def fPhi (a : Nat) : Nat :=
  match fDecode 24 a with
  | .nan => canonNaN 24
  | .inf neg => if neg then 0 else oneBits
  | .zero _ => halfBits
  | .fin neg n d =>
    if neg && 15 * d ≤ n then 0
    else if !neg && 6 * d ≤ n then oneBits
    else roundEnclosed false (encPhi neg n d) precisions

/-- φ (R51). -/
def fDensity (a : Nat) : Nat :=
  match fDecode 24 a with
  | .nan => canonNaN 24
  | .inf _ => 0
  | .zero _ => 0x3ECC422A
  | .fin _ n d => if 15 * d ≤ n then 0 else roundEnclosed false (encDensity n d) precisions

/-- Logistic (R51, R202). -/
def fLogistic (a : Nat) : Nat :=
  match fDecode 24 a with
  | .nan => canonNaN 24
  | .inf neg => if neg then 0 else oneBits
  | .zero _ => halfBits
  | .fin neg n d =>
    if neg && 105 * d ≤ n then 0
    else if !neg && 18 * d ≤ n then oneBits
    else roundEnclosed false (encLogistic neg n d) precisions

/-- F(π · v / 8) (R202). -/
def fPiEighth (a : Nat) : Nat :=
  match fDecode 24 a with
  | .nan => canonNaN 24
  | .inf neg => withSign 24 neg (infBits 24)
  | .zero neg => withSign 24 neg 0
  | .fin neg n d => roundEnclosed neg (encPiEighth n d) precisions

end Sys2Proof.Machine
end

