-- ==== Sys2Proof/Machine/Alu.lean ====
section
/-! DEFINITION. Integer arithmetic that scalar and vector instructions share (05_scalar R123..R126, 06_vector R145): on
natural W-bit images, read in the instruction's type where the rule says Val. The caller takes the result mod 2^W. -/

namespace Sys2Proof.Machine

/-- Val(x): x read in type `ty` at width `w` (R123). -/
def val (ty : BitVec 4) (w x : Nat) : Int := if isSigned ty && 2 ^ (w - 1) ≤ x then (x : Int) - 2 ^ w else x

/-- x read as two's complement under every type. -/
def valSigned (w x : Nat) : Int := if 2 ^ (w - 1) ≤ x then (x : Int) - 2 ^ w else x

def iAdd (_ : BitVec 4) (w a b : Nat) : Nat := (a + b) % 2 ^ w
def iSub (_ : BitVec 4) (w a b : Nat) : Nat := (a + (2 ^ w - b)) % 2 ^ w
def iMul (_ : BitVec 4) (w a b : Nat) : Nat := (a * b) % 2 ^ w
def iMulh (ty : BitVec 4) (w a b : Nat) : Nat := imageOf w (val ty w a * val ty w b / 2 ^ w)
def iAnd (_ : BitVec 4) (_ a b : Nat) : Nat := a &&& b
def iOr (_ : BitVec 4) (_ a b : Nat) : Nat := a ||| b
def iXor (_ : BitVec 4) (_ a b : Nat) : Nat := a ^^^ b
def iAndn (_ : BitVec 4) (w a b : Nat) : Nat := a &&& (2 ^ w - 1 - b)
def iShl (_ : BitVec 4) (w a b : Nat) : Nat := (a * 2 ^ (b % w)) % 2 ^ w
def iShr (_ : BitVec 4) (w a b : Nat) : Nat := a / 2 ^ (b % w)
def iSra (_ : BitVec 4) (w a b : Nat) : Nat := imageOf w (valSigned w a / 2 ^ (b % w))
def iRot (_ : BitVec 4) (w a b : Nat) : Nat := (a / 2 ^ (b % w) + a * 2 ^ (w - b % w)) % 2 ^ w
def iMin (ty : BitVec 4) (w a b : Nat) : Nat := if val ty w b < val ty w a then b else a
def iMax (ty : BitVec 4) (w a b : Nat) : Nat := if val ty w a < val ty w b then b else a

/-- Quotient rounded toward zero, with the fixed cases of R124. -/
def iDiv (ty : BitVec 4) (w a b : Nat) : Nat :=
  if b == 0 then 2 ^ w - 1 else imageOf w ((val ty w a).tdiv (val ty w b))

/-- Remainder with the dividend's sign (R124). -/
def iRem (ty : BitVec 4) (w a b : Nat) : Nat :=
  if b == 0 then a else imageOf w ((val ty w a).tmod (val ty w b))

def iClz (w a : Nat) : Nat := if a == 0 then w else w - 1 - Nat.log2 a
def iPopc (w a : Nat) : Nat := (List.range w).foldl (fun n i => n + a / 2 ^ i % 2) 0
def iBrev (w a : Nat) : Nat := (List.range w).foldl (fun n i => n + a / 2 ^ i % 2 * 2 ^ (w - 1 - i)) 0

/-- Position and width of a field spec (R126). -/
def fieldPos (w spec : Nat) : Nat := Nat.min (spec % 256) w
def fieldWid (w spec : Nat) : Nat := Nat.min (spec / 256 % 256) (w - fieldPos w spec)

/-- `sbfx` (R126). -/
def iBfx (ty : BitVec 4) (w a spec : Nat) : Nat :=
  let n := fieldWid w spec
  let x := a / 2 ^ fieldPos w spec % 2 ^ n
  if n == 0 then 0 else if isSigned ty then signExt n w x else x

/-- `sbfi` (R126). -/
def iBfi (w a spec c : Nat) : Nat :=
  let p := fieldPos w spec
  let n := fieldWid w spec
  c - c / 2 ^ p % 2 ^ n * 2 ^ p + a % 2 ^ n * 2 ^ p

/-- The counter-keyed random word (R140). -/
def keyed (x klo khi : Word) : Word := mix32 (mix32 (x ^^^ klo) ^^^ khi)

end Sys2Proof.Machine
end

