-- ==== Sys2Proof/Machine/Control.lean ====
section
/-! DEFINITION. The control instructions (04_group R110..R119): branches, calls, structured masking, waits, retirement
and software traps. -/

namespace Sys2Proof.Machine

/-- Runs an instruction that chooses the next program counter: `body` answers the thread, the value for the destination
and the pc. -/
def jump (i : Instr) (f : Fields) (body : Thread → Res (Thread × Value × DWord)) (s : State) :
    Host.Outcome State Fault Refusal :=
  control i f (fun s th => match body th with
    | .error e => .error e
    | .ok (th1, v, pc) =>
      let th2 := (th1.retire s.cur f v).closed s.cur f
      .ok { s with cur := { th2 with regs := { th2.regs with pc } } }) s

/-- The relative target (R112, R113). -/
def relTarget (f : Fields) (th : Thread) : DWord := th.regs.pc + BitVec.ofNat 64 (signExt 32 64 f.imm32.toNat)

/-- A relative branch taken when `taken` (R112, R114). -/
def branch (i : Instr) (f : Fields) (taken : Thread → Bool) (s : State) : Host.Outcome State Fault Refusal :=
  jump i f (fun th => .ok (th, .none, if taken th then relTarget f th else th.regs.pc + 16)) s

/-- A jump to a target from a register, checked by R58; `link` is written after the target is read (R113). -/
def jumpTo (i : Instr) (f : Fields) (link : Bool) (target : Thread → DWord) (s : State) :
    Host.Outcome State Fault Refusal :=
  jump i f (fun th =>
    let t := target th
    if t.toNat % 8 != 0 then .error (.trap ALIGN (memDetail 2 0) 0 0)
    else .ok (th, if link then .x (th.regs.pc + BitVec.ofNat 64 f.len.slot) else .none, t)) s

/-- `nop` (R111). -/
def execNop (f : Fields) (s : State) : Host.Outcome State Fault Refusal := computeV (.nop f) f (fun _ => .ok .none) s

/-- `br` (R112). -/
def execBr (f : Fields) (s : State) : Host.Outcome State Fault Refusal := branch (.br f) f (fun _ => true) s

/-- `bz` (R112). -/
def execBz (f : Fields) (s : State) : Host.Outcome State Fault Refusal :=
  branch (.bz f) f (fun th => th.regs.srcS f.a == 0) s

/-- `bnz` (R112). -/
def execBnz (f : Fields) (s : State) : Host.Outcome State Fault Refusal :=
  branch (.bnz f) f (fun th => th.regs.srcS f.a != 0) s

/-- Compare of `bc` (R112, 03 R64): TY f32 by the float conditions, else signed or natural. -/
def bcHolds (f : Fields) (a b : Word) : Bool :=
  if f.ty == 10 then fCond 24 f.mo.toNat a.toNat b.toNat
  else intCond f.mo.toNat (val f.ty 32 a.toNat) (val f.ty 32 b.toNat)

/-- `bc` (R112). -/
def execBc (f : Fields) (s : State) : Host.Outcome State Fault Refusal :=
  branch (.bc f) f (fun th => bcHolds f (th.regs.srcS f.a) (th.regs.srcS f.b)) s

/-- `call` label (R113). -/
def execCall (f : Fields) (s : State) : Host.Outcome State Fault Refusal :=
  jumpTo (.call f) f true (fun th => relTarget f th) s

/-- `call` register (R113). -/
def execCallReg (f : Fields) (s : State) : Host.Outcome State Fault Refusal :=
  jumpTo (.callReg f) f true (fun th => th.regs.readX f.a.toNat) s

/-- `ret` (R113). -/
def execRet (f : Fields) (s : State) : Host.Outcome State Fault Refusal :=
  jumpTo (.ret f) f false (fun th => th.regs.readX f.a.toNat) s

/-- `jmpi` (R113). -/
def execJmpi (f : Fields) (s : State) : Host.Outcome State Fault Refusal :=
  jumpTo (.jmpi f) f false (fun th =>
    th.regs.readX f.a.toNat + (if f.len == .w96 then BitVec.ofNat 64 (signExt 32 64 f.imm32.toNat) else 0)) s

/-- `bmz` (R114). -/
def execBmz (f : Fields) (s : State) : Host.Outcome State Fault Refusal :=
  branch (.bmz f) f (fun th => th.regs.readZ f.a.toNat == 0) s

/-- `bmnz` (R114). -/
def execBmnz (f : Fields) (s : State) : Host.Outcome State Fault Refusal :=
  branch (.bmnz f) f (fun th => th.regs.readZ f.a.toNat != 0) s

/-! ### The mask stack (R99, R100). The head of the list is the top. -/

/-- The thread with a new mask (R96) and a new stack. -/
def Thread.withMask (th : Thread) (m : Mask) (st : List Token) : Thread :=
  { th with regs := th.regs.writeZ th.ll 60 m, stack := st }

/-- An instruction that changes the mask and the stack and falls through. -/
def maskOp (i : Instr) (f : Fields) (body : Thread → Res Thread) (s : State) : Host.Outcome State Fault Refusal :=
  compute i f (fun th => match body th with
    | .error e => .error e
    | .ok th1 => .ok (th1, .none)) s

/-- `mif` (R99). -/
def execMif (f : Fields) (s : State) : Host.Outcome State Fault Refusal :=
  maskOp (.mif f) f (fun th =>
    if 32 ≤ th.stack.length then trap MASKSTACK
    else
      let m := th.regs.mask
      let c := th.regs.readZ f.a.toNat &&& th.ll
      .ok (th.withMask (m &&& c) ({ kind := .iff, outer := m, alt := m &&& ~~~c } :: th.stack))) s

/-- `melse` (R99). -/
def execMelse (f : Fields) (s : State) : Host.Outcome State Fault Refusal :=
  maskOp (.melse f) f (fun th =>
    match th.stack with
    | t :: ts => if t.kind == .iff then .ok (th.withMask t.alt ({ t with kind := .els, alt := 0 } :: ts)) else trap MASKSTACK
    | [] => trap MASKSTACK) s

/-- `mend` (R99, R115). -/
def execMend (f : Fields) (s : State) : Host.Outcome State Fault Refusal :=
  jump (.mend f) f (fun th =>
    let on := th.regs.pc + 8
    match th.stack with
    | [] => trap MASKSTACK
    | t :: ts =>
      match t.kind with
      | .save => trap MASKSTACK
      | .iff => .ok (th.withMask t.outer ts, .none, on)
      | .els => .ok (th.withMask t.outer ts, .none, on)
      | .loop =>
        let m := th.regs.mask ||| t.cont
        if m != 0 then .ok (th.withMask m ({ t with cont := 0 } :: ts), .none, t.head)
        else .ok (th.withMask t.outer ts, .none, on)) s

/-- `mloop` (R99). -/
def execMloop (f : Fields) (s : State) : Host.Outcome State Fault Refusal :=
  maskOp (.mloop f) f (fun th =>
    if 32 ≤ th.stack.length then trap MASKSTACK
    else .ok { th with stack := { kind := .loop, outer := th.regs.mask, head := th.regs.pc + 8 } :: th.stack }) s

/-- Removes the lanes `b` from the tokens above the nearest LOOP token, which takes them into cont if `again`; no LOOP
token: none (R99, R100). -/
def leaveLoop (b : Mask) (again : Bool) : List Token → Option (List Token)
  | [] => none
  | t :: ts =>
    if t.kind == .loop then some ((if again then { t with cont := t.cont ||| b } else t) :: ts)
    else match leaveLoop b again ts with
      | some ts1 => some ({ t with outer := t.outer &&& ~~~b, alt := t.alt &&& ~~~b } :: ts1)
      | none => none

/-- `mbrk` and `mcont` (R99). -/
def breakOp (i : Instr) (f : Fields) (again : Bool) (s : State) : Host.Outcome State Fault Refusal :=
  maskOp i f (fun th =>
    let b := th.regs.mask &&& th.regs.readZ f.a.toNat
    match leaveLoop b again th.stack with
    | some st => .ok (th.withMask (th.regs.mask &&& ~~~b) st)
    | none => trap MASKSTACK) s

/-- `mbrk` (R99). -/
def execMbrk (f : Fields) (s : State) : Host.Outcome State Fault Refusal := breakOp (.mbrk f) f false s

/-- `mcont` (R99). -/
def execMcont (f : Fields) (s : State) : Host.Outcome State Fault Refusal := breakOp (.mcont f) f true s

/-- `mpush` (R99). -/
def execMpush (f : Fields) (s : State) : Host.Outcome State Fault Refusal :=
  maskOp (.mpush f) f (fun th =>
    if 32 ≤ th.stack.length then trap MASKSTACK
    else .ok (th.withMask (th.regs.readZ f.a.toNat &&& th.ll) ({ kind := .save, outer := th.regs.mask } :: th.stack))) s

/-- `mpop` (R99). -/
def execMpop (f : Fields) (s : State) : Host.Outcome State Fault Refusal :=
  maskOp (.mpop f) f (fun th =>
    match th.stack with
    | t :: ts => if t.kind == .save then .ok (th.withMask t.outer ts) else trap MASKSTACK
    | [] => trap MASKSTACK) s

/-! ### Waits -/

/-- `waitc` (R116). -/
def execWaitc (f : Fields) (s : State) : Host.Outcome State Fault Refusal :=
  computeV (.waitc f) f (fun th =>
    if waitcClear th f.fn.toNat f.ax.toNat then .ok .none else .error (.wait (.waitc f.fn.toNat f.ax.toNat))) s

/-- `yield` (R117): the choice that follows every instruction starts after this group. -/
def execYield (f : Fields) (s : State) : Host.Outcome State Fault Refusal :=
  computeV (.yield f) f (fun _ => .ok .none) s

/-- `sleep` (R117): the group goes on after it when the core cycles have passed; a count of 0 is `yield`. -/
def execSleep (f : Fields) (s : State) : Host.Outcome State Fault Refusal :=
  control (.sleep f) f (fun s th =>
    let n := (if f.len == .w64 then th.regs.srcS f.a else f.imm32).toNat
    let s1 := finish s th s.cur f .none
    .ok (if n == 0 then s1 else s1.onThread s.cur.id fun th => { th with run := .waiting (.sleep (s.t + n)) })) s

/-- `done` (R118): the drain begins; with a block open it traps (20 R394 reason 5). -/
def execDone (f : Fields) (s : State) : Host.Outcome State Fault Refusal :=
  control (.done f) f (fun _ th =>
    if th.block.isSome then .error (.trap DETSTALL 5 0 0) else .error (.wait .drain)) s

/-- `trap` (R119). -/
def execTrap (f : Fields) (s : State) : Host.Outcome State Fault Refusal :=
  control (.trap f) f (fun _ _ => .error (.trap SWTRAP f.ax.toNat 0 0)) s

/-- `brkpt` (R119). -/
def execBrkpt (f : Fields) (s : State) : Host.Outcome State Fault Refusal :=
  control (.brkpt f) f (fun _ _ => trap BREAK) s

end Sys2Proof.Machine
end

