-- ==== Sys2Proof/Machine/Boot.lean ====
section
/-! DEFINITION. The checks of an image (22_context R432 steps 2 to 4): SHA-256, and the HSS signature of RFC 8554 with L = 2, each
level LMS_SHA256_M32_H10 with LMOTS_SHA256_N32_W4. The layout of the image stays in `Config` (log 12). -/

namespace Sys2Proof.Machine

/-! ### SHA-256 -/

/-- The first 32 bits of the fractional parts of the square roots of the first 8 primes. -/
def shaStart : List Word :=
  [0x6a09e667, 0xbb67ae85, 0x3c6ef372, 0xa54ff53a, 0x510e527f, 0x9b05688c, 0x1f83d9ab, 0x5be0cd19]

/-- The first 32 bits of the fractional parts of the cube roots of the first 64 primes. -/
def shaRound : List Word :=
  [0x428a2f98, 0x71374491, 0xb5c0fbcf, 0xe9b5dba5, 0x3956c25b, 0x59f111f1, 0x923f82a4, 0xab1c5ed5] ++
  [0xd807aa98, 0x12835b01, 0x243185be, 0x550c7dc3, 0x72be5d74, 0x80deb1fe, 0x9bdc06a7, 0xc19bf174] ++
  [0xe49b69c1, 0xefbe4786, 0x0fc19dc6, 0x240ca1cc, 0x2de92c6f, 0x4a7484aa, 0x5cb0a9dc, 0x76f988da] ++
  [0x983e5152, 0xa831c66d, 0xb00327c8, 0xbf597fc7, 0xc6e00bf3, 0xd5a79147, 0x06ca6351, 0x14292967] ++
  [0x27b70a85, 0x2e1b2138, 0x4d2c6dfc, 0x53380d13, 0x650a7354, 0x766a0abb, 0x81c2c92e, 0x92722c85] ++
  [0xa2bfe8a1, 0xa81a664b, 0xc24b8b70, 0xc76c51a3, 0xd192e819, 0xd6990624, 0xf40e3585, 0x106aa070] ++
  [0x19a4c116, 0x1e376c08, 0x2748774c, 0x34b0bcb5, 0x391c0cb3, 0x4ed8aa4a, 0x5b9cca4f, 0x682e6ff3] ++
  [0x748f82ee, 0x78a5636f, 0x84c87814, 0x8cc70208, 0x90befffa, 0xa4506ceb, 0xbef9a3f7, 0xc67178f2]

/-- n as `len` bytes, the most significant first. -/
def bigEndian (len n : Nat) : List Byte := (List.range len).map fun i => BitVec.ofNat 8 (n / 256 ^ (len - 1 - i))

/-- The number that bytes hold, the most significant first. -/
def ofBigEndian (bs : List Byte) : Nat := bs.foldl (fun n b => 256 * n + b.toNat) 0

/-- A message with its padding: a one bit, zeros, and the length in bits. -/
def shaPadded (m : List Byte) : List Byte :=
  m ++ 0x80 :: List.replicate ((119 - m.length % 64) % 64) 0 ++ bigEndian 8 (8 * m.length)

/-- The next word of the schedule, whose words so far stand newest first. -/
def shaNext (w : List Word) : Word :=
  let a := w.getD 14 0
  let b := w.getD 1 0
  w.getD 15 0 + (a.rotateRight 7 ^^^ a.rotateRight 18 ^^^ a >>> 3) + w.getD 6 0 +
    (b.rotateRight 17 ^^^ b.rotateRight 19 ^^^ b >>> 10)

/-- The 64 words of the schedule of a block. -/
def shaSchedule (block : List Byte) : List Word :=
  let w := (List.range 16).map fun i => BitVec.ofNat 32 (ofBigEndian ((block.drop (4 * i)).take 4))
  ((List.range 48).foldl (fun w _ => shaNext w :: w) w.reverse).reverse

/-- The eight working words. -/
structure Sha where
  a : Word
  b : Word
  c : Word
  d : Word
  e : Word
  f : Word
  g : Word
  h : Word
  deriving DecidableEq, Repr

/-- The words of a hash value as working words. -/
def Sha.ofList (h : List Word) : Sha :=
  { a := h.getD 0 0, b := h.getD 1 0, c := h.getD 2 0, d := h.getD 3 0, e := h.getD 4 0, f := h.getD 5 0, g := h.getD 6 0,
    h := h.getD 7 0 }

/-- Word by word sums. -/
def Sha.plus (x y : Sha) : Sha :=
  { a := x.a + y.a, b := x.b + y.b, c := x.c + y.c, d := x.d + y.d, e := x.e + y.e, f := x.f + y.f, g := x.g + y.g,
    h := x.h + y.h }

/-- The bytes of a hash value. -/
def Sha.bytes (x : Sha) : List Byte := [x.a, x.b, x.c, x.d, x.e, x.f, x.g, x.h].flatMap fun w => bigEndian 4 w.toNat

/-- One round, with its constant and its word of the schedule. -/
def Sha.round (x : Sha) (k w : Word) : Sha :=
  let t1 := x.h + (x.e.rotateRight 6 ^^^ x.e.rotateRight 11 ^^^ x.e.rotateRight 25) + ((x.e &&& x.f) ^^^ (~~~x.e &&& x.g)) + k + w
  let t2 := (x.a.rotateRight 2 ^^^ x.a.rotateRight 13 ^^^ x.a.rotateRight 22) +
    ((x.a &&& x.b) ^^^ (x.a &&& x.c) ^^^ (x.b &&& x.c))
  { a := t1 + t2, b := x.a, c := x.b, d := x.c, e := x.d + t1, f := x.e, g := x.f, h := x.g }

/-- The hash value after a block. -/
def shaBlock (h : Sha) (block : List Byte) : Sha :=
  h.plus ((shaRound.zip (shaSchedule block)).foldl (fun x kw => x.round kw.1 kw.2) h)

/-- The hash value after n blocks, the message's bytes standing from its first. -/
def shaBlocks : Nat → Sha → List Byte → Sha
  | 0, h, _ => h
  | n + 1, h, m => shaBlocks n (shaBlock h (m.take 64)) (m.drop 64)

/-- SHA-256 (R432 step 2). -/
def sha256 (m : List Byte) : List Byte :=
  let p := shaPadded m
  (shaBlocks (p.length / 64) (Sha.ofList shaStart) p).bytes

/-! ### The signature (RFC 8554) -/

/-- Bytes `off` to `off + n - 1`. -/
def cut (bs : List Byte) (off n : Nat) : List Byte := (bs.drop off).take n

/-- The type words of LMOTS_SHA256_N32_W4 and LMS_SHA256_M32_H10. -/
def otsType : List Byte := bigEndian 4 3
def lmsType : List Byte := bigEndian 4 6

/-- Bytes of a signature and of a public key of one LMS level. -/
def lmsSigLen : Nat := 2508
def lmsKeyLen : Nat := 56

/-- The 64 digits of a hash value, of 4 bits each, and the 3 of their checksum. -/
def otsDigits (q : List Byte) : List Nat :=
  let ds := q.flatMap fun b => [b.toNat / 16, b.toNat % 16]
  let sum := ds.foldl (fun n d => n + (15 - d)) 0
  ds ++ [sum / 256 % 16, sum / 16 % 16, sum % 16]

/-- The rest of the chain of digit i, from step a to step 14. -/
def otsChain (head : List Byte) (i : Nat) : Nat → Nat → List Byte → List Byte
  | 0, _, y => y
  | n + 1, a, y => otsChain head i n (a + 1) (sha256 (head ++ bigEndian 2 i ++ bigEndian 1 a ++ y))

/-- The public key that a one-time signature of a message stands for; `head` is the key identifier and the leaf number. -/
def otsCandidate (head msg sig : List Byte) : List Byte :=
  let ds := otsDigits (sha256 (head ++ bigEndian 2 0x8181 ++ cut sig 4 32 ++ msg))
  sha256 (head ++ bigEndian 2 0x8080 ++ ((List.range 67).zip ds).flatMap fun id =>
    otsChain head id.1 (15 - id.2) id.2 (cut sig (36 + 32 * id.1) 32))

/-- The root above a node, by the path to it. -/
def lmsRoot (ident path : List Byte) : Nat → Nat → List Byte → List Byte
  | 0, _, x => x
  | n + 1, node, x =>
    let p := cut path 0 32
    lmsRoot ident (path.drop 32) n (node / 2)
      (sha256 (ident ++ bigEndian 4 (node / 2) ++ bigEndian 2 0x8383 ++ (if node % 2 == 1 then p ++ x else x ++ p)))

/-- An LMS signature of a message under a public key. -/
def lmsValid (key msg sig : List Byte) : Bool :=
  let ident := cut key 8 16
  let q := ofBigEndian (cut sig 0 4)
  let kc := otsCandidate (ident ++ cut sig 0 4) msg (cut sig 4 2180)
  let leaf := sha256 (ident ++ bigEndian 4 (1024 + q) ++ bigEndian 2 0x8282 ++ kc)
  key.length == lmsKeyLen && sig.length == lmsSigLen && cut key 0 4 == lmsType && cut key 4 4 == otsType &&
    cut sig 4 4 == otsType && cut sig 2184 4 == lmsType && decide (q < 1024) &&
    lmsRoot ident (cut sig 2188 320) 10 (1024 + q) leaf == cut key 24 32

/-- An HSS signature of a message under a public key, with L = 2 (R432 step 3). -/
def hssValid (key msg sig : List Byte) : Bool :=
  let inner := cut sig (4 + lmsSigLen) lmsKeyLen
  cut key 0 4 == bigEndian 4 2 && cut sig 0 4 == bigEndian 4 1 && lmsValid (key.drop 4) inner (cut sig 4 lmsSigLen) &&
    lmsValid inner msg (sig.drop (4 + lmsSigLen + lmsKeyLen))

/-- The checks of an image (R432 steps 2 to 4): the signature of the digest of its header and payload, the hash of the public key
against the fuses, the version against the rollback counter. That the digest is the signed message is the model's reading
(log 12). -/
def imageValid (img fuseKey : List Byte) (fuseVersion : Nat) : Bool :=
  hssValid (Config.imageKey img) (sha256 (Config.imageCovered img)) (Config.imageSignature img) &&
    sha256 (Config.imageKey img) == fuseKey && decide (fuseVersion ≤ Config.imageVersion img)

end Sys2Proof.Machine
end

