-- ==== Sys2Proof/Machine/Partition.lean ====
section
/-! DEFINITION. Partitions and boot (22_context R418, R419, R432; 10_line R474; 13_scope R271): PCMD, and the reset of the
package. -/

namespace Sys2Proof.Machine

/-- n bytes from physical address `pa`. -/
def paBytes (s : State) (pa n : Nat) : List Byte := (List.range n).map fun i => BitVec.ofNat 8 (readHome s (pa + i) 1)

/-- The image at a physical address, as the checks of R432 take it (log 12). -/
def imageAt (s : State) (pa : Nat) : List Byte := paBytes s pa (2 ^ 25)

/-- The partition that a descriptor describes, before its registers (R418). -/
def partOfDesc (bs : List Byte) : Partition :=
  { running := true, cores := fieldAt bs 0 48, mem := fieldAt bs 48 832, qbase := fieldAt bs 880 2, qnum := fieldAt bs 882 2,
    ports := fieldAt bs 884 2, cpl := fieldAt bs 886 3, nctx := fieldAt bs 889 1, image := fieldAt bs 904 8,
    rsvpool := fieldAt bs 912 64, reg := { bankrole := BitVec.ofNat 64 (fieldAt bs 896 8) } }

/-- Two bit sets have a member below n in common. -/
def meet (a b n : Nat) : Bool := (List.range n).any fun k => bitSet a k && bitSet b k

/-- The descriptor names an item of a running partition (R27, R419). -/
def conflicts (x y : Partition) : Bool :=
  y.running && (meet x.cores y.cores 384 || meet x.mem y.mem 6656 || meet x.ports y.ports 16 || meet x.cpl y.cpl 24 ||
    (x.qbase < y.qbase + y.qnum && y.qbase < x.qbase + x.qnum))

/-- The descriptor is one that START reports as 0x1B BADPART: a pool page outside MEM, or a field outside its range (R418,
R419). -/
def badPart (bs : List Byte) (x : Partition) : Bool :=
  ((List.range 512).any fun k => bitSet x.rsvpool k && !bitSet x.mem k) || x.nctx == 0 || 16 < x.nctx || x.qnum == 0 ||
  65536 < x.qbase + x.qnum || fieldAt bs 890 6 != 0 || fieldAt bs 976 48 != 0

/-- The outcome of a command (R423). -/
def pcmdResult (s : State) (code : Nat) : State := { s with pstat := BitVec.ofNat 8 code }

/-- Starts system core k in a mode at an address. -/
def startSys (s : State) (k : Nat) (mode : Mode) (pc : DWord) : State :=
  (s.setSysCore k { s.sysCore k with mode }).onThread (.sys k) fun th =>
    { th with regs := { th.regs with pc, lats := [] }, chain := none, run := .ready }

/-- A port half as its partition finds it at START and leaves it at STOP: no flow control in force, nothing taken or kept. -/
def clearPort (s : State) (h : Nat) : State :=
  s.setPort h { s.port h with
    slots := [], ctl := 0, egq := 0, egHalt := false, tx := none, txData := none, rx := [], rxHigh := false, flow := none }

/-- A core's clock at START (10 R474). -/
def clearClock (s : State) (c : Nat) : State :=
  let s1 := discardLeases s c []
  s1.setCore c { s1.core c with lclk := 0 }

/-- PCMD START (R419): the partition's registers at their reset values, its clocks and its clusters (10 R474, 13 R271), the
counts of its pairs cleared for the first sharing window (R273), SEQ of the housekeeping block 0 (25 R457; log 61). `issuer` is the system core that issued the command: it stays in its hypervisor (log 20). -/
def pcmdStart (s : State) (p desc : Nat) (issuer : Option Nat) : State :=
  let bs := paBytes s (desc / 1024 * 1024) 1024
  let x := partOfDesc bs
  let img := imageAt s x.image
  if badPart bs x then pcmdResult s stBadPart
  else if !imageValid img s.fuseKey s.fuseVersion then pcmdResult s stBadImage
  else if s.parts.any fun e => conflicts x e.2 then pcmdResult s stConflict
  else
    let s1 := s.setPart p { x with tickBase := s.t, winStart := s.t, gt := (s.part p).gt }
    let s2 := paWrite (clearCounts ((coresOf s1 p).foldl clearClock s1) p) (x.reg.qtab.toNat + 0x420000) 8 0
    let s3 := (bitMembers x.ports 16).foldl clearPort (formClusters s2 p)
    let s4 := ((List.range 16).filter fun k => (s3.sysCore k).psel.toNat == p && issuer != some k).foldl
      (fun s k => startSys s k .supervisor (Config.imageEntry img)) s3
    pcmdResult s4 stOk

/-- PCMD STOP (R419): kernels are killed, queues end and are FREE (19 R360), items are freed. A kernel whose end would wait for its
completion record ends without it (log 68). -/
def pcmdStop (s : State) (p : Nat) : State :=
  let x := s.part p
  if !x.running then pcmdResult s stBadPart
  else
    let s1 := (x.kernels.map (·.1)).foldl (fun s kn => freeKernelState (killKernel s p kn) p kn) s
    let s2 := (s1.queues.filter fun q => q.part == p && q.st != .free).foldl (fun s q => discardQueue s q .free) s1
    let s3 := ((s2.slots.filter fun e => e.2.inUse && e.2.part == p).map (·.1)).foldl (fun s k =>
      let s1 := zeroWindow (recallWindow s (windowLines s k)).1 k
      s1.setSlot k { s1.slot k with inUse := false, members := [] }) s2
    let s4 := (bitMembers x.ports 16).foldl clearPort s3
    let y := s4.part p
    pcmdResult (s4.setPart p { reg := y.reg, ctxs := y.ctxs, plt := y.plt, energy := y.energy, gt := y.gt, tickBase := y.tickBase }) stOk

/-- Command codes 0 and 3 (R423). -/
def pcmdNone (s : State) : State := pcmdResult s stBadPart

/-- A write of PCMD (R419, R423). -/
def partitionCommand (s : State) (x : DWord) (issuer : Option Nat) : State :=
  let p := (x.extractLsb' 0 3).toNat
  match (x.extractLsb' 8 2).toNat with
  | 1 => pcmdStart s p (x.toNat / 1024 * 1024) issuer
  | 2 => pcmdStop s p
  | _ => pcmdNone s

/-- PCMD_START (R419). -/
def execPcmdStart (part desc : Nat) (s : State) : Host.Outcome State Fault Refusal := .next (pcmdStart s part desc none)
/-- PCMD_STOP (R419). -/
def execPcmdStop (part : Nat) (s : State) : Host.Outcome State Fault Refusal := .next (pcmdStop s part)
/-- PCMD_NONE (R423). -/
def execPcmdNone (_ : Nat) (s : State) : Host.Outcome State Fault Refusal := .next (pcmdNone s)

/-! ### Boot (R432) -/

/-- The slot that boots: A, else B (R432). -/
def bootImage (s : State) : Option (List Byte) :=
  if imageValid s.flashA s.fuseKey s.fuseVersion then some s.flashA
  else if imageValid s.flashB s.fuseKey s.fuseVersion then some s.flashB
  else none

/-- PACKAGE_RESET (10 R474, R432): everything as at reset, the flash, the fuses and the memory kept (log 23); the boot ROM
reads the slot into the chip scratchpad of die 0 and starts the hypervisor on every system core, or halts with 0x19. -/
def packageReset (s : State) : State :=
  let s1 : State := { State.reset with
    agenda := [], flashA := s.flashA, flashB := s.flashB, fuseKey := s.fuseKey, fuseVersion := s.fuseVersion, mem := s.mem,
    free := s.free }
  match bootImage s1 with
  | none => { s1 with mem := s1.mem.writeBytes (2 ^ 43) s1.flashB, bootStatus := BitVec.ofNat 8 stBadImage }
  | some img =>
    let s2 := { s1 with mem := s1.mem.writeBytes (2 ^ 43) img }
    (List.range 16).foldl (fun s k => startSys s k .hypervisor (Config.imageEntry img)) s2

/-- PACKAGE_RESET (10 R474, R432). -/
def execPackageReset (s : State) : Host.Outcome State Fault Refusal := .next (packageReset s)

end Sys2Proof.Machine
end

