-- ==== Sys2Proof/Machine/Privileged.lean ====
section
/-! DEFINITION. The instructions of system cores (22_context R434..R439): the privileged registers, save and restore of a
group, `idle`; and the events that end a wait of a thread. -/

namespace Sys2Proof.Machine

/-! ### The privileged registers (R422, R423) -/

/-- The access raises PRIV in supervisor mode (R422). -/
def privDenied (m : Mode) (num fn : Nat) (write : Bool) : Bool :=
  m != .hypervisor &&
  ((write && (num == 0x10 || num == 0x11 || num == 0x12 || num == 0x1C || num == 0x35 || num == 0x36)) ||
   (0x30 ≤ num && num ≤ 0x33 && fn == 1) || num == 0x38 || num == 0x39)

/-- The code of a mode in ESTAT.PM (R423). -/
def Mode.code : Mode → Nat
  | .user => 0
  | .supervisor => 1
  | .hypervisor => 2

/-- PM as it is stored: 3 is stored as 0 (R423). -/
def modeOf (x : Nat) : Mode :=
  match x % 4 with
  | 1 => .supervisor
  | 2 => .hypervisor
  | _ => .user

/-- What `srdp` reads of a partition's register; 0 for a write-only one (R6). -/
def readPartReg (s : State) (p fn num : Nat) : Nat :=
  let x := s.part p
  let r := x.reg
  let c := tget {} fn x.ctxs
  match num with
  | 0x00 => c.root + (16 * p + fn)
  | 0x01 => c.trapq.toNat
  | 0x10 => r.bankrole.toNat
  | 0x11 => r.lclkper.toNat
  | 0x12 => r.gtguard.toNat
  | 0x13 => r.minres.toNat
  | 0x14 => r.shwin.toNat
  | 0x15 => r.regmin.toNat
  | 0x16 => r.mign.toNat
  | 0x17 => r.migwin.toNat
  | 0x18 => r.mighold.toNat
  | 0x19 => r.migpte.toNat
  | 0x1B => r.migRes.toNat + (if r.migBusy then 256 else 0)
  | 0x1C => r.qtab.toNat
  | 0x1D => r.qcmdIndex.toNat + r.qcmdRes.toNat * 2 ^ 32
  | 0x1E => r.qres.toNat
  | 0x20 => r.klKn.toNat + (if r.klValid then 2 ^ 31 else 0) + r.klRes.toNat * 2 ^ 32
  | 0x21 => r.kctlKn.toNat
  | 0x22 => (if r.hold then 1 else 0) + (if updQuiet s p then 2 else 0)
  | 0x23 => r.pctx.toNat
  | _ => 0

/-- What `srdp` reads on system core k. -/
def readPriv (s : State) (k fn num : Nat) : Nat :=
  let c := s.sysCore k
  let b := if fn == 1 then c.hyp else c.sup
  match num with
  | 0x30 => b.epc.toNat
  | 0x31 => b.code.toNat + b.detail.toNat * 256
  | 0x32 => b.eaddr.toNat
  | 0x33 => b.pm.code
  | 0x34 => c.svec.toNat
  | 0x35 => c.hvec.toNat
  | 0x36 => c.psel.toNat
  | 0x39 => s.pstat.toNat
  | _ => readPartReg s c.psel.toNat fn num

/-- `srdp` (R437). -/
def execSrdp (f : Fields) (s : State) : Host.Outcome State Fault Refusal :=
  control (.srdp f) f (fun s th =>
    match th.id with
    | .grp _ _ _ => trap PRIV
    | .sys k =>
      if privDenied (s.sysCore k).mode f.ax.toNat f.fn.toNat false then trap PRIV
      else .ok (finish s th s.cur f (.x (BitVec.ofNat 64 (readPriv s k f.fn.toNat f.ax.toNat))))) s

/-- Updates a partition's registers. -/
def onReg (s : State) (p : Nat) (g : PReg32 → PReg32) : State :=
  let x := s.part p
  s.setPart p { x with reg := g x.reg }

/-- Updates a context's registers. -/
def onCtx (s : State) (p i : Nat) (g : Ctx → Ctx) : State :=
  let x := s.part p
  s.setPart p { x with ctxs := tset i (g (tget {} i x.ctxs)) x.ctxs }

/-- A write of a partition's register but BANKROLE: RW fields are set, actions start, the rest ignores the write (R6, R7). -/
def writePartReg (s : State) (p fn num : Nat) (x : DWord) : State :=
  let w : Word := x.extractLsb' 0 32
  match num with
  | 0x00 => onCtx s p fn fun c => { c with root := x.toNat / 2 ^ 16 % 2 ^ 36 * 2 ^ 16 }
  | 0x01 => onCtx s p fn fun c => { c with trapq := x }
  | 0x11 => lclkperWrite s p w
  | 0x12 => onReg s p fun r => { r with gtguard := w }
  | 0x13 => onReg s p fun r => { r with minres := w }
  | 0x14 => onReg s p fun r =>
    let n := w.toNat % 32
    { r with shwin := BitVec.ofNat 5 (if n < 16 then 16 else if 30 < n then 30 else n) }
  | 0x15 => onReg s p fun r => { r with regmin := w }
  | 0x16 => onReg s p fun r => { r with mign := w.extractLsb' 0 8 }
  | 0x17 => onReg s p fun r => { r with migwin := w }
  | 0x18 => onReg s p fun r => { r with mighold := w }
  | 0x19 => onReg s p fun r => { r with migpte := BitVec.ofNat 64 (x.toNat / 8 % 2 ^ 49 * 8) }
  | 0x1A => moveCommand s p x
  | 0x1C => onReg s p fun r => { r with qtab := BitVec.ofNat 64 (x.toNat / 2 ^ 12 % 2 ^ 40 * 2 ^ 12) }
  | 0x1D => queueCommand s p x
  | 0x1F => kldb s p x
  | 0x21 =>
    let s1 := onReg s p fun r => { r with kctlKn := x.extractLsb' 0 6 }
    if x.getLsbD 8 then killKernel s1 p (x.toNat % 64) else s1
  | 0x22 => updHoldWrite s p (x.getLsbD 0)
  | 0x23 =>
    let n := x.toNat % 16
    onReg s p fun r => { r with pctx := BitVec.ofNat 4 (if (s.part p).nctx ≤ n then 0 else n) }
  | _ => s

/-- Updates the bank that FN names. -/
def onBank (s : State) (k fn : Nat) (g : Bank → Bank) : State :=
  let c := s.sysCore k
  s.setSysCore k (if fn == 1 then { c with hyp := g c.hyp } else { c with sup := g c.sup })

/-- A write of a privileged register on system core k. -/
def writePriv (s : State) (k fn num : Nat) (x : DWord) : State :=
  let c := s.sysCore k
  let vec : DWord := BitVec.ofNat 64 (x.toNat / 8 * 8)
  match num with
  | 0x30 => onBank s k fn fun b => { b with epc := x }
  | 0x31 => onBank s k fn fun b => { b with code := x.extractLsb' 0 8, detail := x.extractLsb' 8 8 }
  | 0x32 => onBank s k fn fun b => { b with eaddr := x }
  | 0x33 => onBank s k fn fun b => { b with pm := modeOf x.toNat }
  | 0x34 => s.setSysCore k { c with svec := vec }
  | 0x35 => s.setSysCore k { c with hvec := vec }
  | 0x36 => s.setSysCore k { c with psel := x.extractLsb' 0 3 }
  | 0x38 => partitionCommand s x (some k)
  | _ => writePartReg s c.psel.toNat fn num x

/-- `swrp` (R437). A write that changes BANKROLE waits for R331; a second one waits for the first. -/
def execSwrp (f : Fields) (s : State) : Host.Outcome State Fault Refusal :=
  control (.swrp f) f (fun s th =>
    match th.id with
    | .grp _ _ _ => trap PRIV
    | .sys k =>
      let num := f.ax.toNat
      let x := th.regs.readX f.a.toNat
      let p := (s.sysCore k).psel.toNat
      let go (s1 : State) : Res State := .ok (finish s1 ((s1.thread? th.id).getD th) s.cur f .none)
      if privDenied (s.sysCore k).mode num f.fn.toNat true then trap PRIV
      else if num == 0x10 then
        if (s.part p).newRole.isSome then .error (.wait .bankrole)
        else if (s.part p).reg.bankrole == x then go s
        else .error (.parkWait (stall (bankroleWrite s p x (some th.id)) th.id .bankrole))
      else go (writePriv s k f.fn.toNat num x)) s

/-! ### Save and restore of a group (R438) -/

/-- The group that s[A][19:0] names, in the ticket layout. -/
def namedGroup (s : State) (th : Thread) (f : Fields) : Nat × Nat × Option Thread :=
  let x := (th.regs.srcS f.a).toNat % 2 ^ 20
  (x / 2 ^ 14, x % 2 ^ 14, s.thread? (.grp (partOf s th.id) (x / 2 ^ 14) (x % 2 ^ 14)))

/-- Writes the result of `ctxs` or `ctxr` to s[D] and STATUS. -/
def ctxEnd (s : State) (before : Thread) (f : Fields) (code : Nat) : Res State :=
  match s.thread? before.id with
  | none => .ok s
  | some th => .ok (finish s { th with regs := th.regs.setStatus code } before f (.s (BitVec.ofNat 32 code)))

/-- `ctxs` (R438): the group is pre-empted, and the answer comes once it is SAVED. -/
def execCtxs (f : Fields) (s : State) : Host.Outcome State Fault Refusal :=
  control (.ctxs f) f (fun s th =>
    match namedGroup s th f with
    | (_, _, none) => ctxEnd s s.cur f stNoGroup
    | (_, _, some g) =>
      if g.run == .saved || g.run == .retired then ctxEnd s s.cur f stState
      else .error (.parkWait (stall (requestPreempt s g.id) th.id (.ctxs g.id (if f.nd then none else some f.d.toNat))))) s

/-- A waiting `ctxs` whose group is gone, or RETIRED, ends (R438); one whose group is SAVED was answered as it was saved. -/
def ctxsGone (s : State) (target : ThreadId) : State :=
  match s.thread? target with
  | none => answerCtxs s target stNoGroup
  | some g => if g.run == .retired then answerCtxs s target stState else s

/-- `ctxr` (R438). -/
def execCtxr (f : Fields) (s : State) : Host.Outcome State Fault Refusal :=
  control (.ctxr f) f (fun s th =>
    match namedGroup s th f with
    | (_, _, none) => ctxEnd s s.cur f stNoGroup
    | (kn, g, some x) =>
      if x.run != .saved then ctxEnd s s.cur f stState
      else if (s.part (partOf s th.id)).newRole.isSome then .error (.wait .bankrole)
      else match restoreGroup s (partOf s th.id) kn g (th.regs.srcS f.b).toNat with
        | some s1 => ctxEnd s1 s.cur f stOk
        | none => ctxEnd s s.cur f stNoFit) s

/-! ### Waits (R439, 04 R117, R425) -/

/-- What `idle` finds: bit 0 a cart, bit 1 the time; or the STATUS code of a bad handle. -/
def idleBits (s : State) (id : ThreadId) (core : Nat) (h t : DWord) : Except Nat Nat :=
  let time := t != 0 && !(((s.core core).gt.now s).ult t)
  let bit1 := if time then 2 else 0
  if h == 0 then .ok bit1
  else match findQueue s (partOf s id) h (qPop h) with
    | .error c => .error c
    | .ok q => .ok ((if q.count == 0 then 0 else 1) + bit1)

/-- `idle` (R439). -/
def execIdle (f : Fields) (s : State) : Host.Outcome State Fault Refusal :=
  control (.idle f) f (fun s th =>
    let h := th.regs.readX f.a.toNat
    let t := th.regs.readX f.b.toNat
    match idleBits s th.id th.core h t with
    | .error c => .ok (finish s { th with regs := th.regs.setStatus c } s.cur f (.s 0))
    | .ok 0 =>
      let queue := match findQueue s (partOf s th.id) h (qPop h) with
        | .ok q => some q.id
        | .error _ => none
      .error (.wait (.idle queue (if t == 0 then none else some t) (if f.nd then none else some f.d.toNat)))
    | .ok n => .ok (finish s th s.cur f (.s (BitVec.ofNat 32 n)))) s

/-- IDLE_TIME_REACHED (R439): a stalled `idle` whose time has come answers. -/
def idleTimeReached (s : State) (id : ThreadId) : State :=
  match s.thread? id with
  | none => s
  | some th =>
    match th.run with
    | .waiting (.idle queue (some t) d) =>
      if ((s.core th.core).gt.now s).ult t then s
      else
        let cart := match queue with
          | some q => (match s.queue? q with
            | some x => decide (x.count ≠ 0)
            | none => false)
          | none => false
        let th1 := th.answer 8
        s.setThread { th1 with regs := match d with
          | some n => th1.regs.writeS th.ll n (if cart then 3 else 2)
          | none => th1.regs }
    | _ => s

/-- IDLE_TIME_REACHED (R439). -/
def execIdleTimeReached (th : ThreadId) (s : State) : Host.Outcome State Fault Refusal := .next (idleTimeReached s th)

/-- SLEEP_EXPIRY (04 R117). -/
def sleepExpiry (s : State) (id : ThreadId) : State :=
  s.onThread id fun th => match th.run with
    | .waiting (.sleep w) => if w ≤ s.t then { th with run := .ready } else th
    | _ => th

/-- SLEEP_EXPIRY (04 R117). -/
def execSleepExpiry (th : ThreadId) (s : State) : Host.Outcome State Fault Refusal := .next (sleepExpiry s th)

/-- TRAP_CART_RETRY (R425): the first cart that TRAPQ refused is tried again. -/
def retryCart (s : State) (id : ThreadId) : State :=
  match s.thread? id with
  | none => s
  | some th =>
    match th.carts with
    | [] => s
    | (ws, _) :: rest => sendTrapCart (s.setThread { th with carts := rest }) id ws

/-- TRAP_CART_RETRY (R425). -/
def execTrapCartRetry (th : ThreadId) (s : State) : Host.Outcome State Fault Refusal := .next (retryCart s th)

/-! ### What has no meaning as an instruction (03 R54, R56, R78) -/

/-- UNASSIGNED_OPCODE: ILLEGAL at its first byte (R54, R78). -/
def execUnassignedOpcode (_ : BitVec 8) (_ : BitVec 2) (s : State) : Host.Outcome State Fault Refusal :=
  conclude s s.cur.id (trap ILLEGAL)

/-- FETCH_FAULT (R56). -/
def execFetchFault (cause : FetchCause) (s : State) : Host.Outcome State Fault Refusal := .next (fetchFault s cause)

end Sys2Proof.Machine
end

