-- ==== Sys2Proof/Machine/Housekeeping.lean ====
section
/-! DEFINITION. Sensors and power (25_housekeeping R457..R461), thermal migration (22_context R431), and the host's accesses
(24_link R448). -/

namespace Sys2Proof.Machine

/-! ### Temperature (R460) and thermal migration (22 R431) -/

/-- Core cycles in a microsecond (00 R5, 01 R25). -/
def cyclesPerMicro : Nat := 2500

/-- The group that the thermal unit chooses on a core: not ISSUING, resident for MINRES, the longest resident, then by kernel
number and GID (R431). -/
def hotGroup (s : State) (p core : Nat) : Option Thread :=
  let min := (s.part p).reg.minres.toNat * cyclesPerMicro
  let able := (residents s core).filter fun th => th.run.savable && th.chain.isNone && !th.preempt && th.residentSince + min ≤ s.t
  let key (th : Thread) : Nat × Nat × Nat := match th.id with
    | .grp _ k g => (th.residentSince, k, g)
    | .sys _ => (th.residentSince, 0, 0)
  let before (a b : Nat × Nat × Nat) : Bool :=
    a.1 < b.1 || (a.1 == b.1 && (a.2.1 < b.2.1 || (a.2.1 == b.2.1 && a.2.2 < b.2.2)))
  match able with
  | [] => none
  | th :: rest => some (rest.foldl (fun b x => if before (key x) (key b) then x else b) th)

/-- The coolest core of the partition on the die, free of alarm, that has room for the group (R431). -/
def coolCore (s : State) (p kn core : Nat) (th : Thread) : Option Nat :=
  match s.kernel? p kn with
  | none => none
  | some k =>
    let cs := (bitMembers (s.part p).cores 384).filter fun c =>
      c != core && dieOfCore c == dieOfCore core && !(s.core c).alarm && restoreFits s p k th c
    match cs with
    | [] => none
    | c :: rest => some (rest.foldl (fun b x => if (s.core x).temp < (s.core b).temp then x else b) c)

/-- The thermal unit acts on a core, at most once per MINRES (R431). -/
def thermalMigrate (s : State) (core : Nat) : State :=
  match partOfCore s core with
  | none => s
  | some p =>
    let min := (s.part p).reg.minres.toNat * cyclesPerMicro
    let due := match (s.core core).lastMigration with
      | some t => decide (t + min ≤ s.t)
      | none => true
    if !due then s
    else match hotGroup s p core with
      | none => s
      | some th =>
        match th.id with
        | .sys _ => s
        | .grp _ kn _ =>
          match coolCore s p kn core th with
          | none => s
          | some c =>
            let s1 := requestPreempt (s.setThread { th with moveTo := some c }) th.id
            s1.setCore core { s1.core core with lastMigration := some s.t }

/-- A core's diode reads a temperature (R460): the alarm is raised at 95 °C, and the thermal unit acts; it clears below 90 °C. The
throttle sets in at 105 °C and ends below 100 °C. At 115 °C the package enters reset. -/
def senseCore (s : State) (core : Nat) (temp : Int) : State :=
  if 1840 ≤ temp then packageReset s
  else
    let k := s.core core
    let s1 := s.setCore core { k with
      temp, alarm := decide (1520 ≤ temp) || k.alarm && decide (1440 ≤ temp),
      throttle := decide (1680 ≤ temp) || k.throttle && decide (1600 ≤ temp) }
    if 1520 ≤ temp then thermalMigrate s1 core else s1

/-- THERMAL_ALARM (R460, 22 R431). -/
def execThermalAlarm (core : Nat) (temp : Int) (s : State) : Host.Outcome State Fault Refusal := .next (senseCore s core temp)

/-- THERMAL_ALARM_CLEAR (R460). -/
def execThermalAlarmClear (core : Nat) (temp : Int) (s : State) : Host.Outcome State Fault Refusal := .next (senseCore s core temp)

/-- THERMAL_THROTTLE (R460). -/
def execThermalThrottle (core : Nat) (temp : Int) (s : State) : Host.Outcome State Fault Refusal := .next (senseCore s core temp)

/-- THERMAL_THROTTLE_END (R460). -/
def execThermalThrottleEnd (core : Nat) (temp : Int) (s : State) : Host.Outcome State Fault Refusal := .next (senseCore s core temp)

/-- THERMAL_SHUTDOWN (R460): a diode at 115 °C puts the package into reset. -/
def execThermalShutdown (die : Nat) (temp : Int) (s : State) : Host.Outcome State Fault Refusal :=
  .next (if 1840 ≤ temp then packageReset s else s.setDie die { s.die die with tmax := temp })

/-- VOLTAGE_ADJUST (R461): VCORE lies between 360 and 520 mV, in steps of 5 mV. -/
def execVoltageAdjust (die millivolts : Nat) (s : State) : Host.Outcome State Fault Refusal :=
  .next (if 360 ≤ millivolts && millivolts ≤ 520 && millivolts % 5 == 0 then s.setDie die { s.die die with vcore := millivolts } else s)

/-! ### The housekeeping block (R457) -/

/-- The two's-complement image of a temperature in 1/16 °C. -/
def tempImage (x : Int) : Nat := imageOf 16 x

/-- Writes 2-byte fields one after the other. -/
def paHalves (s : State) (a : Nat) : List Nat → State
  | [] => s
  | x :: xs => paHalves (paWrite s a 2 x) (a + 2) xs

/-- Compute cores of a partition on a die. -/
def coresOnDie (x : Partition) (d : Nat) : Nat := (bitMembers x.cores 384).countP fun c => dieOfCore c == d

/-- A partition's part of the energy of a die's mesh, L2 and links, by the cores that each running partition holds there (R459),
rounded down. -/
def energyShare (s : State) (p d e : Nat) : Nat :=
  e * coresOnDie (s.part p) d / ((s.parts.filter fun x => x.2.running).map fun x => coresOnDie x.2 d).sum

/-- A diode is at 115 °C (R460). -/
def hotReading (r : Reading) : Bool := (r.coreTemp ++ r.dieTemp ++ r.stackTemp).any fun x => decide (1840 ≤ x)

/-- The sensors take a reading: what was drawn is added to the energies (R459), and temperatures act as R460 says. -/
def takeReading (s : State) (p : Nat) (r : Reading) : State :=
  if hotReading r then packageReset s
  else
    let s1 := { s with energy := s.energy + r.packageEnergy, power := r.packagePower, modulePower := r.modulePower,
                       channels := r.channels }
    let drawn := r.partEnergy + ((List.range 4).map fun d => energyShare s p d (r.dieEnergy.getD d 0)).sum
    let s2 := s1.setPart p { s1.part p with energy := (s1.part p).energy + drawn }
    let s3 := ((List.range 384).filter fun c => c < r.coreTemp.length).foldl (fun s c => senseCore s c (r.coreTemp.getD c 0)) s2
    (List.range 4).foldl (fun s d => s.setDie d { s.die d with
      pmon := r.processMonitor.getD d 0, tmax := r.dieTemp.getD d 0,
      thbm := [r.stackTemp.getD (2 * d) 0, r.stackTemp.getD (2 * d + 1) 0] }) s3

/-- The sensors as the state holds them. -/
def readingOf (s : State) : Reading :=
  let dies := (List.range 4).map s.die
  { packagePower := s.power, modulePower := s.modulePower,
    coreTemp := (List.range 384).map fun c => (s.core c).temp, processMonitor := dies.map (·.pmon),
    dieTemp := dies.map (·.tmax), stackTemp := (dies.map fun d => [d.thbm.getD 0 0, d.thbm.getD 1 0]).flatten,
    channels := s.channels }

/-- The housekeeping block of a running partition is written (R457): SEQ becomes odd, every field is written, SEQ becomes even. -/
def writeSample (s0 : State) (p : Nat) (r : Reading) : State :=
  let x := s0.part p
  if !x.running then s0
  else
    let a := x.reg.qtab.toNat + 0x420000
    let s1 := paWrite s0 a 8 (x.seq + 1)
    let s2 := paWrite s1 (a + 8) 8 (x.gt.now s1).toNat
    let s3 := paWrite (paWrite s2 (a + 0x10) 8 x.energy) (a + 0x18) 8 s0.energy
    let s4 := paWrite (paWrite s3 (a + 0x20) 4 r.packagePower) (a + 0x24) 4 r.modulePower
    let s5 := paHalves s4 (a + 0x28) (List.replicate 12 0)
    let s6 := paHalves s5 (a + 0x40) ((List.range 384).map fun c => if bitSet x.cores c then tempImage (r.coreTemp.getD c 0) else 0)
    let die (d : Nat) : List Nat := [(s6.die d).vcore, r.processMonitor.getD d 0, tempImage (r.dieTemp.getD d 0),
      tempImage (r.stackTemp.getD (2 * d) 0), tempImage (r.stackTemp.getD (2 * d + 1) 0), 0, 0, 0]
    let s7 := paHalves s6 (a + 0x340) ((List.range 4).map die).flatten
    let s8 := paHalves s7 (a + 0x380) ((List.range 96).map fun c => r.channels.getD c 0)
    let s9 := paHalves s8 (a + 0x440) (List.replicate 1504 0)
    let s10 := s9.setPart p { s9.part p with seq := x.seq + 2 }
    paWrite s10 a 8 (x.seq + 2)

/-- HOUSEKEEPING_SAMPLE (R457): the sensors take a reading, and the block is written. -/
def housekeepingSample (s : State) (p : Nat) (r : Reading) : State := writeSample (takeReading s p r) p r

/-- HOUSEKEEPING_SAMPLE (R457). -/
def execHousekeepingSample (part : Nat) (reading : Reading) (s : State) : Host.Outcome State Fault Refusal :=
  .next (housekeepingSample s part reading)

/-! ### The host (24 R448) -/

/-- A host access through CXL.mem is performed at home, as a wt load or store (R448): a load's bytes go to the host. -/
def hostPerform (s : State) (r : HostReq) : State :=
  let s1 := sendCrossing s 0 r.addr
  match r.write with
  | some bs => (writeHome s1 r.addr bs none).1
  | none =>
    let s2 := ensureEntry (settle s1 (r.addr / 128)) (r.addr / 128)
    { s2 with hostMem := s2.hostMem ++ [(r.addr, leBytes r.count (readHome s2 r.addr r.count))] }

/-- The host's next access (R448): the first that can cross from die 0 to its home and back (01 R15, R24); the others wait. -/
def dueHost (s : State) : Option State :=
  (s.hostReqs.find? fun r => lineReachable s 0 r.addr).map fun r => hostPerform { s with hostReqs := s.hostReqs.erase r } r

/-- A host access of `count` bytes as accesses within one line each. -/
def hostPieces : Nat → Nat → Nat → Option (List Byte) → List HostReq
  | 0, _, _, _ => []
  | n + 1, addr, count, write =>
    let k := min count (128 - addr % 128)
    if k == 0 then []
    else { addr, count := k, write := write.map fun bs => bs.take k } ::
      hostPieces n (addr + k) (count - k) (write.map fun bs => bs.drop k)

/-- HOST_CXL_MEM_ACCESS (R448): HBM4E and second-tier addresses only. -/
def execHostCxlMemAccess (addr : Nat) (write : Option (List Byte)) (count : Nat) (s : State) :
    Host.Outcome State Fault Refusal :=
  .next (let n := match write with
      | some bs => bs.length
      | none => count
    if paExists addr && paExists (addr + n - 1) && addr < 2 ^ 43 then
      { s with hostReqs := s.hostReqs ++ hostPieces (n / 128 + 2) addr n write }
    else s)

/-- What a read of BAR0 answers (R448): KLDB, KLRES and KCTL of a partition, the boot status, else 0. -/
def bar0Read (s : State) (offset : Nat) : Nat :=
  let p := offset / 0x100
  if offset == 0x1000 then s.bootStatus.toNat
  else if 8 ≤ p then 0
  else match offset % 0x100 with
    | 0 => readPartReg s p 0 0x1F
    | 8 => readPartReg s p 0 0x20
    | 16 => readPartReg s p 0 0x21
    | _ => 0

/-- A write through BAR0 (R448): KLDB and KCTL of a running partition take it; every other does nothing. -/
def bar0Write (s : State) (offset : Nat) (x : DWord) : State :=
  let p := offset / 0x100
  if 8 ≤ p || !(s.part p).running then s
  else match offset % 0x100 with
    | 0 => writePartReg s p 0 0x1F x
    | 16 => writePartReg s p 0 0x21 x
    | _ => s

/-- BAR0_ACCESS (R448). -/
def execBar0Access (offset : Nat) (write : Option DWord) (s : State) : Host.Outcome State Fault Refusal :=
  .next (match write with
    | none => { s with hostBar := s.hostBar ++ [(offset, bar0Read s offset)] }
    | some x => bar0Write s offset x)

end Sys2Proof.Machine
end

