-- ==== Sys2Proof/Machine/Scalar.lean ====
section
/-! DEFINITION. The scalar instructions (05_scalar R120..R141). -/

namespace Sys2Proof.Machine

/-- A two-operand integer form (R120, R121, R123): sources and result of class T. -/
def scalar2 (i : Instr) (f : Fields) (op : BitVec 4 → Nat → Nat → Nat → Nat) (s : State) :
    Host.Outcome State Fault Refusal :=
  computeV i f (fun th => .ok (valueT f.ty (op f.ty (intWidth f.ty) (th.regs.srcT f.ty f.a) (th.regs.srcBT f f.ty)))) s

/-- A one-operand integer form (R125). -/
def scalar1 (i : Instr) (f : Fields) (op : Nat → Nat → Nat) (s : State) : Host.Outcome State Fault Refusal :=
  computeV i f (fun th => .ok (valueT f.ty (op (intWidth f.ty) (th.regs.srcT f.ty f.a)))) s

/-- A two-operand float form on f32 (R131). -/
def scalarF (i : Instr) (f : Fields) (op : Nat → Nat → Nat) (s : State) : Host.Outcome State Fault Refusal :=
  computeV i f (fun th => .ok (.s (BitVec.ofNat 32 (op (th.regs.srcS f.a).toNat (th.regs.srcBS f).toNat)))) s

/-- `sadd` (R123). -/
def execSadd (f : Fields) (s : State) : Host.Outcome State Fault Refusal := scalar2 (.sadd f) f iAdd s

/-- `ssub` (R123). -/
def execSsub (f : Fields) (s : State) : Host.Outcome State Fault Refusal := scalar2 (.ssub f) f iSub s

/-- `smul` (R123). -/
def execSmul (f : Fields) (s : State) : Host.Outcome State Fault Refusal := scalar2 (.smul f) f iMul s

/-- `smulh` (R123). -/
def execSmulh (f : Fields) (s : State) : Host.Outcome State Fault Refusal := scalar2 (.smulh f) f iMulh s

/-- `sdiv` (R124). -/
def execSdiv (f : Fields) (s : State) : Host.Outcome State Fault Refusal := scalar2 (.sdiv f) f iDiv s

/-- `srem` (R124). -/
def execSrem (f : Fields) (s : State) : Host.Outcome State Fault Refusal := scalar2 (.srem f) f iRem s

/-- `sand` (R123). -/
def execSand (f : Fields) (s : State) : Host.Outcome State Fault Refusal := scalar2 (.sand f) f iAnd s

/-- `sor` (R123). -/
def execSor (f : Fields) (s : State) : Host.Outcome State Fault Refusal := scalar2 (.sor f) f iOr s

/-- `sxor` (R123). -/
def execSxor (f : Fields) (s : State) : Host.Outcome State Fault Refusal := scalar2 (.sxor f) f iXor s

/-- `sandn` (R123). -/
def execSandn (f : Fields) (s : State) : Host.Outcome State Fault Refusal := scalar2 (.sandn f) f iAndn s

/-- `sshl` (R123). -/
def execSshl (f : Fields) (s : State) : Host.Outcome State Fault Refusal := scalar2 (.sshl f) f iShl s

/-- `sshr` (R123). -/
def execSshr (f : Fields) (s : State) : Host.Outcome State Fault Refusal := scalar2 (.sshr f) f iShr s

/-- `ssra` (R123). -/
def execSsra (f : Fields) (s : State) : Host.Outcome State Fault Refusal := scalar2 (.ssra f) f iSra s

/-- `srot` (R123). -/
def execSrot (f : Fields) (s : State) : Host.Outcome State Fault Refusal := scalar2 (.srot f) f iRot s

/-- `smin` (R123). -/
def execSmin (f : Fields) (s : State) : Host.Outcome State Fault Refusal := scalar2 (.smin f) f iMin s

/-- `smax` (R123). -/
def execSmax (f : Fields) (s : State) : Host.Outcome State Fault Refusal := scalar2 (.smax f) f iMax s

/-- `sclz` (R125). -/
def execSclz (f : Fields) (s : State) : Host.Outcome State Fault Refusal := scalar1 (.sclz f) f iClz s

/-- `spopc` (R125). -/
def execSpopc (f : Fields) (s : State) : Host.Outcome State Fault Refusal := scalar1 (.spopc f) f iPopc s

/-- `sbrev` (R125). -/
def execSbrev (f : Fields) (s : State) : Host.Outcome State Fault Refusal := scalar1 (.sbrev f) f iBrev s

/-- `sbfx` (R126). -/
def execSbfx (f : Fields) (s : State) : Host.Outcome State Fault Refusal :=
  computeV (.sbfx f) f (fun th =>
    .ok (valueT f.ty (iBfx f.ty (intWidth f.ty) (th.regs.srcT f.ty f.a) (th.regs.srcBS f).toNat))) s

/-- `sbfi` (R126). -/
def execSbfi (f : Fields) (s : State) : Host.Outcome State Fault Refusal :=
  computeV (.sbfi f) f (fun th =>
    .ok (valueT f.ty (iBfi (intWidth f.ty) (th.regs.srcT f.ty f.a) (th.regs.srcBS f).toNat (th.regs.srcT f.ty f.c)))) s

/-- `ssel` (R127). -/
def execSsel (f : Fields) (s : State) : Host.Outcome State Fault Refusal :=
  computeV (.ssel f) f (fun th =>
    .ok (valueT f.ty (if th.regs.srcS f.c != 0 then th.regs.srcT f.ty f.a else th.regs.srcBT f f.ty))) s

/-- `scmp` (R127, 03 R64). -/
def execScmp (f : Fields) (s : State) : Host.Outcome State Fault Refusal :=
  computeV (.scmp f) f (fun th =>
    let w := intWidth f.ty
    .ok (.s (if intCond f.mo.toNat (val f.ty w (th.regs.srcT f.ty f.a)) (val f.ty w (th.regs.srcBT f f.ty)) then 1 else 0))) s

/-- The extension that `smov` makes of a scalar (R128). -/
def smovExt (ty : BitVec 4) (x : Nat) : Nat :=
  match ty.toNat with
  | 1 => signExt 8 32 x
  | 2 => signExt 16 32 x
  | 5 => x % 2 ^ 8
  | 6 => x % 2 ^ 16
  | _ => x

/-- `smov` (R128). -/
def execSmov (f : Fields) (s : State) : Host.Outcome State Fault Refusal :=
  computeV (.smov f) f (fun th => .ok (valueT f.ty (smovExt f.ty (th.regs.srcT f.ty f.a)))) s

/-- The constant of `sli` (R129). -/
def sliConst (f : Fields) : Nat :=
  match f.len with
  | .w64 => if isSigned f.ty then signExt 8 (intWidth f.ty) f.ax.toNat else f.ax.toNat
  | .w96 => if isSigned f.ty then signExt 32 (intWidth f.ty) f.imm32.toNat else f.imm32.toNat
  | .w128 => f.imm.toNat

/-- `sli` (R129). -/
def execSli (f : Fields) (s : State) : Host.Outcome State Fault Refusal :=
  computeV (.sli f) f (fun _ => .ok (valueT f.ty (sliConst f))) s

/-- `slea` (R130). -/
def execSlea (f : Fields) (s : State) : Host.Outcome State Fault Refusal :=
  computeV (.slea f) f (fun th =>
    let b := th.regs.srcS f.b
    let idx : DWord := if f.ty == 7 then b.zeroExtend 64 else b.signExtend 64
    let disp : DWord := if f.len == .w64 then 0 else f.imm32.signExtend 64
    .ok (.x (th.regs.readX f.a.toNat + (idx <<< f.ax.toNat) + disp))) s

/-- `sfadd` (R132). -/
def execSfadd (f : Fields) (s : State) : Host.Outcome State Fault Refusal :=
  scalarF (.sfadd f) f (fAdd 24 f.mo.toNat) s

/-- `sfsub` (R132). -/
def execSfsub (f : Fields) (s : State) : Host.Outcome State Fault Refusal :=
  scalarF (.sfsub f) f (fSub 24 f.mo.toNat) s

/-- `sfmul` (R132). -/
def execSfmul (f : Fields) (s : State) : Host.Outcome State Fault Refusal :=
  scalarF (.sfmul f) f (fMul 24 f.mo.toNat) s

/-- `sffma` (R132, 02 R52). -/
def execSffma (f : Fields) (s : State) : Host.Outcome State Fault Refusal :=
  computeV (.sffma f) f (fun th =>
    .ok (.s (BitVec.ofNat 32 (fFma 24 f.mo.toNat (th.regs.srcS f.a).toNat (th.regs.srcBS f).toNat (th.regs.srcS f.c).toNat)))) s

/-- `sfmin` (R133). -/
def execSfmin (f : Fields) (s : State) : Host.Outcome State Fault Refusal := scalarF (.sfmin f) f (fMin 24) s

/-- `sfmax` (R133). -/
def execSfmax (f : Fields) (s : State) : Host.Outcome State Fault Refusal := scalarF (.sfmax f) f (fMax 24) s

/-- `sfcmp` (R134, 03 R64). -/
def execSfcmp (f : Fields) (s : State) : Host.Outcome State Fault Refusal :=
  scalarF (.sfcmp f) f (fun a b => if fCond 24 f.mo.toNat a b then 1 else 0) s

/-- The register image of a converted element (R135): i types sign-extended, the rest zero-extended. -/
def cvtImage (ty : BitVec 4) (x : Nat) : Nat :=
  match ty.toNat with
  | 1 => signExt 8 32 x
  | 2 => signExt 16 32 x
  | _ => x

/-- `sfcvt` (R135): source type FN, destination type TY. -/
def execSfcvt (f : Fields) (s : State) : Host.Outcome State Fault Refusal :=
  computeV (.sfcvt f) f (fun th =>
    .ok (valueT f.ty (cvtImage f.ty
      (convert f.fn.toNat f.ty.toNat f.mo.toNat th.regs.sr.srseed (th.regs.srcT f.fn f.a))))) s

/-- `sfsqrt` (R134). -/
def execSfsqrt (f : Fields) (s : State) : Host.Outcome State Fault Refusal :=
  computeV (.sfsqrt f) f (fun th => .ok (.s (BitVec.ofNat 32 (fSqrt (th.regs.srcS f.a).toNat)))) s

/-! ### System registers (R136..R138) -/

/-- STATUS as `srd` reads it (R137). -/
def SReg.status (r : SReg) : Word := BitVec.ofNat 32 (r.statusLast.toNat + if r.statusErr then 256 else 0)

/-- The group index of a thread; on a system core the spec gives no value (log 11). -/
def gidOf (s : State) : ThreadId → Word
  | .grp _ _ g => BitVec.ofNat 32 g
  | .sys _ => (s.freeWord).1

/-- What `srd` reads (R136; CLU of a core in no cluster, a system core among them, by 13 R270). On a system core GID, CORE,
STAGE and TEAMS have no stated value: a free value (log 11). -/
def srdValue (s : State) (th : Thread) (n : Nat) : Word :=
  let r := th.regs.sr
  let group := match th.id with
    | .grp _ _ _ => true
    | .sys _ => false
  let free := (s.freeWord).1
  match n with
  | 0x00 => gidOf s th.id
  | 0x01 => if group then BitVec.ofNat 32 th.core else free
  | 0x02 => match slotOfCore s th.core with
    | some k => BitVec.ofNat 32 k
    | none => 0xFFFFFFFF
  | 0x03 => (s.core th.core).lclk.zeroExtend 32
  | 0x04 => r.lease.zeroExtend 32
  | 0x05 => (s.part (partOf s th.id)).reg.lclkper.zeroExtend 32
  | 0x06 => r.srseed
  | 0x07 => r.mcr.zeroExtend 32
  | 0x08 => r.mrho
  | 0x09 => if group then r.stage.zeroExtend 32 else free
  | 0x0A => if group then r.teams else free
  | 0x0B => BitVec.ofNat 32 th.lc
  | 0x0C => BitVec.ofNat 32 th.sc
  | 0x0D => r.status
  | 0x0E => r.keylo
  | _ => r.keyhi

/-- `srd` (R138). -/
def execSrd (f : Fields) (s : State) : Host.Outcome State Fault Refusal :=
  compute (.srd f) f (fun th => .ok (th, .s (srdValue s th f.ax.toNat))) { s with free := s.free + 1 }

/-- MRHO as it is stored (09 R187). -/
def clampRho (x : Word) : Word :=
  let n := x.toNat
  if isNaN 24 n then 0
  else if n % 2 ^ 31 == 0 then 0
  else if 0x3F800000 < n % 2 ^ 31 then (if 2 ^ 31 ≤ n then 0xBF800000 else 0x3F800000)
  else x

/-- A write of a per-group register, field by field (R136, R137, 09 R186, R187). -/
def SReg.write (r : SReg) (n : Nat) (x : Word) : SReg :=
  match n with
  | 0x04 => { r with lease := if x.extractLsb' 0 8 == 0 then 1 else x.extractLsb' 0 8 }
  | 0x06 => { r with srseed := x }
  | 0x07 => { r with mcr := x.extractLsb' 0 8 &&& 0xF7 }
  | 0x08 => { r with mrho := clampRho x }
  | 0x0D => { r with statusLast := x.extractLsb' 0 8, statusErr := r.statusErr && !x.getLsbD 8 }
  | 0x0E => { r with keylo := x }
  | 0x0F => { r with keyhi := x }
  | _ => r

/-- `swr` (R138). -/
def execSwr (f : Fields) (s : State) : Host.Outcome State Fault Refusal :=
  compute (.swr f) f (fun th =>
    .ok ({ th with regs := { th.regs with sr := th.regs.sr.write f.ax.toNat (th.regs.srcS f.a) } }, .none)) s

/-- `sgtime` (R139). -/
def execSgtime (f : Fields) (s : State) : Host.Outcome State Fault Refusal :=
  compute (.sgtime f) f (fun th =>
    let c := (s.core th.core).gt
    let v := maxGt (c.now s) th.lastTime
    .ok ({ th with lastTime := v, regs := th.regs.setStatus (if c.sync then stOk else stTimeUnsync) }, .x v)) s

/-- `srnd` (R140). -/
def execSrnd (f : Fields) (s : State) : Host.Outcome State Fault Refusal :=
  computeV (.srnd f) f (fun th =>
    let r := th.regs
    let k := r.readX f.b.toNat
    .ok (.s (if f.fn == 0 then keyed (r.srcS f.a) (k.extractLsb' 0 32) (k.extractLsb' 32 32)
      else keyed (r.srcS f.a) r.sr.keylo r.sr.keyhi))) s

/-- `smcnt` (R141). -/
def execSmcnt (f : Fields) (s : State) : Host.Outcome State Fault Refusal :=
  computeV (.smcnt f) f (fun th =>
    let ls := Lanes (th.regs.readZ f.a.toNat)
    .ok (.s (BitVec.ofNat 32 (if f.fn == 0 then ls.length else ls.headD 96)))) s

end Sys2Proof.Machine
end

