-- ==== Sys2Proof/Machine/Vector.lean ====
section
/-! DEFINITION. The vector integer and lane instructions (06_vector R142..R161). -/

namespace Sys2Proof.Machine

/-- A vector result: the active lanes of D take `g i`, the others keep their bits under the tag (R95, R97). -/
def vecResult (th : Thread) (f : Fields) (tag : Tag) (g : Nat → Word) : Value :=
  .v { tag, lanes := mapActive th.regs.mask (th.regs.destV f).lanes g }

/-- A two-operand element-wise form (R142, R143, R145). -/
def vector2 (i : Instr) (f : Fields) (op : BitVec 4 → Nat → Nat → Nat → Nat) (s : State) :
    Host.Outcome State Fault Refusal :=
  computeV i f (fun th =>
    let w := intWidth f.ty
    let t := tagOfInt f.ty
    let a := th.regs.srcV f f.a
    let b := th.regs.srcBV f w t
    match needTag (tagOk [t] a.tag && tagOk [t] b.tag) with
    | .error e => .error e
    | .ok _ => .ok (vecResult th f t fun i => laneOp2 w (op f.ty w) (laneOf a.lanes i) (laneOf b.lanes i))) s

/-- A one-operand element-wise form (R145). -/
def vector1 (i : Instr) (f : Fields) (op : BitVec 4 → Nat → Nat → Nat) (s : State) : Host.Outcome State Fault Refusal :=
  computeV i f (fun th =>
    let w := intWidth f.ty
    let t := tagOfInt f.ty
    let a := th.regs.srcV f f.a
    match needTag (tagOk [t] a.tag) with
    | .error e => .error e
    | .ok _ => .ok (vecResult th f t fun i => laneOp1 w (op f.ty w) (laneOf a.lanes i))) s

/-- |Val(a)| (R145). -/
def iAbs (ty : BitVec 4) (w a : Nat) : Nat := (val ty w a).natAbs % 2 ^ w

/-- `vadd` (R145). -/
def execVadd (f : Fields) (s : State) : Host.Outcome State Fault Refusal := vector2 (.vadd f) f iAdd s

/-- `vsub` (R145). -/
def execVsub (f : Fields) (s : State) : Host.Outcome State Fault Refusal := vector2 (.vsub f) f iSub s

/-- `vmul` (R145). -/
def execVmul (f : Fields) (s : State) : Host.Outcome State Fault Refusal := vector2 (.vmul f) f iMul s

/-- `vmulh` (R145). -/
def execVmulh (f : Fields) (s : State) : Host.Outcome State Fault Refusal := vector2 (.vmulh f) f iMulh s

/-- `vand` (R145). -/
def execVand (f : Fields) (s : State) : Host.Outcome State Fault Refusal := vector2 (.vand f) f iAnd s

/-- `vor` (R145). -/
def execVor (f : Fields) (s : State) : Host.Outcome State Fault Refusal := vector2 (.vor f) f iOr s

/-- `vxor` (R145). -/
def execVxor (f : Fields) (s : State) : Host.Outcome State Fault Refusal := vector2 (.vxor f) f iXor s

/-- `vandn` (R145). -/
def execVandn (f : Fields) (s : State) : Host.Outcome State Fault Refusal := vector2 (.vandn f) f iAndn s

/-- `vshl` (R145). -/
def execVshl (f : Fields) (s : State) : Host.Outcome State Fault Refusal := vector2 (.vshl f) f iShl s

/-- `vshr` (R145). -/
def execVshr (f : Fields) (s : State) : Host.Outcome State Fault Refusal := vector2 (.vshr f) f iShr s

/-- `vsra` (R145). -/
def execVsra (f : Fields) (s : State) : Host.Outcome State Fault Refusal := vector2 (.vsra f) f iSra s

/-- `vmin` (R145). -/
def execVmin (f : Fields) (s : State) : Host.Outcome State Fault Refusal := vector2 (.vmin f) f iMin s

/-- `vmax` (R145). -/
def execVmax (f : Fields) (s : State) : Host.Outcome State Fault Refusal := vector2 (.vmax f) f iMax s

/-- `vabs` (R145). -/
def execVabs (f : Fields) (s : State) : Host.Outcome State Fault Refusal := vector1 (.vabs f) f iAbs s

/-- `vclz` (R145). -/
def execVclz (f : Fields) (s : State) : Host.Outcome State Fault Refusal := vector1 (.vclz f) f (fun _ => iClz) s

/-- `vpopc` (R145). -/
def execVpopc (f : Fields) (s : State) : Host.Outcome State Fault Refusal := vector1 (.vpopc f) f (fun _ => iPopc) s

/-- `vmad` (R145): a·b + c formed exactly and reduced once. -/
def execVmad (f : Fields) (s : State) : Host.Outcome State Fault Refusal :=
  computeV (.vmad f) f (fun th =>
    let w := intWidth f.ty
    let t := tagOfInt f.ty
    let a := th.regs.srcV f f.a
    let b := th.regs.srcBV f w t
    let c := th.regs.srcV f f.c
    match needTag (tagOk [t] a.tag && tagOk [t] b.tag && tagOk [t] c.tag) with
    | .error e => .error e
    | .ok _ => .ok (vecResult th f t fun i =>
        laneOp3 w (fun x y z => x * y + z) (laneOf a.lanes i) (laneOf b.lanes i) (laneOf c.lanes i))) s

/-- `vbfx` (R146). -/
def execVbfx (f : Fields) (s : State) : Host.Outcome State Fault Refusal :=
  computeV (.vbfx f) f (fun th =>
    let a := th.regs.srcV f f.a
    let b := th.regs.srcBV f 32 I32
    match needTag (tagOk [I32, N32] a.tag && tagOk [I32, N32] b.tag) with
    | .error e => .error e
    | .ok _ => .ok (vecResult th f (tagOfInt f.ty) fun i =>
        BitVec.ofNat 32 (iBfx f.ty 32 (laneOf a.lanes i).toNat (laneOf b.lanes i).toNat))) s

/-- `vsel` (R147). -/
def execVsel (f : Fields) (s : State) : Host.Outcome State Fault Refusal :=
  computeV (.vsel f) f (fun th =>
    let a := th.regs.srcV f f.a
    let b := th.regs.srcV f f.b
    let z := th.regs.readZ f.c.toNat
    match needTag (tagAny a.tag && tagAny b.tag) with
    | .error e => .error e
    | .ok _ => .ok (vecResult th f (if a.tag == RAW then b.tag else a.tag) fun i =>
        if z.getLsbD i then laneOf a.lanes i else laneOf b.lanes i)) s

/-- `vcmp` (R148). -/
def execVcmp (f : Fields) (s : State) : Host.Outcome State Fault Refusal :=
  computeV (.vcmp f) f (fun th =>
    let t := tagOfInt f.ty
    let a := th.regs.srcV f f.a
    let b := th.regs.srcBV f 32 t
    match needTag (tagOk [t] a.tag && tagOk [t] b.tag) with
    | .error e => .error e
    | .ok _ => .ok (.z (maskOf th.regs.mask fun i =>
        intCond f.mo.toNat (val f.ty 32 (laneOf a.lanes i).toNat) (val f.ty 32 (laneOf b.lanes i).toNat)))) s

/-- `vmov` (R149, R150). -/
def execVmov (f : Fields) (s : State) : Host.Outcome State Fault Refusal :=
  computeV (.vmov f) f (fun th =>
    let a := th.regs.srcV f f.a
    match needTag (tagAny a.tag) with
    | .error e => .error e
    | .ok _ => .ok (vecResult th f (if f.ty == 0 then a.tag else tagOfTy f.ty) fun i => laneOf a.lanes i)) s

/-- `vlid` (R149). -/
def execVlid (f : Fields) (s : State) : Host.Outcome State Fault Refusal :=
  computeV (.vlid f) f (fun th => .ok (vecResult th f N32 fun i => BitVec.ofNat 32 i + th.regs.srcS f.a)) s

/-- `vbc` (R149, R150). -/
def execVbc (f : Fields) (s : State) : Host.Outcome State Fault Refusal :=
  computeV (.vbc f) f (fun th =>
    .ok (vecResult th f (if f.ty == 0 then RAW else tagOfTy f.ty) fun _ => th.regs.srcS f.a)) s

/-- `vget` (R151). -/
def execVget (f : Fields) (s : State) : Host.Outcome State Fault Refusal :=
  computeV (.vget f) f (fun th =>
    let a := th.regs.srcV f f.a
    let l := (th.regs.srcBS f).toNat
    match needTag (tagAny a.tag) with
    | .error e => .error e
    | .ok _ => .ok (.s (if l < 96 then laneOf a.lanes l else 0))) s

/-- `vput` (R151). With l ≥ 96 nothing is written and no result is produced. With ND = 1 the latch takes the tag RAW (log 63). -/
def execVput (f : Fields) (s : State) : Host.Outcome State Fault Refusal :=
  computeV (.vput f) f (fun th =>
    let d := th.regs.destV f
    let l := (th.regs.srcBS f).toNat
    match needTag (tagAny d.tag) with
    | .error e => .error e
    | .ok _ => .ok (if l < 96 then .v { d with lanes := lset d.lanes l (th.regs.srcS f.a) } else .none)) s

/-- Src(p) (R152): the bits of lane p of A where p is a launched lane, else 0. -/
def srcLane (ll : Mask) (a : VReg) (p : Nat) : Word := if p < 96 && ll.getLsbD p then laneOf a.lanes p else 0

/-- `vperm` (R153). -/
def execVperm (f : Fields) (s : State) : Host.Outcome State Fault Refusal :=
  computeV (.vperm f) f (fun th =>
    let a := th.regs.srcV f f.a
    let b := th.regs.srcV f f.b
    match needTag (tagAny a.tag && tagOk [I32, N32] b.tag) with
    | .error e => .error e
    | .ok _ => .ok (vecResult th f a.tag fun i => srcLane th.ll a (laneOf b.lanes i).toNat)) s

/-- The source lane of `vshuf` for lane i (R153); a lane below 0 is given as 96, which reads 0. -/
def shufLane (fn k i : Nat) : Nat :=
  match fn with
  | 0 => (i + k) % 96
  | 1 => if k ≤ i then i - k else 96
  | 2 => i + k
  | _ => i ^^^ k

/-- `vshuf` (R153). -/
def execVshuf (f : Fields) (s : State) : Host.Outcome State Fault Refusal :=
  computeV (.vshuf f) f (fun th =>
    let a := th.regs.srcV f f.a
    let k := (th.regs.srcBS f).toNat
    match needTag (tagAny a.tag) with
    | .error e => .error e
    | .ok _ => .ok (vecResult th f a.tag fun i => srcLane th.ll a (shufLane f.fn.toNat k i))) s

/-- The expected tag of a reduction or scan (R154). -/
def redTag (ty : BitVec 4) : Tag := if ty == 10 then F32 else tagOfInt ty

/-- `vred` (R155). -/
def execVred (f : Fields) (s : State) : Host.Outcome State Fault Refusal :=
  computeV (.vred f) f (fun th =>
    let a := th.regs.srcV f f.a
    let op := aluOp f.fn.toNat f.ty.toNat 32
    match needTag (tagOk [redTag f.ty] a.tag) with
    | .error e => .error e
    | .ok _ => .ok (.s (BitVec.ofNat 32 (reduceTree op ((List.range 96).map fun i =>
        if th.regs.mask.getLsbD i then (laneOf a.lanes i).toNat else aluIdentity f.fn.toNat f.ty.toNat))))) s

/-- The outputs of a scan over the lanes in order (R156). -/
def scanLanes (op : Nat → Nat → Nat) (excl : Bool) (acc : Nat) : List Nat → List Nat
  | [] => []
  | w :: ws => (if excl then acc else op acc w) :: scanLanes op excl (op acc w) ws

/-- `vscan` (R156). -/
def execVscan (f : Fields) (s : State) : Host.Outcome State Fault Refusal :=
  computeV (.vscan f) f (fun th =>
    let a := th.regs.srcV f f.a
    let fn := f.fn.toNat % 8
    let unit := aluIdentity fn f.ty.toNat
    let out := scanLanes (aluOp fn f.ty.toNat 32) (8 ≤ f.fn.toNat) unit ((List.range 96).map fun i =>
      if th.regs.mask.getLsbD i then (laneOf a.lanes i).toNat else unit)
    match needTag (tagOk [redTag f.ty] a.tag) with
    | .error e => .error e
    | .ok _ => .ok (vecResult th f (redTag f.ty) fun i => BitVec.ofNat 32 (out.getD i 0))) s

/-- Bin width and tag of the histogram forms (R157). -/
def binWidth (ty : BitVec 4) : Nat := if ty == 6 then 16 else 8
def binTag (ty : BitVec 4) : Tag := if ty == 6 then N16X2 else N8X4

/-- Counts one value into a lane's bins; a full bin stays full (R157). -/
def countBin (w j : Nat) (x : Word) : Word :=
  let es := elemsOf w x
  let e := es.getD j 0
  BitVec.ofNat 32 (ofElems w (lset es j (if e + 1 < 2 ^ w then e + 1 else 2 ^ w - 1)))

/-- `vhist` (R157). -/
def execVhist (f : Fields) (s : State) : Host.Outcome State Fault Refusal :=
  computeV (.vhist f) f (fun th =>
    let a := th.regs.srcV f f.a
    let d := th.regs.destV f
    let base := th.regs.srcBS f
    let w := binWidth f.ty
    match needTag (tagOk [I32, N32] a.tag && tagOk [binTag f.ty] d.tag) with
    | .error e => .error e
    | .ok _ => .ok (vecResult th f (binTag f.ty) fun i =>
        let j := (laneOf a.lanes i - base).toNat
        if j < 32 / w then countBin w j (laneOf d.lanes i) else laneOf d.lanes i)) s

/-- `vbinm` (R158). -/
def execVbinm (f : Fields) (s : State) : Host.Outcome State Fault Refusal :=
  computeV (.vbinm f) f (fun th =>
    let a := th.regs.srcV f f.a
    let d := th.regs.destV f
    let base := (th.regs.srcBS f).toNat
    let w := binWidth f.ty
    match needTag (tagOk [binTag f.ty] a.tag && tagOk [N32] d.tag) with
    | .error e => .error e
    | .ok _ =>
      let total (j : Nat) : Nat := (Lanes th.regs.mask).foldl (fun n i => n + (elemsOf w (laneOf a.lanes i)).getD j 0) 0
      .ok (.v { tag := N32, lanes := (List.range 96).map fun t =>
        if base ≤ t && t < base + 32 / w then laneOf d.lanes t + BitVec.ofNat 32 (total (t - base)) else laneOf d.lanes t })) s

/-- `vcx` (R159). -/
def execVcx (f : Fields) (s : State) : Host.Outcome State Fault Refusal :=
  computeV (.vcx f) f (fun th =>
    let a := th.regs.srcV f f.a
    let k := (th.regs.srcBS f).toNat
    let dir := (th.regs.srcS f.c).toNat
    let t := tagOfInt f.ty
    match needTag (tagOk [t] a.tag) with
    | .error e => .error e
    | .ok _ => .ok (vecResult th f t fun i =>
        let p := i ^^^ k
        let x := laneOf a.lanes i
        if 96 ≤ p || !th.regs.mask.getLsbD p || p == i then x
        else
          let y := laneOf a.lanes p
          let vx := val f.ty 32 x.toNat
          let vy := val f.ty 32 y.toNat
          let up := f.fn == 0 || (f.fn == 2 && (i &&& dir) == 0)
          if vx == vy then x
          else if decide (i < p) == up then (if vx < vy then x else y) else (if vx < vy then y else x))) s

/-- `vrnd` (R160). -/
def execVrnd (f : Fields) (s : State) : Host.Outcome State Fault Refusal :=
  computeV (.vrnd f) f (fun th =>
    let a := th.regs.srcV f f.a
    let k := th.regs.readX f.b.toNat
    let klo := if f.fn == 0 then k.extractLsb' 0 32 else th.regs.sr.keylo
    let khi := if f.fn == 0 then k.extractLsb' 32 32 else th.regs.sr.keyhi
    match needTag (tagAny a.tag) with
    | .error e => .error e
    | .ok _ => .ok (vecResult th f N32 fun i => keyed (laneOf a.lanes i) klo khi)) s

end Sys2Proof.Machine
end

