-- ==== Sys2Proof/Machine/VectorFloat.lean ====
section
/-! DEFINITION. The vector floating-point and narrow-format instructions (07_vector_float R162..R180). -/

namespace Sys2Proof.Machine

/-- Precision and element width of a float type (R162). -/
def floatPrec (ty : BitVec 4) : Nat := if ty == 9 then 8 else 24
def floatWidth (ty : BitVec 4) : Nat := if ty == 9 then 16 else 32

/-- A two-operand float form (R162, R163). -/
def vfloat2 (i : Instr) (f : Fields) (op : Nat → Nat → Nat → Nat) (s : State) : Host.Outcome State Fault Refusal :=
  computeV i f (fun th =>
    let w := floatWidth f.ty
    let t := tagOfFloat f.ty
    let a := th.regs.srcV f f.a
    let b := th.regs.srcBV f w t
    match needTag (tagOk [t] a.tag && tagOk [t] b.tag) with
    | .error e => .error e
    | .ok _ => .ok (vecResult th f t fun i => laneOp2 w (op (floatPrec f.ty)) (laneOf a.lanes i) (laneOf b.lanes i))) s

/-- The value of a one-operand float form (R162). -/
def floatBody1 (f : Fields) (tag : Tag) (op : Nat → Nat → Nat) (th : Thread) : Res Value :=
  let t := tagOfFloat f.ty
  let a := th.regs.srcV f f.a
  match needTag (tagOk [t] a.tag) with
  | .error e => .error e
  | .ok _ => .ok (vecResult th f tag fun i => laneOp1 (floatWidth f.ty) (op (floatPrec f.ty)) (laneOf a.lanes i))

/-- A one-operand float form of the vector unit. -/
def vfloat1 (i : Instr) (f : Fields) (op : Nat → Nat → Nat) (s : State) : Host.Outcome State Fault Refusal :=
  computeV i f (floatBody1 f (tagOfFloat f.ty) op) s

/-- A one-operand float form of the special-function unit (R167). -/
def vfloatSfu (i : Instr) (f : Fields) (op : Nat → Nat) (s : State) : Host.Outcome State Fault Refusal :=
  computeSfu i f (floatBody1 f F32 fun _ => op) s

/-- `vfadd` (R165). -/
def execVfadd (f : Fields) (s : State) : Host.Outcome State Fault Refusal := vfloat2 (.vfadd f) f (fun p => fAdd p f.mo.toNat) s

/-- `vfsub` (R165). -/
def execVfsub (f : Fields) (s : State) : Host.Outcome State Fault Refusal := vfloat2 (.vfsub f) f (fun p => fSub p f.mo.toNat) s

/-- `vfmul` (R165). -/
def execVfmul (f : Fields) (s : State) : Host.Outcome State Fault Refusal := vfloat2 (.vfmul f) f (fun p => fMul p f.mo.toNat) s

/-- `vfdiv` (R168). -/
def execVfdiv (f : Fields) (s : State) : Host.Outcome State Fault Refusal := vfloat2 (.vfdiv f) f fDiv s

/-- `vfmin` (R166). -/
def execVfmin (f : Fields) (s : State) : Host.Outcome State Fault Refusal := vfloat2 (.vfmin f) f fMin s

/-- `vfmax` (R166). -/
def execVfmax (f : Fields) (s : State) : Host.Outcome State Fault Refusal := vfloat2 (.vfmax f) f fMax s

/-- `vfabs` (R166). -/
def execVfabs (f : Fields) (s : State) : Host.Outcome State Fault Refusal := vfloat1 (.vfabs f) f fAbs s

/-- `vfneg` (R166). -/
def execVfneg (f : Fields) (s : State) : Host.Outcome State Fault Refusal := vfloat1 (.vfneg f) f fNegate s

/-- `vfsqrt` (R168). -/
def execVfsqrt (f : Fields) (s : State) : Host.Outcome State Fault Refusal := vfloat1 (.vfsqrt f) f (fun _ => fSqrt) s

/-- `vfrcp` (R167, R168). -/
def execVfrcp (f : Fields) (s : State) : Host.Outcome State Fault Refusal := vfloatSfu (.vfrcp f) f fRcp s

/-- `vfrsq` (R167, R168). -/
def execVfrsq (f : Fields) (s : State) : Host.Outcome State Fault Refusal := vfloatSfu (.vfrsq f) f fRsq s

/-- `vfexp2` (R167, R168). -/
def execVfexp2 (f : Fields) (s : State) : Host.Outcome State Fault Refusal := vfloatSfu (.vfexp2 f) f fExp2 s

/-- `vflog2` (R167, R168). -/
def execVflog2 (f : Fields) (s : State) : Host.Outcome State Fault Refusal := vfloatSfu (.vflog2 f) f fLog2 s

/-- `vfsin` (R167, R168). -/
def execVfsin (f : Fields) (s : State) : Host.Outcome State Fault Refusal := vfloatSfu (.vfsin f) f fSin s

/-- `vfcos` (R167, R168). -/
def execVfcos (f : Fields) (s : State) : Host.Outcome State Fault Refusal := vfloatSfu (.vfcos f) f fCos s

/-- `vftanh` (R167, R168). -/
def execVftanh (f : Fields) (s : State) : Host.Outcome State Fault Refusal := vfloatSfu (.vftanh f) f fTanh s

/-- `vferf` (R167, R168). -/
def execVferf (f : Fields) (s : State) : Host.Outcome State Fault Refusal := vfloatSfu (.vferf f) f fErf s

/-- `vffma` (R165). -/
def execVffma (f : Fields) (s : State) : Host.Outcome State Fault Refusal :=
  computeV (.vffma f) f (fun th =>
    let w := floatWidth f.ty
    let t := tagOfFloat f.ty
    let a := th.regs.srcV f f.a
    let b := th.regs.srcBV f w t
    let c := th.regs.srcV f f.c
    match needTag (tagOk [t] a.tag && tagOk [t] b.tag && tagOk [t] c.tag) with
    | .error e => .error e
    | .ok _ => .ok (vecResult th f t fun i =>
        laneOp3 w (fFma (floatPrec f.ty) f.mo.toNat) (laneOf a.lanes i) (laneOf b.lanes i) (laneOf c.lanes i))) s

/-- `vfcmp` (R169). -/
def execVfcmp (f : Fields) (s : State) : Host.Outcome State Fault Refusal :=
  computeV (.vfcmp f) f (fun th =>
    let a := th.regs.srcV f f.a
    let b := th.regs.srcBV f 32 F32
    match needTag (tagOk [F32] a.tag && tagOk [F32] b.tag) with
    | .error e => .error e
    | .ok _ => .ok (.z (maskOf th.regs.mask fun i =>
        fCond 24 f.mo.toNat (laneOf a.lanes i).toNat (laneOf b.lanes i).toNat))) s

/-- `vfclass` (R170). -/
def execVfclass (f : Fields) (s : State) : Host.Outcome State Fault Refusal :=
  computeV (.vfclass f) f (floatBody1 f N32 fun _ => fClass) s

/-- The converted lane of `vcvt` for part P (R172). -/
def cvtLane (f : Fields) (seed : Word) (a d : Word) : Word :=
  let es := elemsPerLane f.fn.toNat
  let ed := elemsPerLane f.ty.toNat
  let p := f.ax.toNat
  let cv (x : Nat) : Nat := convert f.fn.toNat f.ty.toNat f.mo.toNat seed x
  let src := elemsOf (32 / es) a
  let dst := elemsOf (32 / ed) d
  let out :=
    if ed == es then src.map cv
    else if es < ed then (List.range ed).map fun j => if p * es ≤ j && j < p * es + es then cv (src.getD (j - p * es) 0) else dst.getD j 0
    else (List.range ed).map fun j => cv (src.getD (p * ed + j) 0)
  BitVec.ofNat 32 (ofElems (32 / ed) out)

/-- The tag of the source type of `vcvt`; FN 0 is f32 (R171). -/
def cvtSrcTag (fn : BitVec 4) : Tag := if fn == 0 then F32 else tagOfTy fn

/-- `vcvt` (R171, R172). -/
def execVcvt (f : Fields) (s : State) : Host.Outcome State Fault Refusal :=
  computeV (.vcvt f) f (fun th =>
    let a := th.regs.srcV f f.a
    let d := th.regs.destV f
    let t := tagOfTy f.ty
    let keeps := elemsPerLane f.fn.toNat < elemsPerLane f.ty.toNat
    match needTag (tagOk [cvtSrcTag f.fn] a.tag && (!keeps || tagOk [t] d.tag)) with
    | .error e => .error e
    | .ok _ => .ok (vecResult th f t fun i => cvtLane f th.regs.sr.srseed (laneOf a.lanes i) (laneOf d.lanes i))) s

/-- `vbfma` (R173); an exact zero is +0 by R173 and 02 R45, also where 02 R52 with R36 would give −0 (log 62). -/
def execVbfma (f : Fields) (s : State) : Host.Outcome State Fault Refusal :=
  computeV (.vbfma f) f (fun th =>
    let a := th.regs.srcV f f.a
    let b := th.regs.srcV f f.b
    let c := th.regs.srcV f f.c
    match needTag (tagOk [BF16X2] a.tag && tagOk [BF16X2] b.tag && tagOk [F32] c.tag) with
    | .error e => .error e
    | .ok _ => .ok (vecResult th f F32 fun i =>
        BitVec.ofNat 32 (fusedSum (laneOf c.lanes i).toNat 8
          (List.zip (elemsOf 16 (laneOf a.lanes i)) (elemsOf 16 (laneOf b.lanes i)))))) s

/-! ### Q4 blocks (R174..R179) -/

/-- Vmax of a code type (R174). -/
def q4Max (t : Nat) : Nat :=
  match t with
  | 0 => 7
  | 1 => 6
  | 2 => 1
  | _ => 12

/-- The scale of a block whose greatest magnitude is n/d (R174), and whether it was clamped. -/
def q4Choose (t n d : Nat) : Nat × Bool :=
  let e := floorLog2 n (d * q4Max t)
  let num := if e < 0 then n * 2 ^ e.natAbs else n
  let den := if e < 0 then d * q4Max t else d * q4Max t * 2 ^ e.toNat
  let sm := ((num - den) * 1024 + den - 1) / den
  let e1 := if sm == 1024 then e + 1 else e
  let sm1 := if sm == 1024 then 0 else sm
  if e1 < -126 then (1 * 2 ^ 10, true)
  else if 127 < e1 then (254 * 2 ^ 10 + 1023, true)
  else ((e1 + 127).toNat * 2 ^ 10 + sm1, false)

/-- One block of `vq4s`: the scale, whether it is a NaN block, whether it was clamped (R174, R175). -/
def q4Block (t : Nat) (xs : List Nat) : Nat × Bool × Bool :=
  if xs.any fun x => fExp 24 x == 255 then (t * 2 ^ 18 + 255 * 2 ^ 10, true, false)
  else
    let m := xs.foldl (fun m x => Nat.max m (x % 2 ^ 31)) 0
    match fDecode 24 m with
    | .fin _ n d => let (s, c) := q4Choose t n d
                    (t * 2 ^ 18 + s, false, c)
    | _ => (t * 2 ^ 18, false, false)

/-- `vq4s` (R174, R175). -/
def execVq4s (f : Fields) (s : State) : Host.Outcome State Fault Refusal :=
  compute (.vq4s f) f (fun th =>
    let a := th.regs.srcV f f.a
    let block (k : Nat) : Nat × Bool × Bool := q4Block f.fn.toNat
      (((Lanes th.regs.mask).filter fun i => i / 32 == k).map fun i => (laneOf a.lanes i).toNat)
    match needTag (tagOk [F32] a.tag) with
    | .error e => .error e
    | .ok _ =>
      let bs := [block 0, block 1, block 2]
      let word := (block 0).1 + (block 1).1 * 2 ^ 20 + (block 2).1 * 2 ^ 40
      let code := if bs.any fun b => b.2.1 then stQNan else if bs.any fun b => b.2.2 then stQRange else stOk
      .ok ({ th with regs := th.regs.setStatus code }, .x (BitVec.ofNat 64 word))) s

/-- The values of a code type with their codes, one code for each value: 0x0 for zero (R177). The values are over 64. -/
def q4Points (t : Nat) : List (Int × Nat) :=
  (List.range 16).filterMap fun c => (q4Value t c).map fun v => (v, c)

/-- Of two points, the greater or the lesser. -/
def q4Above (x y : Int × Nat) : Int × Nat := if x.1 < y.1 then y else x
def q4Below (x y : Int × Nat) : Int × Nat := if y.1 < x.1 then y else x

/-- The code chosen for q = num/den by a mode (R177), and whether it saturated. -/
def q4Round (t mode : Nat) (seed : Word) (num : Int) (den : Nat) : Nat × Bool :=
  let ps := q4Points t
  let top := ps.foldl q4Above (0, 0)
  let bot := ps.foldl q4Below (0, 0)
  let q := num * 64
  if top.1 * den < q then (top.2, true)
  else if q < bot.1 * den then (bot.2, true)
  else
    let lo := (ps.filter fun p => p.1 * den ≤ q).foldl q4Above bot
    let hi := (ps.filter fun p => q ≤ p.1 * den).foldl q4Below top
    let near := if lo.1.natAbs ≤ hi.1.natAbs then lo else hi
    let far := if lo.1.natAbs ≤ hi.1.natAbs then hi else lo
    if lo.1 == hi.1 then (lo.2, false)
    else match mode with
      | 0 =>
        let x := (q - lo.1 * den)
        let y := (hi.1 * den - q)
        (if x < y then lo.2 else if y < x then hi.2 else if lo.2 % 2 == 0 then lo.2 else hi.2, false)
      | 1 => (near.2, false)
      | 2 => (hi.2, false)
      | 3 => (lo.2, false)
      | _ =>
        let d := (q - near.1 * den).natAbs * 2 ^ 16 / ((far.1 - near.1).natAbs * den)
        (if (mix32 (BitVec.ofNat 32 d ^^^ seed)).toNat % 2 ^ 16 < d then far.2 else near.2, false)

/-- What one active lane of `vq4p` finds: its code, whether it met a NaN, whether it saturated (R176, R178). -/
def q4Pack (scale : Nat) (bad : Bool) (mode : Nat) (seed : Word) (a : Nat) : Nat × Bool × Bool :=
  let t := scale / 2 ^ 18 % 4
  let se := scale / 2 ^ 10 % 256
  let nanBlock := bad || se == 255
  if nanBlock || isNaN 24 a then (0, true, false)
  else if se == 0 then (0, false, false)
  else match fDecode 24 a with
    | .inf neg => let r := q4Round t mode seed (if neg then -1000000 else 1000000) 1
                  (r.1, false, true)
    | .fin neg n d =>
      -- q = a / (2^(se-127) · (1024 + sm)/1024)
      let sm := 1024 + scale % 1024
      let r := if 127 ≤ se then q4Round t mode seed (signed neg (n * 1024)) (d * sm * 2 ^ (se - 127))
        else q4Round t mode seed (signed neg (n * 1024 * 2 ^ (127 - se))) (d * sm)
      (r.1, false, r.2)
    | _ => (0, false, false)

/-- Sets code j of a word of eight codes. -/
def setNibble (x : Word) (j code : Nat) : Word :=
  (x &&& ~~~(0xF#32 <<< (4 * j))) ||| (BitVec.ofNat 32 code <<< (4 * j))

/-- `vq4p` (R176..R178). -/
def execVq4p (f : Fields) (s : State) : Host.Outcome State Fault Refusal :=
  compute (.vq4p f) f (fun th =>
    let a := th.regs.srcV f f.a
    let d := th.regs.destV f
    let word := (th.regs.readX f.b.toNat).toNat
    let p := f.ax.toNat
    match needTag (tagOk [F32] a.tag && tagOk [Q4X8] d.tag) with
    | .error e => .error e
    | .ok _ =>
      let rs := (Lanes th.regs.mask).map fun i =>
        let (sc, bad) := q4Scale word (i / 32)
        (i, q4Pack sc bad f.mo.toNat th.regs.sr.srseed (laneOf a.lanes i).toNat)
      let lanes := rs.foldl (fun l r =>
        let k := r.1 / 32
        let j := r.1 % 32
        let n := 4 * (3 * p + k) + j / 8
        lset l n (setNibble (laneOf l n) (j % 8) r.2.1)) d.lanes
      let code := if rs.any fun r => r.2.2.1 then stQNan else if rs.any fun r => r.2.2.2 then stQSat else stOk
      .ok ({ th with regs := th.regs.setStatus code }, .v { tag := Q4X8, lanes })) s

/-- Code j of block b in a register tagged Q4X8 (02 R41). -/
def q4Code (v : VReg) (b j : Nat) : Nat := (laneOf v.lanes (4 * b + j / 8)).toNat / 2 ^ (4 * (j % 8)) % 16

/-- `vq4x` (R179). -/
def execVq4x (f : Fields) (s : State) : Host.Outcome State Fault Refusal :=
  computeV (.vq4x f) f (fun th =>
    let a := th.regs.srcV f f.a
    let wb := (th.regs.readX f.b.toNat).toNat
    let wc := (th.regs.readX f.c.toNat).toNat
    let p := f.ax.toNat
    let elem (prec k b j : Nat) : Nat :=
      let (sc, bad) := if k < 3 then q4Scale wb k else q4Scale wc (k - 3)
      fEncode prec { mode := f.mo.toNat } (q4Decode sc bad (q4Code a b j))
    match needTag (tagOk [Q4X8] a.tag) with
    | .error e => .error e
    | .ok _ => .ok (vecResult th f (tagOfFloat f.ty) fun i =>
        if f.ty == 9 then
          let n := 2 * i
          BitVec.ofNat 32 (elem 8 (n / 32) (6 * p + n / 32) (n % 32) +
            2 ^ 16 * elem 8 ((n + 1) / 32) (6 * p + (n + 1) / 32) ((n + 1) % 32))
        else BitVec.ofNat 32 (elem 24 (i / 32) (3 * p + i / 32) (i % 32)))) s

end Sys2Proof.Machine
end

