-- ==== Sys2Proof/Machine/Moment.lean ====
section
/-! DEFINITION. The moment instructions that compute (09_moment R182..R208). Each rule is its chain of rounded steps. -/

namespace Sys2Proof.Machine

/-! ### One rounding step (R188) -/

/-- The value of an f32 bit pattern. -/
def vOf (x : Nat) : FVal := fDecode 24 x

/-- F(x): one RNE rounding to f32. -/
def rnd (x : FVal) : Nat := fEncode 24 {} x

/-- Exact sums, products and integer multiples. -/
def vAdd (x y : FVal) : FVal := x.add 0 y
def vSub (x y : FVal) : FVal := x.add 0 y.neg
def vMul (x y : FVal) : FVal := x.mul y
def vTimes (n d : Nat) (x : FVal) : FVal := x.mul (.fin false n d)

/-- √(n/d) as a rational with a sticky last bit, precise enough for one RNE rounding to f32, at any magnitude. -/
def rootRat (n d : Nat) : Nat × Nat :=
  let k := 64 - floorLog2 n d / 2
  let x := if 0 ≤ k then n * 4 ^ k.toNat / d else n / (d * 4 ^ k.natAbs)
  let r := isqrt 72 x
  let exact := if 0 ≤ k then r * r * d == n * 4 ^ k.toNat else r * r * (d * 4 ^ k.natAbs) == n
  let y := 2 * r + (if exact then 0 else 1)
  if 0 ≤ k then (y, 2 ^ (k.toNat + 1)) else (y * 2 ^ k.natAbs, 2)

/-- F(√x) (R134). -/
def rootOf : FVal → Nat
  | .nan => canonNaN 24
  | .inf neg => if neg then canonNaN 24 else infBits 24
  | .zero neg => withSign 24 neg 0
  | .fin neg n d => if neg then canonNaN 24 else
      let (x, y) := rootRat n d
      roundTo 24 {} false x y

def isZeroF (x : Nat) : Bool := x % 2 ^ 31 == 0

/-! ### Covariance (R188) -/

/-- G of two variances. -/
def geo (va vb : Nat) : Nat := if isZeroF va || isZeroF vb then 0 else rootOf (vMul (vOf va) (vOf vb))

/-- cov under mode FN with MCR.CV and MRHO; a zero is +0. -/
def covOf (fn : Nat) (mcr : BitVec 8) (rho : Word) (va vb : Nat) : Nat :=
  let mode := if fn == 0 then mcr.toNat % 4 + 1 else fn
  let c := match mode with
    | 1 => 0
    | 2 => geo va vb
    | 3 => fNegate 24 (geo va vb)
    | _ => fMul 24 0 rho.toNat (geo va vb)
  if isZeroF c then 0 else c

/-! ### Variance checks (R189, R190) -/

/-- Below −0: a negative nonzero value or −∞. -/
def belowZero (v : Nat) : Bool := fNeg 24 v && !isNaN 24 v && !isZeroF v

/-- A source variance as it is read: −0, and under NVZ a variance below −0, read as +0. -/
def varIn (v : Nat) : Nat := if belowZero v || isZeroF v then 0 else v

/-- A result variance as it is written. -/
def varOut (v : Nat) : Nat := if isNaN 24 v then canonNaN 24 else if belowZero v || isZeroF v then 0 else v

/-- A mean as it is written (R190). -/
def meanOut (m : Nat) : Nat := if isNaN 24 m then canonNaN 24 else m

/-- NVZ is set (R186). -/
def nvz (th : Thread) : Bool := th.regs.sr.mcr.getLsbD 2

/-- Raises NEGVAR for the lanes whose variance is below −0, unless NVZ is set. -/
def needVar (th : Thread) (bad : Nat → Bool) : Res Unit :=
  let z := maskOf th.regs.mask bad
  if nvz th || z == 0 then .ok () else .error (.trap NEGVAR 0 0 z)

/-- The tag check of moment sources (R184). -/
def momOk (ms : List MReg) : Bool := ms.all fun m => tagOk [MOM] m.tag

def meanAt (m : MReg) (i : Nat) : Nat := (laneOf m.mean i).toNat
def varAt (m : MReg) (i : Nat) : Nat := (laneOf m.var i).toNat

/-- The checks of R189 on the sources, the pairs `g i`, and the checks of R190 on the results. Where lanes fail both, LANES names those
that fail R189 (log 64). -/
def momentBody (f : Fields) (th : Thread) (srcs : List MReg) (g : Nat → Nat × Nat) : Res Value :=
  match needTag (momOk srcs) with
  | .error e => .error e
  | .ok _ =>
    match needVar th (fun i => srcs.any fun m => belowZero (varAt m i)) with
    | .error e => .error e
    | .ok _ =>
      match needVar th (fun i => belowZero (g i).2) with
      | .error e => .error e
      | .ok _ =>
        let d := th.regs.destM f
        .ok (.m { tag := MOM,
                  mean := mapActive th.regs.mask d.mean fun i => BitVec.ofNat 32 (meanOut (g i).1),
                  var := mapActive th.regs.mask d.var fun i => BitVec.ofNat 32 (varOut (g i).2) })

/-! ### Forming, collapsing, moving -/

/-- `mset` (R192). -/
def execMset (f : Fields) (s : State) : Host.Outcome State Fault Refusal :=
  computeV (.mset f) f (fun th =>
    let a := th.regs.srcV f f.a
    let b := th.regs.srcBV f 32 F32
    match needTag (tagOk [F32] a.tag && tagOk [F32] b.tag) with
    | .error e => .error e
    | .ok _ => momentBody f th [] fun i => ((laneOf a.lanes i).toNat, (laneOf b.lanes i).toNat)) s

/-- `mcoll` (R193): the mean to D, the variance to the register in field B. -/
def execMcoll (f : Fields) (s : State) : Host.Outcome State Fault Refusal :=
  compute (.mcoll f) f (fun th =>
    let m := th.regs.readM f.a.toNat
    match needTag (momOk [m]) with
    | .error e => .error e
    | .ok _ =>
      let e := th.regs.readV f.b.toNat
      let var : VReg := { tag := F32, lanes := mapActive th.regs.mask e.lanes fun i => BitVec.ofNat 32 (meanOut (varAt m i)) }
      .ok (if f.nd then th else { th with regs := { th.regs with v := lset th.regs.v f.b.toNat var } },
        vecResult th f F32 fun i => BitVec.ofNat 32 (meanOut (meanAt m i)))) s

/-- `msamp` (R194). -/
def execMsamp (f : Fields) (s : State) : Host.Outcome State Fault Refusal :=
  computeV (.msamp f) f (fun th =>
    let m := th.regs.readM f.a.toNat
    let z := th.regs.srcV f f.b
    match needTag (momOk [m] && tagOk [F32] z.tag) with
    | .error e => .error e
    | .ok _ =>
      match needVar th (fun i => belowZero (varAt m i)) with
      | .error e => .error e
      | .ok _ => .ok (vecResult th f F32 fun i =>
          let sigma := rootOf (vOf (varIn (varAt m i)))
          BitVec.ofNat 32 (fFma 24 0 sigma (laneOf z.lanes i).toNat (meanAt m i)))) s

/-- `mmov` (R207); a variance of −0 is written as +0 (02_numbers R44; log 57). -/
def execMmov (f : Fields) (s : State) : Host.Outcome State Fault Refusal :=
  computeV (.mmov f) f (fun th =>
    let m := th.regs.readM f.a.toNat
    let d := th.regs.destM f
    match needTag (momOk [m]) with
    | .error e => .error e
    | .ok _ => .ok (.m {
        tag := MOM
        mean := mapActive th.regs.mask d.mean fun i => BitVec.ofNat 32 (meanOut (meanAt m i))
        var := mapActive th.regs.mask d.var fun i => BitVec.ofNat 32 (plusZero 32 (meanOut (varAt m i))) })) s

/-! ### Arithmetic (R195..R198) -/

/-- `madd` and `msub` of two pairs under a covariance. -/
def momAdd (sub : Bool) (cov ma va mb vb : Nat) : Nat × Nat :=
  let mean := if sub then fSub 24 0 ma mb else fAdd 24 0 ma mb
  let t := fAdd 24 0 va vb
  let c := vTimes 2 1 (vOf cov)
  (mean, rnd (if sub then vSub (vOf t) c else vAdd c (vOf t)))

/-- The steps of `mmul`. -/
def momMul (cov ma va mb vb : Nat) : Nat × Nat :=
  let mean := fFma 24 0 ma mb cov
  let s1 := fMul 24 0 ma ma
  let s2 := fMul 24 0 mb mb
  let s3 := fMul 24 0 s1 vb
  let s4 := fFma 24 0 s2 va s3
  let s5 := fFma 24 0 va vb s4
  let s6 := fMul 24 0 ma mb
  let s7 := rnd (vAdd (vMul (vTimes 2 1 (vOf s6)) (vOf cov)) (vOf s5))
  (mean, fFma 24 0 cov cov s7)

/-- A two-operand moment form under a covariance mode (R188, R189). -/
def moment2 (i : Instr) (f : Fields) (op : Nat → Nat → Nat → Nat → Nat → Nat × Nat) (s : State) :
    Host.Outcome State Fault Refusal :=
  computeV i f (fun th =>
    let a := th.regs.readM f.a.toNat
    let b := th.regs.readM f.b.toNat
    momentBody f th [a, b] fun i =>
      let va := varIn (varAt a i)
      let vb := varIn (varAt b i)
      op (covOf f.fn.toNat th.regs.sr.mcr th.regs.sr.mrho va vb) (meanAt a i) va (meanAt b i) vb) s

/-- `madd` (R195). -/
def execMadd (f : Fields) (s : State) : Host.Outcome State Fault Refusal := moment2 (.madd f) f (momAdd false) s

/-- `msub` (R195). -/
def execMsub (f : Fields) (s : State) : Host.Outcome State Fault Refusal := moment2 (.msub f) f (momAdd true) s

/-- `mmul` (R196). -/
def execMmul (f : Fields) (s : State) : Host.Outcome State Fault Refusal := moment2 (.mmul f) f momMul s

/-- `mfma` (R197): the product's steps, then an addition that takes C as independent. -/
def execMfma (f : Fields) (s : State) : Host.Outcome State Fault Refusal :=
  computeV (.mfma f) f (fun th =>
    let a := th.regs.readM f.a.toNat
    let b := th.regs.readM f.b.toNat
    let c := th.regs.readM f.c.toNat
    momentBody f th [a, b, c] fun i =>
      let va := varIn (varAt a i)
      let vb := varIn (varAt b i)
      let (pm, pv) := momMul (covOf f.fn.toNat th.regs.sr.mcr th.regs.sr.mrho va vb) (meanAt a i) va (meanAt b i) vb
      (fAdd 24 0 pm (meanAt c i), fAdd 24 0 pv (varIn (varAt c i)))) s

/-- `mscl` (R198). -/
def execMscl (f : Fields) (s : State) : Host.Outcome State Fault Refusal :=
  computeV (.mscl f) f (fun th =>
    let m := th.regs.readM f.a.toNat
    let b := th.regs.srcBV f 32 F32
    match needTag (tagOk [F32] b.tag) with
    | .error e => .error e
    | .ok _ => momentBody f th [m] fun i =>
        let x := (laneOf b.lanes i).toNat
        (fMul 24 0 x (meanAt m i), rnd (vMul (vMul (vOf x) (vOf x)) (vOf (varIn (varAt m i)))))) s

/-! ### Non-linear functions (R199..R203) -/

def isInfF (x : Nat) : Bool := x % 2 ^ 31 == infBits 24
def posInf : Nat := 0x7F800000
def nan24 : Nat := canonNaN 24

/-- The rows of R199 that precede the steps; `relu`, `exp`, `sig` hold each function's results for v = +∞ with finite μ
and for μ = +∞. -/
def specialPair (mu v : Nat) (varInf muInf : Nat × Nat) : Option (Nat × Nat) :=
  if isNaN 24 mu || isNaN 24 v then some (nan24, nan24)
  else if v == posInf && isInfF mu then some (nan24, nan24)
  else if v == posInf then some varInf
  else if mu == posInf then some muInf
  else if isInfF mu then some (0, 0)
  else none

/-- `mrelu` of one pair (R199, R200). -/
def momRelu (mu v : Nat) : Nat × Nat :=
  match specialPair mu v (posInf, posInf) (posInf, v) with
  | some p => p
  | none =>
    if v == 0 then (if fNeg 24 mu || isZeroF mu then 0 else mu, 0)
    else
      let sigma := rootOf (vOf v)
      let z := fDiv 24 mu sigma
      let p1 := fPhi z
      let p := fDensity z
      let s1 := fMul 24 0 mu p1
      let mean := fFma 24 0 sigma p s1
      let q := fFma 24 0 mu mu v
      let t := fMul 24 0 q p1
      let u := fMul 24 0 mu sigma
      let w := fFma 24 0 u p t
      (mean, rnd (vSub (vOf w) (vMul (vOf mean) (vOf mean))))

/-- `mexp` of one pair (R199, R201). -/
def momExp (mu v : Nat) : Nat × Nat :=
  match specialPair mu v (posInf, posInf) (posInf, posInf) with
  | some p => p
  | none =>
    let s := rnd (vAdd (vOf mu) (vTimes 1 2 (vOf v)))
    let a := fExpE v
    let b := fSub 24 0 a oneBits
    let c := rnd (vAdd (vTimes 2 1 (vOf mu)) (vOf v))
    (fExpE s, fMul 24 0 b (fExpE c))

/-- `msig` of one pair (R199, R202). -/
def momSig (mu v : Nat) : Nat × Nat :=
  match specialPair mu v (halfBits, 0x3E800000) (oneBits, 0) with
  | some p => p
  | none =>
    let k1 := fPiEighth v
    let k2 := fAdd 24 0 oneBits k1
    let kappa := rootOf (vOf k2)
    let mean := fLogistic (fDiv 24 mu kappa)
    let w := fDiv 24 oneBits kappa
    let pk := fSub 24 0 oneBits w
    let q := fSub 24 0 oneBits mean
    (mean, fMul 24 0 (fMul 24 0 mean q) pk)

/-- `mtanh` of one pair (R203). -/
def momTanh (mu v : Nat) : Nat × Nat :=
  let (ms, vs) := momSig (rnd (vTimes 2 1 (vOf mu))) (rnd (vTimes 4 1 (vOf v)))
  (rnd (vSub (vTimes 2 1 (vOf ms)) (vOf oneBits)), rnd (vTimes 4 1 (vOf vs)))

/-- A one-operand non-linear form; it passes through the special-function unit (R185). -/
def moment1 (i : Instr) (f : Fields) (op : Nat → Nat → Nat × Nat) (s : State) : Host.Outcome State Fault Refusal :=
  computeSfu i f (fun th =>
    let m := th.regs.readM f.a.toNat
    momentBody f th [m] fun i => op (meanAt m i) (varIn (varAt m i))) s

/-- `mrelu` (R200). -/
def execMrelu (f : Fields) (s : State) : Host.Outcome State Fault Refusal := moment1 (.mrelu f) f momRelu s

/-- `mexp` (R201). -/
def execMexp (f : Fields) (s : State) : Host.Outcome State Fault Refusal := moment1 (.mexp f) f momExp s

/-- `msig` (R202). -/
def execMsig (f : Fields) (s : State) : Host.Outcome State Fault Refusal := moment1 (.msig f) f momSig s

/-- `mtanh` (R203). -/
def execMtanh (f : Fields) (s : State) : Host.Outcome State Fault Refusal := moment1 (.mtanh f) f momTanh s

/-! ### Configuration (R208) -/

/-- `mcfg mcr` (R208). -/
def execMcfgMcr (f : Fields) (s : State) : Host.Outcome State Fault Refusal :=
  compute (.mcfgMcr f) f (fun th =>
    .ok ({ th with regs := { th.regs with sr := { th.regs.sr with mcr := f.ax &&& 0xF7 } } }, .none)) s

/-- `mcfg mrho` (R187, R208). -/
def execMcfgMrho (f : Fields) (s : State) : Host.Outcome State Fault Refusal :=
  compute (.mcfgMrho f) f (fun th =>
    .ok ({ th with regs := { th.regs with sr := { th.regs.sr with mrho := clampRho f.imm32 } } }, .none)) s

end Sys2Proof.Machine
end

