-- ==== Sys2Proof/Machine/Dispatch.lean ====
section
/-! DEFINITION. One arm per instruction: each calls its meaning. -/

namespace Sys2Proof.Machine

/-- The effect of one instruction or step. -/
def exec (i : Instr) (s : State) : Host.Outcome State Fault Refusal :=
  match i with
  | .nop f => Sys2Proof.Machine.execNop f s
  | .br f => Sys2Proof.Machine.execBr f s
  | .bz f => Sys2Proof.Machine.execBz f s
  | .bnz f => Sys2Proof.Machine.execBnz f s
  | .bc f => Sys2Proof.Machine.execBc f s
  | .call f => Sys2Proof.Machine.execCall f s
  | .callReg f => Sys2Proof.Machine.execCallReg f s
  | .ret f => Sys2Proof.Machine.execRet f s
  | .jmpi f => Sys2Proof.Machine.execJmpi f s
  | .bmz f => Sys2Proof.Machine.execBmz f s
  | .bmnz f => Sys2Proof.Machine.execBmnz f s
  | .mif f => Sys2Proof.Machine.execMif f s
  | .melse f => Sys2Proof.Machine.execMelse f s
  | .mend f => Sys2Proof.Machine.execMend f s
  | .mloop f => Sys2Proof.Machine.execMloop f s
  | .mbrk f => Sys2Proof.Machine.execMbrk f s
  | .mcont f => Sys2Proof.Machine.execMcont f s
  | .mpush f => Sys2Proof.Machine.execMpush f s
  | .mpop f => Sys2Proof.Machine.execMpop f s
  | .waitc f => Sys2Proof.Machine.execWaitc f s
  | .yield f => Sys2Proof.Machine.execYield f s
  | .sleep f => Sys2Proof.Machine.execSleep f s
  | .done f => Sys2Proof.Machine.execDone f s
  | .trap f => Sys2Proof.Machine.execTrap f s
  | .brkpt f => Sys2Proof.Machine.execBrkpt f s
  | .sadd f => Sys2Proof.Machine.execSadd f s
  | .ssub f => Sys2Proof.Machine.execSsub f s
  | .smul f => Sys2Proof.Machine.execSmul f s
  | .smulh f => Sys2Proof.Machine.execSmulh f s
  | .sdiv f => Sys2Proof.Machine.execSdiv f s
  | .srem f => Sys2Proof.Machine.execSrem f s
  | .sand f => Sys2Proof.Machine.execSand f s
  | .sor f => Sys2Proof.Machine.execSor f s
  | .sxor f => Sys2Proof.Machine.execSxor f s
  | .sandn f => Sys2Proof.Machine.execSandn f s
  | .sshl f => Sys2Proof.Machine.execSshl f s
  | .sshr f => Sys2Proof.Machine.execSshr f s
  | .ssra f => Sys2Proof.Machine.execSsra f s
  | .srot f => Sys2Proof.Machine.execSrot f s
  | .smin f => Sys2Proof.Machine.execSmin f s
  | .smax f => Sys2Proof.Machine.execSmax f s
  | .sclz f => Sys2Proof.Machine.execSclz f s
  | .spopc f => Sys2Proof.Machine.execSpopc f s
  | .sbrev f => Sys2Proof.Machine.execSbrev f s
  | .sbfx f => Sys2Proof.Machine.execSbfx f s
  | .sbfi f => Sys2Proof.Machine.execSbfi f s
  | .ssel f => Sys2Proof.Machine.execSsel f s
  | .scmp f => Sys2Proof.Machine.execScmp f s
  | .smov f => Sys2Proof.Machine.execSmov f s
  | .sli f => Sys2Proof.Machine.execSli f s
  | .slea f => Sys2Proof.Machine.execSlea f s
  | .sfadd f => Sys2Proof.Machine.execSfadd f s
  | .sfsub f => Sys2Proof.Machine.execSfsub f s
  | .sfmul f => Sys2Proof.Machine.execSfmul f s
  | .sffma f => Sys2Proof.Machine.execSffma f s
  | .sfmin f => Sys2Proof.Machine.execSfmin f s
  | .sfmax f => Sys2Proof.Machine.execSfmax f s
  | .sfcmp f => Sys2Proof.Machine.execSfcmp f s
  | .sfcvt f => Sys2Proof.Machine.execSfcvt f s
  | .sfsqrt f => Sys2Proof.Machine.execSfsqrt f s
  | .srd f => Sys2Proof.Machine.execSrd f s
  | .swr f => Sys2Proof.Machine.execSwr f s
  | .sgtime f => Sys2Proof.Machine.execSgtime f s
  | .srnd f => Sys2Proof.Machine.execSrnd f s
  | .smcnt f => Sys2Proof.Machine.execSmcnt f s
  | .vadd f => Sys2Proof.Machine.execVadd f s
  | .vsub f => Sys2Proof.Machine.execVsub f s
  | .vmul f => Sys2Proof.Machine.execVmul f s
  | .vmulh f => Sys2Proof.Machine.execVmulh f s
  | .vmad f => Sys2Proof.Machine.execVmad f s
  | .vand f => Sys2Proof.Machine.execVand f s
  | .vor f => Sys2Proof.Machine.execVor f s
  | .vxor f => Sys2Proof.Machine.execVxor f s
  | .vandn f => Sys2Proof.Machine.execVandn f s
  | .vshl f => Sys2Proof.Machine.execVshl f s
  | .vshr f => Sys2Proof.Machine.execVshr f s
  | .vsra f => Sys2Proof.Machine.execVsra f s
  | .vmin f => Sys2Proof.Machine.execVmin f s
  | .vmax f => Sys2Proof.Machine.execVmax f s
  | .vabs f => Sys2Proof.Machine.execVabs f s
  | .vclz f => Sys2Proof.Machine.execVclz f s
  | .vpopc f => Sys2Proof.Machine.execVpopc f s
  | .vbfx f => Sys2Proof.Machine.execVbfx f s
  | .vsel f => Sys2Proof.Machine.execVsel f s
  | .vcmp f => Sys2Proof.Machine.execVcmp f s
  | .vmov f => Sys2Proof.Machine.execVmov f s
  | .vlid f => Sys2Proof.Machine.execVlid f s
  | .vbc f => Sys2Proof.Machine.execVbc f s
  | .vget f => Sys2Proof.Machine.execVget f s
  | .vput f => Sys2Proof.Machine.execVput f s
  | .vperm f => Sys2Proof.Machine.execVperm f s
  | .vshuf f => Sys2Proof.Machine.execVshuf f s
  | .vred f => Sys2Proof.Machine.execVred f s
  | .vscan f => Sys2Proof.Machine.execVscan f s
  | .vhist f => Sys2Proof.Machine.execVhist f s
  | .vbinm f => Sys2Proof.Machine.execVbinm f s
  | .vcx f => Sys2Proof.Machine.execVcx f s
  | .vrnd f => Sys2Proof.Machine.execVrnd f s
  | .vfadd f => Sys2Proof.Machine.execVfadd f s
  | .vfsub f => Sys2Proof.Machine.execVfsub f s
  | .vfmul f => Sys2Proof.Machine.execVfmul f s
  | .vffma f => Sys2Proof.Machine.execVffma f s
  | .vfdiv f => Sys2Proof.Machine.execVfdiv f s
  | .vfsqrt f => Sys2Proof.Machine.execVfsqrt f s
  | .vfmin f => Sys2Proof.Machine.execVfmin f s
  | .vfmax f => Sys2Proof.Machine.execVfmax f s
  | .vfabs f => Sys2Proof.Machine.execVfabs f s
  | .vfneg f => Sys2Proof.Machine.execVfneg f s
  | .vfcmp f => Sys2Proof.Machine.execVfcmp f s
  | .vfclass f => Sys2Proof.Machine.execVfclass f s
  | .vfrcp f => Sys2Proof.Machine.execVfrcp f s
  | .vfrsq f => Sys2Proof.Machine.execVfrsq f s
  | .vfexp2 f => Sys2Proof.Machine.execVfexp2 f s
  | .vflog2 f => Sys2Proof.Machine.execVflog2 f s
  | .vfsin f => Sys2Proof.Machine.execVfsin f s
  | .vfcos f => Sys2Proof.Machine.execVfcos f s
  | .vftanh f => Sys2Proof.Machine.execVftanh f s
  | .vferf f => Sys2Proof.Machine.execVferf f s
  | .vcvt f => Sys2Proof.Machine.execVcvt f s
  | .vbfma f => Sys2Proof.Machine.execVbfma f s
  | .vq4s f => Sys2Proof.Machine.execVq4s f s
  | .vq4p f => Sys2Proof.Machine.execVq4p f s
  | .vq4x f => Sys2Proof.Machine.execVq4x f s
  | .mset f => Sys2Proof.Machine.execMset f s
  | .mcoll f => Sys2Proof.Machine.execMcoll f s
  | .msamp f => Sys2Proof.Machine.execMsamp f s
  | .madd f => Sys2Proof.Machine.execMadd f s
  | .msub f => Sys2Proof.Machine.execMsub f s
  | .mmul f => Sys2Proof.Machine.execMmul f s
  | .mfma f => Sys2Proof.Machine.execMfma f s
  | .mscl f => Sys2Proof.Machine.execMscl f s
  | .mrelu f => Sys2Proof.Machine.execMrelu f s
  | .mexp f => Sys2Proof.Machine.execMexp f s
  | .msig f => Sys2Proof.Machine.execMsig f s
  | .mtanh f => Sys2Proof.Machine.execMtanh f s
  | .mld f => Sys2Proof.Machine.execMld f s
  | .mst f => Sys2Proof.Machine.execMst f s
  | .mmov f => Sys2Proof.Machine.execMmov f s
  | .mcfgMcr f => Sys2Proof.Machine.execMcfgMcr f s
  | .mcfgMrho f => Sys2Proof.Machine.execMcfgMrho f s
  | .vld f => Sys2Proof.Machine.execVld f s
  | .vldu f => Sys2Proof.Machine.execVldu f s
  | .vst f => Sys2Proof.Machine.execVst f s
  | .vatm f => Sys2Proof.Machine.execVatm f s
  | .vmred f => Sys2Proof.Machine.execVmred f s
  | .vfld f => Sys2Proof.Machine.execVfld f s
  | .vfst f => Sys2Proof.Machine.execVfst f s
  | .sld f => Sys2Proof.Machine.execSld f s
  | .sst f => Sys2Proof.Machine.execSst f s
  | .satm f => Sys2Proof.Machine.execSatm f s
  | .smred f => Sys2Proof.Machine.execSmred f s
  | .sfld f => Sys2Proof.Machine.execSfld f s
  | .sfst f => Sys2Proof.Machine.execSfst f s
  | .srsv f => Sys2Proof.Machine.execSrsv f s
  | .scnd f => Sys2Proof.Machine.execScnd f s
  | .bset f => Sys2Proof.Machine.execBset f s
  | .bsetClu f => Sys2Proof.Machine.execBsetClu f s
  | .binv f => Sys2Proof.Machine.execBinv f s
  | .binvAll f => Sys2Proof.Machine.execBinvAll f s
  | .fence f => Sys2Proof.Machine.execFence f s
  | .cwb f => Sys2Proof.Machine.execCwb f s
  | .cinv f => Sys2Proof.Machine.execCinv f s
  | .cp f => Sys2Proof.Machine.execCp f s
  | .cpq f => Sys2Proof.Machine.execCpq f s
  | .cpg f => Sys2Proof.Machine.execCpg f s
  | .seal f => Sys2Proof.Machine.execSeal f s
  | .tmma f => Sys2Proof.Machine.execTmma f s
  | .tmmag f => Sys2Proof.Machine.execTmmag f s
  | .tzero f => Sys2Proof.Machine.execTzero f s
  | .tld f => Sys2Proof.Machine.execTld f s
  | .tst f => Sys2Proof.Machine.execTst f s
  | .tmam f => Sys2Proof.Machine.execTmam f s
  | .tmamm f => Sys2Proof.Machine.execTmamm f s
  | .scget f => Sys2Proof.Machine.execScget f s
  | .scq f => Sys2Proof.Machine.execScq f s
  | .scfrz f => Sys2Proof.Machine.execScfrz f s
  | .scthaw f => Sys2Proof.Machine.execScthaw f s
  | .bar f => Sys2Proof.Machine.execBar f s
  | .barv f => Sys2Proof.Machine.execBarv f s
  | .barw f => Sys2Proof.Machine.execBarw f s
  | .tmq f => Sys2Proof.Machine.execTmq f s
  | .qpush f => Sys2Proof.Machine.execQpush f s
  | .qpop f => Sys2Proof.Machine.execQpop f s
  | .qdone f => Sys2Proof.Machine.execQdone f s
  | .qspawn f => Sys2Proof.Machine.execQspawn f s
  | .qjoin f => Sys2Proof.Machine.execQjoin f s
  | .qstat f => Sys2Proof.Machine.execQstat f s
  | .klaunch f => Sys2Proof.Machine.execKlaunch f s
  | .depart f => Sys2Proof.Machine.execDepart f s
  | .dtbeg f => Sys2Proof.Machine.execDtbeg f s
  | .dtend f => Sys2Proof.Machine.execDtend f s
  | .syscResume f => Sys2Proof.Machine.execSyscResume f s
  | .syscSkip f => Sys2Proof.Machine.execSyscSkip f s
  | .syscAbandon f => Sys2Proof.Machine.execSyscAbandon f s
  | .syscCall f => Sys2Proof.Machine.execSyscCall f s
  | .eret f => Sys2Proof.Machine.execEret f s
  | .srdp f => Sys2Proof.Machine.execSrdp f s
  | .swrp f => Sys2Proof.Machine.execSwrp f s
  | .tlbiVa f => Sys2Proof.Machine.execTlbiVa f s
  | .tlbiCtx f => Sys2Proof.Machine.execTlbiCtx f s
  | .tlbiAll f => Sys2Proof.Machine.execTlbiAll f s
  | .ctxs f => Sys2Proof.Machine.execCtxs f s
  | .ctxr f => Sys2Proof.Machine.execCtxr f s
  | .idle f => Sys2Proof.Machine.execIdle f s
  | .trapCartRetry th => Sys2Proof.Machine.execTrapCartRetry th s
  | .pendingWriteComplete th tag => Sys2Proof.Machine.execPendingWriteComplete th tag s
  | .loadComplete acc => Sys2Proof.Machine.execLoadComplete acc s
  | .storePerformed acc => Sys2Proof.Machine.execStorePerformed acc s
  | .sleepExpiry th => Sys2Proof.Machine.execSleepExpiry th s
  | .drained th => Sys2Proof.Machine.execDrained th s
  | .preemptSave th => Sys2Proof.Machine.execPreemptSave th s
  | .engineDrainTimeout th => Sys2Proof.Machine.execEngineDrainTimeout th s
  | .lclkTick core => Sys2Proof.Machine.execLclkTick core s
  | .pltDistribution part => Sys2Proof.Machine.execPltDistribution part s
  | .corePowerGate core => Sys2Proof.Machine.execCorePowerGate core s
  | .coreWake core => Sys2Proof.Machine.execCoreWake core s
  | .homeTokenRequest acc line => Sys2Proof.Machine.execHomeTokenRequest acc line s
  | .homeAllTokenRequest acc line => Sys2Proof.Machine.execHomeAllTokenRequest acc line s
  | .transientRequestFail acc line => Sys2Proof.Machine.execTransientRequestFail acc line s
  | .homePersistentRequest acc line => Sys2Proof.Machine.execHomePersistentRequest acc line s
  | .persistentCompletion core line => Sys2Proof.Machine.execPersistentCompletion core line s
  | .persistentForward core line => Sys2Proof.Machine.execPersistentForward core line s
  | .homeSisLoad acc line => Sys2Proof.Machine.execHomeSisLoad acc line s
  | .homeWtLoad acc line => Sys2Proof.Machine.execHomeWtLoad acc line s
  | .homeWrite acc lane => Sys2Proof.Machine.execHomeWrite acc lane s
  | .holderRecall core line => Sys2Proof.Machine.execHolderRecall core line s
  | .holderTokenAsk core line count requester => Sys2Proof.Machine.execHolderTokenAsk core line count requester s
  | .tokenReturn msg => Sys2Proof.Machine.execTokenReturn msg s
  | .forwardedMerge acc lane owner => Sys2Proof.Machine.execForwardedMerge acc lane owner s
  | .forwardedSisRead acc line owner => Sys2Proof.Machine.execForwardedSisRead acc line owner s
  | .forwardedWtRead acc line owner => Sys2Proof.Machine.execForwardedWtRead acc line owner s
  | .lineEviction core line => Sys2Proof.Machine.execLineEviction core line s
  | .reductionRequest acc lane => Sys2Proof.Machine.execReductionRequest acc lane s
  | .reductionReplayTimeout acc lane => Sys2Proof.Machine.execReductionReplayTimeout acc lane s
  | .reductionAckConfirm acc lane => Sys2Proof.Machine.execReductionAckConfirm acc lane s
  | .futureLoadRequest acc word => Sys2Proof.Machine.execFutureLoadRequest acc word s
  | .futureFill acc lane => Sys2Proof.Machine.execFutureFill acc lane s
  | .ticketPerform part kern => Sys2Proof.Machine.execTicketPerform part kern s
  | .detstallTimeout th => Sys2Proof.Machine.execDetstallTimeout th s
  | .sharingWindowEnd parts => Sys2Proof.Machine.execSharingWindowEnd parts s
  | .regroupPromotion die => Sys2Proof.Machine.execRegroupPromotion die s
  | .regroupEventEnd die => Sys2Proof.Machine.execRegroupEventEnd die s
  | .barrierArrival th team => Sys2Proof.Machine.execBarrierArrival th team s
  | .barrierRetirement th team => Sys2Proof.Machine.execBarrierRetirement th team s
  | .barrierLeave part kern team => Sys2Proof.Machine.execBarrierLeave part kern team s
  | .engineOpStart core engine => Sys2Proof.Machine.execEngineOpStart core engine s
  | .engineOpComplete core engine => Sys2Proof.Machine.execEngineOpComplete core engine s
  | .carriageComplete th serial => Sys2Proof.Machine.execCarriageComplete th serial s
  | .qcmdCreate part index => Sys2Proof.Machine.execQcmdCreate part index s
  | .qcmdSwap part index => Sys2Proof.Machine.execQcmdSwap part index s
  | .qcmdUnswap part index => Sys2Proof.Machine.execQcmdUnswap part index s
  | .qcmdDrain part index => Sys2Proof.Machine.execQcmdDrain part index s
  | .qcmdDiscard part index => Sys2Proof.Machine.execQcmdDiscard part index s
  | .qcmdNone part index => Sys2Proof.Machine.execQcmdNone part index s
  | .queueAging queue level => Sys2Proof.Machine.execQueueAging queue level s
  | .governorEval part kern => Sys2Proof.Machine.execGovernorEval part kern s
  | .ingressFrame half frame badFcs => Sys2Proof.Machine.execIngressFrame half frame badFcs s
  | .egressPop half => Sys2Proof.Machine.execEgressPop half s
  | .egressComplete half => Sys2Proof.Machine.execEgressComplete half s
  | .pauseReceived half priorities cycles => Sys2Proof.Machine.execPauseReceived half priorities cycles s
  | .rxBufferHigh half => Sys2Proof.Machine.execRxBufferHigh half s
  | .rxBufferLow half => Sys2Proof.Machine.execRxBufferLow half s
  | .kldbLaunch part desc => Sys2Proof.Machine.execKldbLaunch part desc s
  | .kctlKill part kern => Sys2Proof.Machine.execKctlKill part kern s
  | .launchAccept part => Sys2Proof.Machine.execLaunchAccept part s
  | .departureCheck part kern => Sys2Proof.Machine.execDepartureCheck part kern s
  | .departureFire part kern core => Sys2Proof.Machine.execDepartureFire part kern core s
  | .kernelEnd part kern => Sys2Proof.Machine.execKernelEnd part kern s
  | .miggoMove part value => Sys2Proof.Machine.execMiggoMove part value s
  | .moveComplete part => Sys2Proof.Machine.execMoveComplete part s
  | .pinEnd part leaf => Sys2Proof.Machine.execPinEnd part leaf s
  | .pcmdStart part desc => Sys2Proof.Machine.execPcmdStart part desc s
  | .pcmdStop part => Sys2Proof.Machine.execPcmdStop part s
  | .pcmdNone part => Sys2Proof.Machine.execPcmdNone part s
  | .bankroleWrite part value => Sys2Proof.Machine.execBankroleWrite part value s
  | .bankroleEffect part => Sys2Proof.Machine.execBankroleEffect part s
  | .lclkperWrite part value => Sys2Proof.Machine.execLclkperWrite part value s
  | .updHoldWrite part hold => Sys2Proof.Machine.execUpdHoldWrite part hold s
  | .thermalAlarm core temp => Sys2Proof.Machine.execThermalAlarm core temp s
  | .thermalThrottle core temp => Sys2Proof.Machine.execThermalThrottle core temp s
  | .thermalShutdown die temp => Sys2Proof.Machine.execThermalShutdown die temp s
  | .voltageAdjust die millivolts => Sys2Proof.Machine.execVoltageAdjust die millivolts s
  | .housekeepingSample part reading => Sys2Proof.Machine.execHousekeepingSample part reading s
  | .packageReset => Sys2Proof.Machine.execPackageReset s
  | .flitReceive link flit room => Sys2Proof.Machine.execFlitReceive link flit room s
  | .nakReceive link seq => Sys2Proof.Machine.execNakReceive link seq s
  | .nakRepeat link => Sys2Proof.Machine.execNakRepeat link s
  | .ackTimeout link => Sys2Proof.Machine.execAckTimeout link s
  | .retrainDone link => Sys2Proof.Machine.execRetrainDone link s
  | .retrainTimeout link => Sys2Proof.Machine.execRetrainTimeout link s
  | .trainingDone link peer => Sys2Proof.Machine.execTrainingDone link peer s
  | .trainingTimeout link => Sys2Proof.Machine.execTrainingTimeout link s
  | .downTimeout link => Sys2Proof.Machine.execDownTimeout link s
  | .couplingEnable coupling => Sys2Proof.Machine.execCouplingEnable coupling s
  | .couplingDisable coupling => Sys2Proof.Machine.execCouplingDisable coupling s
  | .gtSyncSend => Sys2Proof.Machine.execGtSyncSend s
  | .timeBlockPoll => Sys2Proof.Machine.execTimeBlockPoll s
  | .hostCxlMemAccess addr write count => Sys2Proof.Machine.execHostCxlMemAccess addr write count s
  | .bar0Access offset write => Sys2Proof.Machine.execBar0Access offset write s
  | .unassignedOpcode op len => Sys2Proof.Machine.execUnassignedOpcode op len s
  | .fetchFault cause => Sys2Proof.Machine.execFetchFault cause s
  | .idleTimeReached th => Sys2Proof.Machine.execIdleTimeReached th s
  | .correctableSoftError acc lane => Sys2Proof.Machine.execCorrectableSoftError acc lane s
  | .thermalAlarmClear core temp => Sys2Proof.Machine.execThermalAlarmClear core temp s
  | .thermalThrottleEnd core temp => Sys2Proof.Machine.execThermalThrottleEnd core temp s
  | .portHalfUp half => Sys2Proof.Machine.execPortHalfUp half s
  | .portHalfDown half => Sys2Proof.Machine.execPortHalfDown half s
  | .ioTableRecordChange half => Sys2Proof.Machine.execIoTableRecordChange half s
  | .pauseTimeExpiry half priority => Sys2Proof.Machine.execPauseTimeExpiry half priority s

end Sys2Proof.Machine
end

