-- ==== Sys2Proof/Machine/Place.lean ====
section
/-! DEFINITION. An instruction placed where the next step fetches it (log 4): on system core 0 in hypervisor mode, or, for an
instruction that only a group executes (03 R79), in a group of its own. -/

namespace Sys2Proof.Machine

/-- The word is one that only a group executes. -/
def groupOnly (nbits w : Nat) : Bool :=
  match decodeTableWord nbits w with
  | some i => match row i with
    | some r => !r.sys
    | none => false
  | none => false

/-- The group that a word that only a group executes is placed in: partition 0, kernel 0, GID 0 on core 0, every lane
launched and active, with the largest register window. -/
def placedGroup : Thread :=
  { id := .grp 0 0 0, core := 0, ll := BitVec.allOnes 96, nTiles := 8, scrSize := 65536,
    regs := { s := List.replicate 60 0 ++ [0xFFFFFFFF, 0xFFFFFFFF, 0xFFFFFFFF, 0], v := List.replicate 248 {},
              m := List.replicate 32 {} } }

/-- The leaf that lets the placed group fetch its page: generic page 0 on frame 0. -/
def placedLeaf : Leaf := { level := 3, dpol := 2, xe := true, we := true, re := true }

/-- The bytes of a line lie in memory alone: no copy, no message, no error. -/
def quietLine (s : State) (ln : Nat) : State :=
  { s with cores := s.cores.map fun e => (e.1, { e.2 with copies := e.2.copies.filter fun y => y.line != ln }),
           msgs := s.msgs.filter fun m => m.line != ln, ecc := s.ecc.filter fun x => x != ln }

/-- Writes the slot's bytes at physical address 0. -/
def placeBytes (s : State) (nbits w : Nat) : State :=
  let s1 := quietLine s 0
  { s1 with agenda := [], mem := s1.mem.writeBytes 0 (leBytes 32 (w % 2 ^ nbits)) }

/-- Makes the current thread one that fetches at address 0: system core 0 in hypervisor mode, or the placed group. The other
threads stay in their order. -/
def placeThread (s : State) (group : Bool) : State :=
  if group then
    let k := s.core 0
    { s with cur := placedGroup, others := s.cur :: s.others
             cores := tset 0 { k with gated := false, throttle := false, tlb := [{ ctxid := 0, leaf := placedLeaf }] } s.cores }
  else
    let c := s.sysCore 0
    let th := (s.thread? (.sys 0)).getD (sysThread 0)
    { s with cur := { th with run := .ready, chain := none, preempt := false, carts := [], regs := { th.regs with pc := 0 } }
             others := (if s.cur.id == .sys 0 then [] else [s.cur]) ++ s.others.filter fun x => x.id != .sys 0
             sys := tset 0 { c with mode := .hypervisor } s.sys }

/-- The state with the word placed. -/
def placeWord (s : State) (nbits w : Nat) : State := placeThread (placeBytes s nbits w) (groupOnly nbits w)

end Sys2Proof.Machine
end

