-- ==== Sys2Proof/Machine/Time.lean ====
section
/-! DEFINITION. What time brings (log 7): the ticks, distributions, sends, polls, evaluations and window ends that hardware
makes at fixed intervals, and the steps that are due as soon as their condition holds. -/

namespace Sys2Proof.Machine

/-! ### Intervals -/

/-- The running partitions. -/
def runningParts (s : State) : List Nat := (s.parts.filter fun e => e.2.running).map (·.1)

/-- A tick of a partition: the clocks of all its cores advance together (10 R228, R474). The system cores that serve a partition which
does not run tick with its registers' values (log 13). -/
def tickPart (s : State) (p : Nat) : State :=
  let x := s.part p
  if (s.t - x.tickBase) % x.reg.lclkper.toNat == 0 then (coresOf s p).foldl lclkTick s else s

/-- What comes every 4096 mesh cycles, 5120 core cycles: the send of the master, the poll of the time block and of the I/O
table's records, the governor (24 R446, R455, R456; 19 R366). -/
def slowRound (s : State) : State :=
  let s1 := timeBlockPoll (gtSyncSend s)
  let s2 := (runningParts s1).foldl (fun s p =>
    let a := (bitMembers (s.part p).ports 16).foldl recordChange (showRecords s p)
    (bitMembers (s.part p).cpl 24).foldl (fun s k => pollCoupling s p k) a) s1
  (runningParts s2).foldl (fun s p => ((s.part p).kernels.map (·.1)).foldl (fun s kn => governor s p kn) s) s2

/-- The windows that end now (13 R274). -/
def endedWindows (s : State) : List Nat :=
  (runningParts s).filter fun p => (s.part p).winStart + 2 ^ (s.part p).winLog ≤ s.t

/-- Departures whose check or time has come (20 R386). -/
def departures (s : State) : State :=
  (runningParts s).foldl (fun s p => ((s.part p).kernels.map (·.1)).foldl (fun s kn =>
    match s.kernel? p kn with
    | none => s
    | some k =>
      match k.depart with
      | none => s
      | some t =>
        if k.awaiting then (if checkDue t ((s.part p).gt.now s) then departureCheck s p kn else s)
        else k.cores.eraseDups.foldl (fun s c => departureFire s p kn c) s) s) s

/-- Pins whose time has come (21 R414). -/
def endedPins (s : State) : State :=
  (runningParts s).foldl (fun s p =>
    let now := ((s.part p).gt.now s).toNat
    ((s.part p).thrash.filterMap fun e => match e.pinEnd with
      | some t => if t ≤ now then some e.leaf else none
      | none => none).foldl (fun s leaf => endPin s p leaf) s) s

/-- The trap carts of groups that are gone, each tried again every 4096 mesh cycles until TRAPQ takes it (22 R425). -/
def retryLate (s : State) (p : Nat) : State :=
  (s.part p).lateCarts.foldl (fun s c =>
    let (ctx, ws, t) := c
    if s.t < t then s
    else
      let x := s.part p
      let s1 := s.setPart p { x with lateCarts := x.lateCarts.erase c }
      match offerTrapCart s1 p ctx ws with
      | some s2 => s2
      | none => s1.setPart p { s1.part p with lateCarts := (s1.part p).lateCarts ++ [(ctx, ws, s.t + 5120)] }) s

/-- One core cycle passes. -/
def passCycle (s0 : State) : State :=
  let s := { s0 with t := s0.t + 1 }
  let s1 := (List.range 8).foldl tickPart (tendBoundaries s)
  let s2 := if s.t % 320 == 0 then (runningParts s1).foldl pltDistribution s1 else s1
  let s3 := if s.t % 5120 == 0 then slowRound s2 else s2
  let s4 := if s.t % 1310720 == 0 then
      (runningParts s3).foldl (fun s p => writeSample s p (readingOf s)) s3 else s3
  let ends := endedWindows s4
  let s5 := if ends.isEmpty then s4 else sharingWindowEnd s4 ends
  (runningParts s5).foldl retryLate (endedPins (departures s5))

/-! ### What is due -/

/-- An engine that can take an operation. -/
def dueEngine (s : State) : Option (Nat × EngineSel) :=
  s.cores.findSome? fun e =>
    if !e.2.copyQ.isEmpty && (nextEngOp s e.1 .copy).isSome then some (e.1, .copy)
    else if !e.2.matrixQ.isEmpty && (nextEngOp s e.1 .matrix).isSome then some (e.1, .matrix)
    else none

/-- A die whose regroup event ends (13 R278). -/
def dueRegroupEnd (s : State) : Option Nat :=
  s.dies.findSome? fun e => match e.2.regroup with
    | some r => if r.promoted && r.endAt ≤ s.t then some e.1 else none
    | none => none

/-- A die whose regroup event can pass its promotion point (13 R278). -/
def duePromotion (s : State) : Option Nat :=
  s.dies.findSome? fun e => match e.2.regroup with
    | some r => if !r.promoted && !writesOutstanding s r.affected then some e.1 else none
    | none => none

/-- A partition whose move can complete (21 R412), or whose BANKROLE can take effect (17 R331). -/
def dueMove (s : State) : Option Nat :=
  s.parts.findSome? fun e => match e.2.move with
    | some m => if moveReady s m then some e.1 else none
    | none => none
def dueRole (s : State) : Option Nat := s.parts.findSome? fun e => if bankroleReady s e.1 then some e.1 else none

/-- What an Ethernet port half can do (24 R453, R454). -/
def duePort (s : State) : Option State := s.ports.findSome? fun e => portNext s e.1

/-- A partition whose first launch need not wait any more (20 R380, 21 R413, 24 R444). -/
def dueLaunch (s : State) : Option Nat :=
  (s.parts.find? fun e => e.2.running && e.2.newRole.isNone && match e.2.launches with
    | [] => false
    | r :: rs => match launch (s.setPart e.1 { e.2 with launches := rs }) e.1 r with
      | .error c => c != WAITS
      | .ok _ => true).map (·.1)

/-- A kernel that ends with the write of its completion record, which need not wait any more (20 R388). -/
def dueKernelEnd (s : State) : Option (Nat × Nat) :=
  s.parts.findSome? fun e => (e.2.kernels.find? fun k => k.2.ending && !recordWaits s e.1 k.2).map fun k => (e.1, k.1)

/-- The hardware step that is due, if any. -/
def dueStep (s : State) : Option State :=
  (dueFlit s).map (carryFlit s) <|> (dueEngine s).map (fun e => engineStart s e.1 e.2) <|> (duePromotion s).map (promote s) <|>
  (dueRegroupEnd s).map (endRegroup s) <|> (dueMove s).map (completeMove s) <|> (dueRole s).map (bankroleEffect s) <|>
  (dueLaunch s).map (acceptLaunch s) <|> (dueKernelEnd s).map (fun e => kernelEnd s e.1 e.2) <|> dueHost s <|> duePort s

end Sys2Proof.Machine
end

