-- ==== Sys2Proof/Machine/Turn.lean ====
section
/-! DEFINITION. The turn of a thread (04_group R86, R87, R102, R104): whether its wait is over, what falls due for it, and the
instruction that it issues. -/

namespace Sys2Proof.Machine

/-- A staging stall has lasted 2^24 core cycles (20 R394). -/
def stallOver (s : State) : Cond → Bool
  | .staging since _ => decide (since + 2 ^ 24 ≤ s.t)
  | .stagedValue _ _ since => decide (since + 2 ^ 24 ≤ s.t)
  | _ => false

/-- `idle` finds a cart or the time (22 R439). -/
def idleOver (s : State) (th : Thread) : Cond → Bool
  | .idle queue time _ =>
    (match time with
      | some t => !(((s.core th.core).gt.now s).ult t)
      | none => false) ||
    (match queue with
      | some q => (match s.queue? q with
        | some x => x.count != 0 || x.st == .free || x.st == .destroyed
        | none => true)
      | none => false)
  | _ => false

/-- The core issues nothing for the thread now: power-gated, or held by another thread's chain (R102, 10 R236). -/
def coreHeld (s : State) (th : Thread) : Bool :=
  let k := s.core th.core
  k.gated || s.threads.any fun x => x.core == th.core && x.id != th.id && x.chain.isSome && x.run != .saved

/-- What the thread's turn comes to. -/
inductive Plan where
  /-- A step of the hardware for the thread, or nothing. -/
  | act (s : State)
  /-- The instruction that it issues. -/
  | run (i : Instr) (s : State)
  deriving DecidableEq, Repr

/-- The thread issues: a pending DETSTALL is raised (20 R394), else its instruction is fetched (03 R81). -/
def issue (s0 : State) : Plan :=
  let th := s0.cur
  let s := { s0 with cur := { th with run := if th.chain.isSome then .issuing else .ready } }
  if coreHeld s th then .act s0
  else if th.detstall && th.chain.isNone then
    .act (takeTrap { s with cur := { s.cur with detstall := false } } th.id DETSTALL 1 0 0)
  else match fetch s s.cur with
    | (.instr i, s1) => .run i s1
    | (.stop e, s1) => match conclude s1 th.id (.error e) with
      | .next s2 => .act s2
      | _ => .act s1

/-- A pre-emption goes on: the engines' time runs out, or the group is SAVED (22 R428). -/
def preemptTurn (s : State) (th : Thread) : State :=
  if canSave s th then preemptSave s th.id
  else if th.preemptAt + 25000 ≤ s.t && !(engOpsOf s th).isEmpty then cancelForSave s th.id
  else s

/-- The turn of a waiting thread. -/
def waitTurn (s : State) (th : Thread) (c : Cond) : Plan :=
  match c with
  | .drain => .act (if drainDone th then drained s th.id else s)
  | .ctxs target _ => .act (ctxsGone s target)
  | .sleep _ => .act (sleepExpiry s th.id)
  | _ =>
    if condCleared s th c || idleOver s th c then issue s
    else if stallOver s c then .act (detstall s th.id)
    else .act s

/-- What has fallen due for a waiting group that is to be pre-empted goes before the pre-emption (R88): its wait or its drain is over. -/
def dueWake (s : State) (th : Thread) (c : Cond) : Option State :=
  match c with
  | .drain => if drainDone th then some (drained s th.id) else none
  | _ => if condCleared s th c then some (s.onThread th.id fun x => { x with run := .ready }) else none

/-- The turn of the current thread. -/
def plan (s : State) : Plan :=
  let th := s.cur
  if match th.carts with
    | c :: _ => decide (c.2 ≤ s.t)
    | [] => false
  then .act (retryCart s th.id)
  else if th.preempt && th.chain.isNone then
    .act ((match th.run with
      | .waiting c => dueWake s th c
      | _ => none).getD (preemptTurn s th))
  else match th.run with
    | .ready => issue s
    | .issuing => issue s
    | .waiting c => waitTurn s th c
    | _ => .act s

/-- The next thread in round-robin order takes the issue slot (R102). -/
def rotate (s : State) : State :=
  match s.others with
  | [] => s
  | th :: rest => { s with cur := th, others := rest ++ [s.cur] }

/-- After a turn: a core cycle passes, and the next thread's turn comes. The core of the turn issues nothing in the next cycle while
it is throttled (25 R460). -/
def pass (s : State) : State :=
  let s1 := passCycle (rotate s)
  if (s.core s.cur.core).throttle then passCycle s1 else s1

/-! ### The order of what comes together (10 R244, 04 R318) -/

/-- What the order of events that come together is about: the events of one line at one holder, and those of one barrier. -/
inductive Contest where
  | holder (core line : Nat)
  | barrier (part kern team : Nat)
  deriving DecidableEq, Repr

/-- The contest of an event and its place there: at a holder a recall, a persistent forward, a forwarded merge or read, a token
request (10 R244); at a barrier the arrivals in ascending GID, then the retirements (16 R318). -/
def contest (s : State) : Instr → Option (Contest × Nat)
  | .holderRecall c ln => some (.holder c ln, 0)
  | .persistentForward c ln => some (.holder c ln, 1)
  | .forwardedMerge acc lane o => (s.acc? acc).bind fun a => (a.lanes.find? fun l => l.lane == lane).map fun l =>
      (.holder o (l.key / 128), 2)
  | .forwardedSisRead _ ln o => some (.holder o ln, 2)
  | .forwardedWtRead _ ln o => some (.holder o ln, 2)
  | .holderTokenAsk c ln _ _ => some (.holder c ln, 3)
  | .barrierArrival (.grp p kn g) n => some (.barrier p kn n, g)
  | .barrierRetirement (.grp p kn g) n => some (.barrier p kn n, 2 ^ 32 + g)
  | _ => none

/-- A barrier event waits for those of the rest of its mesh cycle: core cycles 5k and 5k + 1 lie in one (16 R318). -/
def heldEvent (s : State) (i : Instr) : Bool :=
  s.t % 5 == 0 && match i with
    | .barrierArrival _ _ => true
    | .barrierRetirement _ _ => true
    | _ => false

/-- The earlier of two events, by their contest; the first where they have none in common. -/
def earlier (s : State) (i j : Instr) : Instr :=
  match contest s i, contest s j with
  | some (k, a), some (k', b) => if k == k' && b < a then j else i
  | _, _ => i

/-- The event of the agenda that comes next: the first, or the one that goes before it in its contest. -/
def nextEvent (s : State) : Option Instr :=
  match s.agenda.filter fun i => !heldEvent s i with
  | [] => none
  | i :: rest => some (rest.foldl (earlier s) i)

end Sys2Proof.Machine
end

