-- ==== Sys2Proof/Machine/Step.lean ====
section
/-! DEFINITION. One step of the machine: the next hardware step on the agenda; else one that is due; else the turn of the
current thread (log 8). -/

namespace Sys2Proof.Machine

/-- After the instruction of a turn: the cycle passes, and the next thread's turn comes. -/
def afterTurn : Host.Outcome State Fault Refusal → Host.Outcome State Fault Refusal
  | .next s => .next (pass s)
  | .fault r => .fault r
  | .refused r => .refused r

/-- The turn of the current thread. -/
def turn (s : State) : Host.Outcome State Fault Refusal :=
  match plan s with
  | .act s1 => .next (pass s1)
  | .run i s1 => afterTurn (exec i s1)

/-- One step. -/
def step (s : State) : Host.Outcome State Fault Refusal :=
  match nextEvent s with
  | some i => exec i { s with agenda := s.agenda.erase i }
  | none =>
    match dueStep s with
    | some s1 => .next s1
    | none => turn s

/-- The state with an instruction word where the next step fetches it: see `placeWord`. -/
def State.withFetchWord (s : State) (nbits w : Nat) : State := placeWord s nbits w

end Sys2Proof.Machine
end

