-- ==== Sys2Proof/Safety.lean ====
section
/-! DEFINITION. What counts as a safe run: every step answers a next state, and the memories keep their canonical form. -/

namespace Sys2Proof

open Machine

/-- The outcome is a next state. -/
def Completes (o : Host.Outcome State Fault Refusal) : Prop := ∃ t, o = .next t

/-- The canonical form of a thread's own memories (core scratchpad and lane slices). -/
def threadMemWf (th : Thread) : Bool := th.scr.wf && th.slice.wf

/-- Every memory of the state is in canonical form. -/
def State.memWf (s : Machine.State) : Prop :=
  s.mem.wf = true ∧ ∀ th ∈ s.threads, threadMemWf th = true

end Sys2Proof
end

