-- ==== Sys2Proof/Certificates/Slice0/Obligations.lean ====
section
/-! DEFINITION. What the model claims, for the provers: one `def Obligations.<Name> : Prop` per statement, after the few words
that the statements are written in. -/

namespace Sys2Proof.Spec

open Sys2Proof.Machine

/-! ### The words of the statements -/

/-- The current thread issues the instruction: its fields are legal, every check of R81 passes and no register that it names
is pending. `IssueChecks` says what `check` asks. -/
def Issues (i : Instr) (f : Fields) (s : State) : Prop := i.wellFormed = true ∧ check i f s s.cur = .ok ()

/-- The registers that the issuing instruction reads. -/
def src (s : State) : Regs := s.cur.opened.regs

/-- The state after an instruction whose effect on the thread is `th` and that writes `v` to its destination. `Advance` says
what it holds. -/
def written (s : State) (f : Fields) (th : Thread) (v : Value) : State :=
  { s with cur := ((th.retire s.cur f v).next f.len.slot).closed s.cur f }

/-- The instruction completes: it writes `v` to its destination and changes nothing else. -/
def Writes (i : Instr) (f : Fields) (s : State) (v : Value) : Prop := exec i s = .next (written s f s.cur.opened v)

/-- The instruction completes without a destination, its effect on the thread being `g`. -/
def Acts (i : Instr) (f : Fields) (s : State) (g : Thread → Thread) : Prop :=
  exec i s = .next (written s f (g s.cur.opened) .none)

/-- The instruction completes as one that only writes `v` does, except that the thread goes on at `pc`. -/
def Jumps (i : Instr) (f : Fields) (s : State) (th : Thread) (v : Value) (pc : DWord) : Prop :=
  let t := written s f th v
  exec i s = .next { t with cur := { t.cur with regs := { t.cur.regs with pc } } }

/-- The instruction raises a trap in the issuing thread. -/
def Raises (i : Instr) (s : State) (code detail : Nat) : Prop := exec i s = .next (takeTrap s s.cur.id code detail 0 0)

/-- The sources of a scalar integer form at the width of its type (R120, R121). -/
def opA (f : Fields) (s : State) : BitVec (intWidth f.ty) := BitVec.ofNat _ ((src s).srcT f.ty f.a)
def opB (f : Fields) (s : State) : BitVec (intWidth f.ty) := BitVec.ofNat _ ((src s).srcBT f f.ty)
def opC (f : Fields) (s : State) : BitVec (intWidth f.ty) := BitVec.ofNat _ ((src s).srcT f.ty f.c)

/-- A scalar integer result at the width of the type. -/
def result (ty : BitVec 4) {w : Nat} (x : BitVec w) : Value := valueT ty x.toNat

/-- A value read in the instruction's type (R123). -/
def readAs (ty : BitVec 4) {w : Nat} (x : BitVec w) : Int := if isSigned ty then x.toInt else (x.toNat : Int)

/-- The integer conditions of R64. -/
def holds (cond : BitVec 4) (a b : Int) : Prop :=
  (cond = 0 ∧ a = b) ∨ (cond = 1 ∧ a ≠ b) ∨ (cond = 2 ∧ a < b) ∨ (cond = 3 ∧ a ≤ b) ∨ (cond = 4 ∧ b < a) ∨ (cond = 5 ∧ b ≤ a)

/-- The f32 NaN, infinity and zero tests and the canonical NaN (02 R34). -/
def nan32 (x : Word) : Bool := x.extractLsb' 23 8 == 0xFF && x.extractLsb' 0 23 != 0
abbrev inf32 (x : Word) : Prop := x.extractLsb' 0 31 = 0x7F800000
abbrev zero32 (x : Word) : Prop := x.extractLsb' 0 31 = 0
def canonicalNaN : Word := 0x7FC00000

/-- Element j of a lane, w bits wide (02 R31). -/
def elem (w : Nat) (x : Word) (j : Nat) : BitVec w := x.extractLsb' (w * j) w

/-- A source tag fits an expected one (04 R95): RAW fits every expectation. -/
def fits (want t : Tag) : Prop := t = RAW ∨ t = want

/-- A tag that any source may carry: codes 13 to 15 are no format. -/
def someFormat (t : Tag) : Prop := t.toNat ≤ 12

/-- Less than, in the type (R123, R145). -/
def lessIn (ty : BitVec 4) {w : Nat} (a b : BitVec w) : Bool := if isSigned ty then a.slt b else a.ult b

/-- A vector result (04 R95, R97): the tag stands for the whole register; the active lanes i hold `g i`, the others the bits
that the destination held (0 under ND). -/
def lanesHold (f : Fields) (s : State) (tag : Tag) (g : Nat → Word → Prop) (r : VReg) : Prop :=
  r.tag = tag ∧ r.lanes.length = 96 ∧ ∀ i, i < 96 →
    if (src s).mask.getLsbD i then g i (laneOf r.lanes i) else laneOf r.lanes i = laneOf ((src s).destV f).lanes i

/-- A vector instruction that needs its source tags to fit: it raises TAG where they do not, else writes such a result. -/
def VWrites (i : Instr) (f : Fields) (s : State) (tagsFit : Prop) (tag : Tag) (g : Nat → Word → Prop) : Prop :=
  Issues i f s → (tagsFit → ∃ r, Writes i f s (.v r) ∧ lanesHold f s tag g r) ∧ (¬ tagsFit → Raises i s TAG 0)

/-- The state after an instruction of the special-function unit outside a chain (04 R103): the program counter is past it, the
destination stays pending with its value, and the completion comes. -/
def pendingState (s : State) (f : Fields) (reg : PReg) (val : PVal) : State :=
  let t := written s f s.cur.opened .none
  { t with cur := { t.cur with pend := t.cur.pend ++ [{ reg, tag := s.serial, val }] }, serial := s.serial + 1,
           agenda := s.agenda ++ [.pendingWriteComplete s.cur.id s.serial] }

/-- The thread is inside a chain, or the instruction has ND = 1: its result does not stay pending. -/
def atOnce (f : Fields) (s : State) : Prop := f.nd = true ∨ f.ch = true ∨ s.cur.chain ≠ none

/-- A vector instruction of the special-function unit. -/
def SWrites (i : Instr) (f : Fields) (s : State) (tagsFit : Prop) (tag : Tag) (g : Nat → Word → Prop) : Prop :=
  Issues i f s →
    (tagsFit → ∃ r, lanesHold f s tag g r ∧ (atOnce f s → Writes i f s (.v r)) ∧
      (¬ atOnce f s → exec i s = .next (pendingState s f (.v f.d.toNat) (.v r)))) ∧
    (¬ tagsFit → Raises i s TAG 0)

/-- The float formats of w = 16 and 32 bits (02 R32, R34): NaN, infinity and zero of either sign, the sign, the canonical NaN,
infinity and 1. -/
abbrev isNaNIn {w : Nat} (x : BitVec w) : Prop := x.extractLsb' (w - 9) 8 = 0xFF ∧ x.extractLsb' 0 (w - 9) ≠ 0
abbrev isInfIn {w : Nat} (x : BitVec w) : Prop := x.extractLsb' (w - 9) 8 = 0xFF ∧ x.extractLsb' 0 (w - 9) = 0
abbrev isZeroIn {w : Nat} (x : BitVec w) : Prop := x.extractLsb' 0 (w - 1) = 0
def signIn {w : Nat} (x : BitVec w) : Bool := x.getLsbD (w - 1)
def canonicalIn (w : Nat) : BitVec w := if w = 16 then 0x7FC0 else 0x7FC00000
def infinityIn (w : Nat) (neg : Bool) : BitVec w :=
  if w = 16 then (if neg then 0xFF80 else 0x7F80) else (if neg then 0xFF800000 else 0x7F800000)
def zeroIn (w : Nat) (neg : Bool) : BitVec w := if neg then (1 : BitVec w) <<< (w - 1) else 0
def one32 : Word := 0x3F800000

/-! ### Exact values and the one rounding (02 R32 to R39) -/

/-- The pattern without its sign, and the magnitude that such a pattern stands for: subnormal where its exponent field is 0. The
pattern of infinity counts as 2^128 here, the next power of two. -/
def sizeIn {w : Nat} (x : BitVec w) : Nat := (x.extractLsb' 0 (w - 1)).toNat
def magnitude (w n : Nat) : Rat :=
  let p := w - 9
  if n / 2 ^ p = 0 then (n : Rat) * 2 ^ (-126 - (p : Int))
  else ((2 ^ p + n % 2 ^ p : Nat) : Rat) * 2 ^ ((n / 2 ^ p : Nat) - 127 - (p : Int))
/-- The value of a pattern that is no NaN. -/
def valueIn {w : Nat} (x : BitVec w) : Rat := if signIn x then -magnitude w (sizeIn x) else magnitude w (sizeIn x)
/-- The exponent of the last bit of a pattern (R39). -/
def lastBit {w : Nat} (x : BitVec w) : Int := (max 1 (sizeIn x / 2 ^ (w - 9)) : Nat) - 127 - ((w - 9 : Nat) : Int)

/-- The exact result of an operation: a NaN, an infinity, a signed zero, or a number that is not 0. -/
inductive Exact where
  | nan
  | inf (neg : Bool)
  | zero (neg : Bool)
  | val (x : Rat)

def exactOf {w : Nat} (x : BitVec w) : Exact :=
  if isNaNIn x then .nan else if isInfIn x then .inf (signIn x) else if isZeroIn x then .zero (signIn x) else .val (valueIn x)

/-- A number as an exact value; 0 is +0. -/
def Exact.ofRat (x : Rat) : Exact := if x = 0 then .zero false else .val x

def Exact.neg : Exact → Exact
  | .nan => .nan
  | .inf s => .inf !s
  | .zero s => .zero !s
  | .val x => .val (-x)

/-- The exact sum, its zero signed by R36: mode 3 is `rdn`. -/
def Exact.add (mode : Nat) : Exact → Exact → Exact
  | .nan, _ => .nan
  | _, .nan => .nan
  | .inf s, .inf t => if s = t then .inf s else .nan
  | .inf s, _ => .inf s
  | _, .inf t => .inf t
  | .zero s, .zero t => .zero (if s = t then s else mode == 3)
  | .zero _, y => y
  | x, .zero _ => x
  | .val x, .val y => if x + y = 0 then .zero (mode == 3) else .val (x + y)

/-- The exact product, and 1/x: x / y is `x.mul y.inv` (R36, R132, R168). -/
def Exact.mul : Exact → Exact → Exact
  | .nan, _ => .nan
  | _, .nan => .nan
  | .inf _, .zero _ => .nan
  | .zero _, .inf _ => .nan
  | .inf s, .inf t => .inf (s ^^ t)
  | .inf s, .val y => .inf (s ^^ decide (y < 0))
  | .val x, .inf t => .inf (decide (x < 0) ^^ t)
  | .zero s, .zero t => .zero (s ^^ t)
  | .zero s, .val y => .zero (s ^^ decide (y < 0))
  | .val x, .zero t => .zero (decide (x < 0) ^^ t)
  | .val x, .val y => .val (x * y)
def Exact.inv : Exact → Exact
  | .nan => .nan
  | .inf s => .zero s
  | .zero s => .inf s
  | .val x => .val (1 / x)

/-- An exact zero of a fused sum is +0 (R45). -/
def Exact.plain : Exact → Exact
  | .zero _ => .zero false
  | e => e

/-- Whether x goes to its neighbour `hi` away from zero and not to `lo` toward it (R38), `odd` being the last bit of `lo`. Under `.sr`
the discarded positions down to the source's last bit decide, with the seed and nothing else (R39). -/
def goesAway (mode : Nat) (seed : Word) (last : Int) (x lo hi : Rat) (odd : Bool) : Prop :=
  lo ≠ x.abs ∧ match mode with
    | 0 => lo + hi < 2 * x.abs ∨ (2 * x.abs = lo + hi ∧ odd = true)
    | 1 => False
    | 2 => 0 < x
    | 3 => x < 0
    | _ => ∃ n : Nat, hi - lo = 2 ^ (last + n) ∧
      let k := min n 32
      let d := ((x.abs - lo) / (hi - lo) * 2 ^ k).floor.toNat
      (mix32 (BitVec.ofNat 32 d ^^^ seed)).toNat % 2 ^ k < d

/-- Round(x, m, p) of R38: the neighbours of x in the format, 2^128 standing for infinity, and the one of them that is written. -/
def roundsBy {w : Nat} (mode : Nat) (seed : Word) (last : Int) : Exact → BitVec w → Prop
  | .nan, r => r = canonicalIn w
  | .inf neg, r => r = infinityIn w neg
  | .zero neg, r => r = zeroIn w neg
  | .val x, r => signIn r = decide (x < 0) ∧ ∃ n : Nat, n < 255 * 2 ^ (w - 9) ∧ magnitude w n ≤ x.abs ∧
      (x.abs < magnitude w (n + 1) ∨ n + 1 = 255 * 2 ^ (w - 9)) ∧
      let away := goesAway mode seed last x (magnitude w n) (magnitude w (n + 1)) (n % 2 == 1)
      (away → sizeIn r = n + 1) ∧ (¬ away → sizeIn r = n)
def roundsTo {w : Nat} (mode : Nat) (e : Exact) (r : BitVec w) : Prop := roundsBy mode 0 0 e r

/-- The correctly rounded square root (R50, R51, R134). -/
def rootsTo {w : Nat} : Exact → BitVec w → Prop
  | .nan, r => r = canonicalIn w
  | .inf neg, r => r = if neg then canonicalIn w else infinityIn w false
  | .zero neg, r => r = zeroIn w neg
  | .val x, r => (x < 0 → r = canonicalIn w) ∧
      (0 < x → signIn r = false ∧ 0 < sizeIn r ∧ sizeIn r < 255 * 2 ^ (w - 9) ∧
        let lo := magnitude w (sizeIn r - 1) + magnitude w (sizeIn r)
        let hi := magnitude w (sizeIn r) + magnitude w (sizeIn r + 1)
        lo * lo ≤ 4 * x ∧ 4 * x ≤ hi * hi ∧ (lo * lo = 4 * x ∨ 4 * x = hi * hi → sizeIn r % 2 = 0))

/-- The order of R133, -0 below +0, and `min` and `max` by it. -/
def below {w : Nat} (x y : BitVec w) : Prop :=
  valueIn x < valueIn y ∨ (isZeroIn x ∧ isZeroIn y ∧ signIn x = true ∧ signIn y = false)
def choosesTo {w : Nat} (x y : BitVec w) (second : Prop) (r : BitVec w) : Prop :=
  (isNaNIn x → isNaNIn y → r = canonicalIn w) ∧ (isNaNIn x → ¬ isNaNIn y → r = y) ∧ (¬ isNaNIn x → isNaNIn y → r = x) ∧
  (¬ isNaNIn x → ¬ isNaNIn y → (second → r = y) ∧ (¬ second → r = x))
def minTo {w : Nat} (x y r : BitVec w) : Prop := choosesTo x y (below y x) r
def maxTo {w : Nat} (x y r : BitVec w) : Prop := choosesTo x y (below x y) r

/-- The float conditions of R64: the two zeros are equal, 6 holds of unordered operands and 7 of ordered ones. -/
def holdsFloat {w : Nat} (cond : BitVec 4) (x y : BitVec w) : Prop :=
  let un := isNaNIn x ∨ isNaNIn y
  (cond = 0 ∧ ¬ un ∧ valueIn x = valueIn y) ∨ (cond = 1 ∧ (un ∨ valueIn x ≠ valueIn y)) ∨
  (cond = 2 ∧ ¬ un ∧ valueIn x < valueIn y) ∨ (cond = 3 ∧ ¬ un ∧ valueIn x ≤ valueIn y) ∨
  (cond = 4 ∧ ¬ un ∧ valueIn y < valueIn x) ∨ (cond = 5 ∧ ¬ un ∧ valueIn y ≤ valueIn x) ∨ (cond = 6 ∧ un) ∨ (cond = 7 ∧ ¬ un)

/-! ### Conversions (02 R48, R49) -/

/-- The bits of a type code, whether it is a float and whether it is signed (R29, R63); as a source 0 is f32. -/
def codeBits (ty : BitVec 4) : Nat :=
  if ty = 1 ∨ ty = 5 then 8 else if ty = 2 ∨ ty = 6 ∨ ty = 9 then 16 else if ty = 4 ∨ ty = 8 then 64 else 32
abbrev isFloatCode (ty : BitVec 4) : Prop := ty = 0 ∨ ty = 9 ∨ ty = 10
abbrev isSignedCode (ty : BitVec 4) : Prop := 1 ≤ ty.toNat ∧ ty.toNat ≤ 4

/-- Saturation to the range of an integer type (R49). -/
def leastOf (ty : BitVec 4) : Int := if isSignedCode ty then -(2 ^ (codeBits ty - 1)) else 0
def mostOf (ty : BitVec 4) : Int := if isSignedCode ty then 2 ^ (codeBits ty - 1) - 1 else 2 ^ codeBits ty - 1
def saturated (ty : BitVec 4) (n : Int) : Int := max (leastOf ty) (min (mostOf ty) n)

/-- An exact value as an integer of a type: rounded to an integer by the mode, then saturated (R49). -/
def integerOf (ty : BitVec 4) (mode : Nat) (seed : Word) (last : Int) : Exact → Int → Prop
  | .nan, n => n = 0
  | .inf neg, n => n = if neg then leastOf ty else mostOf ty
  | .zero _, n => n = 0
  | .val x, n => ∃ m : Nat, (m : Rat) ≤ x.abs ∧ x.abs < m + 1 ∧
      let away := goesAway mode seed last x m (m + 1) (m % 2 == 1)
      let signed (k : Nat) : Int := if x < 0 then -k else k
      (away → n = saturated ty (signed (m + 1))) ∧ (¬ away → n = saturated ty (signed m))

/-- The conversion of an element x to r under R48 and R49. -/
def convertsTo (src dst : BitVec 4) (mode : Nat) (seed : Word) (x : BitVec (codeBits src)) (r : BitVec (codeBits dst)) : Prop :=
  let v : Int := if isSignedCode src then x.toInt else x.toNat
  (isFloatCode src → isFloatCode dst → roundsBy mode seed (lastBit x) (exactOf x) r) ∧
  (isFloatCode src → ¬ isFloatCode dst → ∃ n, integerOf dst mode seed (lastBit x) (exactOf x) n ∧ r = BitVec.ofInt _ n) ∧
  (¬ isFloatCode src → isFloatCode dst → roundsBy mode seed 0 (Exact.ofRat v) r) ∧
  (¬ isFloatCode src → ¬ isFloatCode dst → r = BitVec.ofInt _ (saturated dst v))

/-- STATUS after an instruction that reports (03 R137): the code, and ERR set by any but 0. -/
def reported (r : SReg) (code : BitVec 8) : SReg := { r with statusLast := code, statusErr := r.statusErr || code != 0 }

/-- MRHO as it is stored (09 R187): a NaN and a zero as +0, a value beyond 1 or -1 as that, every other as it is. -/
def clampsTo (x rho : Word) : Prop :=
  (nan32 x = true ∨ zero32 x → rho = 0) ∧
  (nan32 x = false → ¬ zero32 x → 0x3F800000 < sizeIn x → rho = if x.getLsbD 31 then 0xBF800000 else 0x3F800000) ∧
  (¬ zero32 x → sizeIn x ≤ 0x3F800000 → rho = x)

/-! ### The 4-bit blocks (02 R41 to R43; 07 R174 to R178) -/

/-- The magnitudes of a code type, and v(c) but for the sign of a zero. -/
def codeMags (t : Nat) : List Rat :=
  if t = 1 then [0, 1 / 2, 1, 3 / 2, 2, 3, 4, 6] else if t = 2 then [0, 1 / 64, 1 / 32, 1 / 16, 1 / 8, 1 / 4, 1 / 2, 1]
  else [0, 1, 2, 3, 4, 6, 8, 12]
def codePoint (t c : Nat) : Rat :=
  if t = 0 then (if c < 8 then (c : Rat) else c - 16)
  else if c < 8 then (codeMags t).getD c 0 else -(codeMags t).getD (c - 8) 0

/-- Slot k of a scale word: its type, and 2^(SE - 127) · (1 + SM/1024). -/
def scaleType (word : DWord) (k : Nat) : Nat := (word.extractLsb' (20 * k + 18) 2).toNat
def scaleExp (word : DWord) (k : Nat) : Nat := (word.extractLsb' (20 * k + 10) 8).toNat
def scaleOf (e m : Nat) : Rat := 2 ^ ((e : Int) - 127) * (1 + (m : Rat) / 1024)
def slotScale (word : DWord) (k : Nat) : Rat := scaleOf (scaleExp word k) (word.extractLsb' (20 * k) 10).toNat
abbrev nanBlock (word : DWord) (k : Nat) : Prop := word.extractLsb' 60 4 ≠ 0 ∨ scaleExp word k = 255

/-- The exact value of code c of a block (R43). -/
def codeValue (word : DWord) (k c : Nat) : Exact :=
  if nanBlock word k then .nan
  else if scaleExp word k = 0 then .zero false
  else if scaleType word k ≠ 0 ∧ c = 8 then .zero true
  else Exact.ofRat (codePoint (scaleType word k) c * slotScale word k)

/-- The scale for a block of greatest magnitude `top` (R174): SE, SM, and whether it was clamped. -/
def scaleFor (t : Nat) (top : Rat) (se sm : Nat) (clamped : Bool) : Prop :=
  let x := top / (if t = 0 then 7 else if t = 1 then 6 else if t = 2 then 1 else 12)
  ∃ (e : Int) (m : Nat), (2 : Rat) ^ e ≤ x ∧ x < 2 ^ (e + 1) ∧ (m : Rat) - 1 < (x / 2 ^ e - 1) * 1024 ∧ (x / 2 ^ e - 1) * 1024 ≤ m ∧
    let e1 := if m = 1024 then e + 1 else e
    (e1 < -126 → se = 1 ∧ sm = 0 ∧ clamped = true) ∧ (127 < e1 → se = 254 ∧ sm = 1023 ∧ clamped = true) ∧
    (-126 ≤ e1 → e1 ≤ 127 → (se : Int) = e1 + 127 ∧ sm = (if m = 1024 then 0 else m) ∧ clamped = false)

/-- The code that a mode chooses for q among the values of a type, and whether it saturates (R177). -/
def choosesCode (t mode : Nat) (seed : Word) (q : Rat) (c : Nat) (full : Bool) : Prop :=
  let v := codePoint t c
  let isLo (lo : Rat) : Prop := lo ≤ q ∧ (∃ k, k < 16 ∧ codePoint t k = lo) ∧ ∀ k, k < 16 → codePoint t k ≤ q → codePoint t k ≤ lo
  let isHi (hi : Rat) : Prop := q ≤ hi ∧ (∃ k, k < 16 ∧ codePoint t k = hi) ∧ ∀ k, k < 16 → q ≤ codePoint t k → hi ≤ codePoint t k
  c < 16 ∧ (v = 0 → c = 0) ∧
  ((∀ k, k < 16 → codePoint t k < q) → full = true ∧ ∀ k, k < 16 → codePoint t k ≤ v) ∧
  ((∀ k, k < 16 → q < codePoint t k) → full = true ∧ ∀ k, k < 16 → v ≤ codePoint t k) ∧
  ∀ lo hi, isLo lo → isHi hi → full = false ∧ (lo = hi → v = lo) ∧ (lo ≠ hi → match mode with
    | 0 => (2 * q < lo + hi → v = lo) ∧ (lo + hi < 2 * q → v = hi) ∧ (2 * q = lo + hi → (v = lo ∨ v = hi) ∧ c % 2 = 0)
    | 1 => v = if lo.abs ≤ hi.abs then lo else hi
    | 2 => v = hi
    | 3 => v = lo
    | _ =>
      let near := if lo.abs ≤ hi.abs then lo else hi
      let far := if lo.abs ≤ hi.abs then hi else lo
      let d := ((q - near).abs / (far - near).abs * 2 ^ 16).floor.toNat
      v = if (mix32 (BitVec.ofNat 32 d ^^^ seed)).toNat % 2 ^ 16 < d then far else near)

/-- The code of an f32 value under slot k of a scale word, and whether it saturates (R176). -/
def packsTo (mode : Nat) (seed : Word) (word : DWord) (k : Nat) (x : Word) (c : Nat) (full : Bool) : Prop :=
  let t := scaleType word k
  (nanBlock word k ∨ scaleExp word k = 0 ∨ nan32 x = true → c = 0 ∧ full = false) ∧
  (¬ nanBlock word k → scaleExp word k ≠ 0 → nan32 x = false →
    (inf32 x → full = true ∧ ∀ n, n < 16 → if x.getLsbD 31 then codePoint t c ≤ codePoint t n else codePoint t n ≤ codePoint t c) ∧
    (¬ inf32 x → choosesCode t mode seed (valueIn x / slotScale word k) c full))

/-- The combination of the 2^n values from `lo` on by neighbours, level by level (R46). -/
def treeOf (op : Word → Word → Word) (x : Nat → Word) (lo : Nat) : Nat → Word
  | 0 => x lo
  | n + 1 => op (treeOf op x lo n) (treeOf op x (lo + 2 ^ n) n)

/-- A variance below -0 (09 R189). -/
abbrev negative (x : Word) : Prop := x.getLsbD 31 = true ∧ ¬ zero32 x ∧ nan32 x = false

/-- A moment result (09 R184, R185, R190): every active lane holds a pair as `g` says, its NaNs canonical and its variance without a
sign; the other lanes keep theirs. -/
def pairsHold (f : Fields) (s : State) (g : Nat → Word → Word → Prop) (r : MReg) : Prop :=
  let d := (src s).destM f
  r.tag = MOM ∧ ∀ i, i < 96 →
    let mean := laneOf r.mean i
    let var := laneOf r.var i
    if (src s).mask.getLsbD i then
      g i mean var ∧ (nan32 mean = true → mean = canonicalNaN) ∧ (nan32 var = true → var = canonicalNaN) ∧
      (nan32 var = false → var.getLsbD 31 = false)
    else mean = laneOf d.mean i ∧ var = laneOf d.var i

/-- NEGVAR for a triple of lanes. -/
def RaisesNegvar (i : Instr) (s : State) (z : Mask) : Prop := exec i s = .next (takeTrap s s.cur.id NEGVAR 0 0 z)

/-- A moment form over the sources `ms` (09 R184, R189, R190): TAG where a source is no moment register; NEGVAR for exactly the
active lanes with a source variance below -0, unless MCR.NVZ is set; then `ends r` for such a result r, or NEGVAR for lanes
whose result variance is below -0. With NVZ set it always ends. -/
def MWrites (i : Instr) (f : Fields) (s : State) (otherTags : Prop) (ms : List MReg) (ends : MReg → Prop)
    (g : Nat → Word → Word → Prop) : Prop :=
  Issues i f s →
    let tagsFit := otherTags ∧ ∀ m ∈ ms, fits MOM m.tag
    let nvz := (src s).sr.mcr.getLsbD 2
    let bad (n : Nat) : Prop := (src s).mask.getLsbD n = true ∧ ∃ m ∈ ms, negative (laneOf m.var n)
    (¬ tagsFit → Raises i s TAG 0) ∧
    (tagsFit → nvz = false → (∃ n, n < 96 ∧ bad n) → ∃ z, RaisesNegvar i s z ∧ ∀ n, n < 96 → (z.getLsbD n = true ↔ bad n)) ∧
    (tagsFit → nvz = false → (∀ n, n < 96 → ¬ bad n) →
      (∃ r, ends r ∧ pairsHold f s g r) ∨ ∃ z, z ≠ 0 ∧ RaisesNegvar i s z) ∧
    (tagsFit → nvz = true → ∃ r, ends r ∧ pairsHold f s g r)

/-- A variance as it is read and as it is written (R189, R190), where nothing below -0 is left to trap. -/
def finished (v : Word) : Word := if negative v ∨ zero32 v then 0 else v

/-- A moment form over the sources `ms` whose steps are `steps n mean raw`, `raw` being the variance before it is finished (R189, R190):
where no source stops it, it ends with the pairs of the steps, or raises NEGVAR for exactly the active lanes whose variance came out
below -0. -/
def MSteps (i : Instr) (f : Fields) (s : State) (otherTags : Prop) (ms : List MReg) (ends : MReg → Prop)
    (steps : Nat → Word → Word → Prop) : Prop :=
  Issues i f s → otherTags → (∀ m ∈ ms, fits MOM m.tag) →
    let active (n : Nat) : Prop := (src s).mask.getLsbD n = true
    let nvz := (src s).sr.mcr.getLsbD 2
    (nvz = true ∨ ∀ n, n < 96 → active n → ∀ m ∈ ms, ¬ negative (laneOf m.var n)) →
    ∃ mean raw : Nat → Word, (∀ n, n < 96 → active n → steps n (mean n) (raw n)) ∧
      let bad (n : Nat) : Prop := active n ∧ negative (raw n)
      (nvz = true ∨ (∀ n, n < 96 → ¬ bad n) → ∃ r, ends r ∧ r.tag = MOM ∧
        ∀ n, n < 96 → active n → laneOf r.mean n = mean n ∧ laneOf r.var n = finished (raw n)) ∧
      (nvz = false → (∃ n, n < 96 ∧ bad n) → ∃ z, RaisesNegvar i s z ∧ ∀ n, n < 96 → (z.getLsbD n = true ↔ bad n))

/-- F of R188: one rounding to the nearest f32. -/
def nearestTo (e : Exact) (r : Word) : Prop := roundsTo 0 e r

/-- The covariance of two variances under a mode (R188): FN, or MCR.CV under FN 0. -/
def covariance (fn : Nat) (sr : SReg) (va vb c : Word) : Prop :=
  let mode := if fn = 0 then (sr.mcr.extractLsb' 0 2).toNat + 1 else fn
  ∃ g, (zero32 va ∨ zero32 vb → g = 0) ∧
    (¬ zero32 va → ¬ zero32 vb → rootsTo ((exactOf va).mul (exactOf vb)) g) ∧
    (mode = 1 → c = 0) ∧ (mode = 2 → c = g) ∧
    (mode = 3 → ∃ x, nearestTo (exactOf g).neg x ∧ c = if zero32 x then 0 else x) ∧
    (mode = 4 → ∃ x, nearestTo ((exactOf sr.mrho).mul (exactOf g)) x ∧ c = if zero32 x then 0 else x)

/-- The steps of R196: the product of two pairs. -/
def productSteps (cov ma va mb vb mean var : Word) : Prop :=
  let E (x : Word) : Exact := exactOf x
  nearestTo (((E ma).mul (E mb)).add 0 (E cov)) mean ∧
  ∃ s1 s2 s3 s4 s5 s6 s7, nearestTo ((E ma).mul (E ma)) s1 ∧ nearestTo ((E mb).mul (E mb)) s2 ∧
    nearestTo ((E s1).mul (E vb)) s3 ∧ nearestTo (((E s2).mul (E va)).add 0 (E s3)) s4 ∧
    nearestTo (((E va).mul (E vb)).add 0 (E s4)) s5 ∧ nearestTo ((E ma).mul (E mb)) s6 ∧
    nearestTo ((((Exact.val 2).mul (E s6)).mul (E cov)).add 0 (E s5)) s7 ∧ nearestTo (((E cov).mul (E cov)).add 0 (E s7)) var

/-- The steps of R202; exp, Φ, φ and the logistic function are the model's correctly rounded ones (R50, R51). -/
def sigmoidSteps (mu v mean var : Word) : Prop :=
  let E (x : Word) : Exact := exactOf x
  ∃ k2 kappa y w pk q r, nearestTo ((E one32).add 0 (E (BitVec.ofNat 32 (fPiEighth v.toNat)))) k2 ∧ rootsTo (E k2) kappa ∧
    nearestTo ((E mu).mul (E kappa).inv) y ∧ mean = BitVec.ofNat 32 (fLogistic y.toNat) ∧
    nearestTo ((E one32).mul (E kappa).inv) w ∧ nearestTo ((E one32).add 0 (E w).neg) pk ∧
    nearestTo ((E one32).add 0 (E mean).neg) q ∧ nearestTo ((E mean).mul (E q)) r ∧ nearestTo ((E r).mul (E pk)) var

/-- The variance of a source as it is read (R189). -/
def variance (m : MReg) (n : Nat) (v : Word) : Prop :=
  (negative (laneOf m.var n) ∨ zero32 (laneOf m.var n) → v = 0) ∧
  (¬ negative (laneOf m.var n) → ¬ zero32 (laneOf m.var n) → v = laneOf m.var n)

/-- The launched-lane source of a permutation (R152). -/
def permuted (s : State) (a : VReg) (p : Nat) : Word := if p < 96 ∧ s.cur.ll.getLsbD p = true then laneOf a.lanes p else 0

/-- The active lanes below n, ascending. -/
def activeBelow (s : State) (n : Nat) : List Nat := (List.range n).filter fun i => (src s).mask.getLsbD i

/-- The integer operations and identities of 06 R154 and 02 R47. -/
def reduceOp (fn : Nat) (ty : BitVec 4) (a b : Word) : Word :=
  match fn with
  | 0 => a + b
  | 1 => a &&& b
  | 2 => a ||| b
  | 3 => a ^^^ b
  | 4 => if lessIn ty b a then b else a
  | _ => if lessIn ty a b then b else a
def reduceUnit (fn : Nat) (ty : BitVec 4) : Word :=
  match fn with
  | 1 => BitVec.allOnes 32
  | 4 => if isSigned ty then 0x7FFFFFFF else 0xFFFFFFFF
  | 5 => if isSigned ty then 0x80000000 else 0
  | _ => 0

/-- The opcodes with a dash in the map of R76, as row and column. -/
def unassignedCodes : List (Nat × Nat) :=
  let cols (r lo n : Nat) : List (Nat × Nat) := (List.range n).map fun k => (r, lo + k)
  cols 1 8 8 ++ cols 3 10 6 ++ cols 4 14 2 ++ cols 7 0 16 ++ cols 9 6 10 ++ cols 10 4 12 ++ cols 13 4 12 ++ cols 14 11 5 ++
  cols 15 4 4

/-! ### Memory instructions -/

/-- The memory instructions (11 R253 to R264, R267; 09 R205, R206), each with what it asks of memory, whether its source tags fit,
and its order code. -/
structure Form where
  i : Instr
  m : MemOp
  tags : Prop := True
  order : Nat

/-- The integer offset tags of a V offset (R253). -/
def offsetFits (f : Fields) (s : State) : Prop :=
  let t := ((src s).srcV f f.b).tag
  t = RAW ∨ t = I32 ∨ t = N32

/-- The tag of a vector load: RAW under TY 0 (R253). -/
def loadedTag (ty : BitVec 4) : Tag := if ty = 0 then RAW else tagOfTy ty

/-- The data tag of a vector store: any format under TY 0 (R253). -/
def dataFits (f : Fields) (t : Tag) : Prop := if f.ty = 0 then someFormat t else fits (tagOfTy f.ty) t

def vectorForms (f : Fields) (s : State) : List Form :=
  let th := s.cur.opened
  let c := th.regs.srcV f f.c
  let d := th.regs.destV f
  let q := th.regs.readM f.c.toNat
  let e := if f.ty = 9 then 4 else 8
  let ty := if f.ty = 0 then (3 : BitVec 4) else f.ty
  let order := f.mo.toNat
  let at_ (step : Nat) : List (Nat × Nat) := (memLanes th).map fun i => (i, vectorOffset f th step i)
  let byLane : List (Nat × Nat) := (memLanes th).map fun i => (i, vectorOffset { f with fn := 0 } th 4 i)
  let offsets : Prop := f.fn = 0 → offsetFits f s
  [ { i := .vld f, order, tags := offsets
      m := { kind := .load, lanes := at_ 4, ty := f.ty.toNat, dest := vectorDest f (loadedTag f.ty), pend := vectorPend f, lc := true } },
    { i := .vldu f, order
      m := { kind := .load, lanes := at_ 0, ty := f.ty.toNat, dest := vectorDest f (loadedTag f.ty), pend := vectorPend f, lc := true } },
    { i := .vst f, order, tags := offsets ∧ dataFits f c.tag
      m := { kind := .store, perm := .store, writes := true, lanes := at_ 4, data := fun i => (laneOf c.lanes i).toNat
             ty := f.ty.toNat, sc := true } },
    { i := .vatm f, order, tags := offsetFits f s ∧ fits (tagOfTy ty) c.tag ∧ (f.fn = 7 → fits (tagOfTy ty) d.tag)
      m := { kind := .atomic f.fn.toNat, perm := .rmw, writes := true, lanes := byLane
             data := fun i => (laneOf c.lanes i).toNat, expect := fun i => (laneOf d.lanes i).toNat, ty := ty.toNat
             dest := vectorDest f (tagOfTy ty), pend := vectorPend f, lc := true, sc := true } },
    { i := .vmred f, order, tags := offsetFits f s ∧ fits (tagOfTy ty) c.tag
      m := { kind := .reduce f.fn.toNat, perm := .rmw, writes := true, lanes := byLane
             data := fun i => (laneOf c.lanes i).toNat, ty := ty.toNat, sc := true } },
    { i := .vfld f, order, tags := offsetFits f s
      m := { kind := .futLoad, width := 8, align := 8, lanes := at_ 8, ty := f.ty.toNat
             dest := .future (if f.nd then 255 else f.d.toNat) f.c.toNat, pend := vectorPend f ++ regsOf .z f.c, lc := true } },
    { i := .vfst f, order, tags := offsetFits f s ∧ dataFits f c.tag
      m := { kind := .futFill, width := 8, align := 8, perm := .store, writes := true, lanes := at_ 8
             data := fun i => (laneOf c.lanes i).toNat, ty := f.ty.toNat, sc := true } },
    { i := .mld f, order, tags := offsets
      m := { kind := .load, width := e, align := e, lanes := at_ e, ty := f.ty.toNat
             dest := if f.nd then .none else .m f.d.toNat (e == 8), pend := if f.nd then [] else [.m f.d.toNat], lc := true } },
    { i := .mst f, order := 0, tags := offsets ∧ fits MOM q.tag
      m := { kind := .store, width := e, align := e, perm := .store, writes := true, lanes := at_ e
             data := fun i => storedPair f th.regs.sr (laneOf q.mean i) (laneOf q.var i), ty := f.ty.toNat, sc := true } } ]

def scalarForms (f : Fields) (s : State) : List Form :=
  let th := s.cur.opened
  let w := memWidth f.ty
  let ty := if f.ty = 0 then (3 : BitVec 4) else f.ty
  let wt := memWidth ty
  let order := f.mo.toNat
  let lanes := [(0, scalarOffset f th)]
  let x := scalarData th f.ty f.c
  let resvFits := match th.resv with
    | some r => r.ea == (th.bases.getD f.a.toNat {}).ea (scalarOffset f th) && r.width == w
    | none => false
  let line (kind : AccKind) : MemOp := { kind, width := 1, align := 1, perm := .none, lanes, sc := true, scalar := true }
  [ { i := .sld f, order
      m := { kind := .load, width := w, align := w, lanes, ty := f.ty.toNat, dest := scalarDest f f.ty, pend := scalarPend f
             lc := true, scalar := true } },
    { i := .sst f, order
      m := { kind := .store, width := w, align := w, perm := .store, writes := true, lanes, data := fun _ => x
             ty := f.ty.toNat, sc := true, scalar := true } },
    { i := .satm f, order
      m := { kind := .atomic f.fn.toNat, width := wt, align := wt, perm := .rmw, writes := true, lanes
             data := fun _ => scalarData th ty f.c, expect := fun _ => if f.nd then 0 else scalarData th ty f.d
             ty := ty.toNat, dest := scalarDest f ty, pend := scalarPend f, lc := true, sc := true, scalar := true } },
    { i := .smred f, order
      m := { kind := .reduce f.fn.toNat, width := wt, align := wt, perm := .rmw, writes := true, lanes
             data := fun _ => scalarData th ty f.c, ty := ty.toNat, sc := true, scalar := true } },
    { i := .sfld f, order
      m := { kind := .futLoad, width := 8, align := 8, lanes, ty := f.ty.toNat
             dest := .sFuture (if f.nd then 255 else f.d.toNat), pend := scalarPend f, lc := true, scalar := true } },
    { i := .sfst f, order
      m := { kind := .futFill, width := 8, align := 8, perm := .store, writes := true, lanes
             data := fun _ => (th.regs.srcS f.c).toNat, ty := f.ty.toNat, sc := true, scalar := true } },
    { i := .srsv f, order
      m := { kind := .reserve, width := w, align := w, lanes, ty := f.ty.toNat, dest := scalarDest f f.ty
             pend := scalarPend f, lc := true, scalar := true } },
    { i := .scnd f, order
      m := { kind := .cond, width := w, align := w, perm := .store, writes := resvFits, lanes, data := fun _ => x
             ty := f.ty.toNat, dest := if f.nd then .none else .s f.d.toNat 7, pend := if f.nd then [] else regsOf .sd f.d
             lc := true, sc := true, scalar := true } },
    { i := .cwb f, order, m := line .cwb },
    { i := .cinv f, order, m := line .cinv } ]

def memoryForms (f : Fields) (s : State) : List Form := vectorForms f s ++ scalarForms f s

/-- What an access asks of each address (R249). -/
def needOfForm (m : MemOp) : Need := { perm := m.perm, width := m.width, align := m.align, writes := m.writes }

/-- The base register of the address operand. -/
def base (f : Fields) (s : State) : BaseReg := s.cur.bases.getD f.a.toNat {}

/-- Nothing holds a counted access back (04 R107, 13 R279, 11 R264). -/
def freeToIssue (f : Fields) (s : State) (m : MemOp) : Prop :=
  (m.lc = true → s.cur.lc < 63) ∧ (m.sc = true → s.cur.sc < 63) ∧
  regroupHeld s s.cur.core (f.ax.toNat / 8 % 8) (if (base f s).valid then (base f s).kind else .global) = false ∧
  (m.kind = .cond → ∀ a ∈ s.accs, a.th = s.cur.id → a.kind.resv = false)

/-- The word of the register window at offset o (04 R92). -/
def windowHolds (r : Regs) (o : Nat) (w : Word) : Prop :=
  (∀ n, n < 64 → o = 4 * n → w = r.readS n) ∧
  (∀ n i, n < r.v.length → i < 96 → o = 0x1000 + 384 * n + 4 * i → w = laneOf (r.readV n).lanes i) ∧
  (∀ n i, n < r.m.length → i < 96 → o = 0x20000 + 768 * n + 8 * i → w = laneOf (r.readM n).mean i) ∧
  (∀ n i, n < r.m.length → i < 96 → o = 0x20000 + 768 * n + 8 * i + 4 → w = laneOf (r.readM n).var i)

/-- Stores of words through the register window, in their order (04 R93): s63 discards, s60 to s62 are written under the launched lanes,
and the tag of a vector or moment register becomes RAW. -/
def windowStores (ll : Mask) : List (Nat × Word) → Regs → Regs → Prop
  | [], r, t => t = r
  | (o, x) :: rest, r, t => ∃ u, windowStores ll rest u t ∧
      (o = 252 → u = r) ∧
      (∀ n, n < 63 → o = 4 * n →
        u = { r with s := lset r.s n (if n < 60 then x else x &&& ll.extractLsb' (32 * (n - 60)) 32) }) ∧
      (∀ n i, n < r.v.length → i < 96 → o = 0x1000 + 384 * n + 4 * i →
        u = { r with v := lset r.v n { tag := RAW, lanes := lset (r.readV n).lanes i x } }) ∧
      (∀ n i, n < r.m.length → i < 96 → o = 0x20000 + 768 * n + 8 * i →
        u = { r with m := lset r.m n { r.readM n with tag := RAW, mean := lset (r.readM n).mean i x } }) ∧
      (∀ n i, n < r.m.length → i < 96 → o = 0x20000 + 768 * n + 8 * i + 4 →
        u = { r with m := lset r.m n { r.readM n with tag := RAW, var := lset (r.readM n).var i x } })

/-- The registers behind the bytes of the window that an access touches. -/
def windowTouched (m : MemOp) (lanes : List LaneAcc) : List PReg :=
  let reg (o : Nat) : PReg :=
    if o < 0x1000 then .s (o / 4) else if o < 0x20000 then .v ((o - 0x1000) / 384) else .m ((o - 0x20000) / 768)
  lanes.flatMap fun l => reg l.key :: if m.width = 8 then [reg (l.key + 4)] else []

/-- Entries of the staging buffer for lanes (20 R392). -/
def stagedFor (m : MemOp) (lanes : List LaneAcc) (es : List Staged) : Prop :=
  es.map (fun e => (e.lane, e.ea, e.data, e.expect)) = lanes.map (fun l => (l.lane, l.ea, m.data l.lane, m.expect l.lane)) ∧
  ∀ e ∈ es, e.width = m.width ∧ e.ty = m.ty ∧ e.kind = (if m.kind = .cond then .store else m.kind)

end Sys2Proof.Spec

section Statements

open Sys2Proof Sys2Proof.Machine Sys2Proof.Spec

/-! ### The machine as a whole -/

/-- R474, R445, R270, R360, R432: the machine after reset. Every clock, NW, EVRTS and PLT is 0, every directory and queue is
empty, nothing is listed in memory, no partition runs, the boundaries train and the couplings are DISABLED, and every thread
is a halted system core that the package's reset, the one step on the agenda, will start.
That memory reads as 0, that the system cores are halted and that the reset is a step is the model's (log 1, 4). -/
def Obligations.ResetState : Prop :=
  let s := State.reset
  s.agenda = [.packageReset] ∧ s.mem = [] ∧ s.accs = [] ∧ s.queues = [] ∧
  (∀ c, (s.core c).lclk = 0 ∧ (s.core c).copies = []) ∧
  (∀ h, (s.home h).nw = 0 ∧ (s.home h).evrts = 0 ∧ (s.home h).dir = []) ∧
  (∀ p, (s.part p).plt = 0 ∧ (s.part p).running = false) ∧
  (∀ k, (s.slot k).inUse = false) ∧ s.channels = List.replicate 96 64 ∧
  (∀ b p, (s.link (.boundary b p)).st = .training) ∧ (∀ c p, (s.link (.coupling c p)).st = .disabled) ∧
  (∀ th ∈ s.threads, ∃ k, k < 16 ∧ th.id = .sys k ∧ th.run = .waiting .halted) ∧
  (∀ k, (s.sysCore k).mode = .hypervisor)

/-- R474 and R432: PACKAGE_RESET, whatever state it finds. Clocks, NW, EVRTS and PLT are 0 and every directory is empty; then
either no image is valid, the boot status is 0x19 and every system core stays halted, or all 16 system cores run in
hypervisor mode. The flash and the fuses stay, and so does every byte of memory outside the chip scratchpad of die 0, which
begins at key 2^43 (log 23: the spec does not say what a package reset does to memory). -/
def Obligations.PackageReset : Prop := ∀ (s : State), s.mem.wf = true → ∃ t, exec .packageReset s = .next t ∧
  (∀ c, (t.core c).lclk = 0) ∧ (∀ h, (t.home h).nw = 0 ∧ (t.home h).evrts = 0 ∧ (t.home h).dir = []) ∧
  (∀ p, (t.part p).plt = 0 ∧ (t.part p).running = false) ∧
  ((t.bootStatus = 0x19 ∧ ∀ k, k < 16 → (t.thread? (.sys k)).map (·.run) = some (.waiting .halted)) ∨
    (t.bootStatus = 0 ∧ ∃ pc : DWord, ∀ k, k < 16 →
      (t.thread? (.sys k)).map (fun th => (th.run, th.regs.pc)) = some (.ready, pc) ∧ (t.sysCore k).mode = .hypervisor)) ∧
  t.flashA = s.flashA ∧ t.flashB = s.flashB ∧ t.fuseKey = s.fuseKey ∧ t.fuseVersion = s.fuseVersion ∧
  (∀ a, a < 2 ^ 43 → t.mem.read a = s.mem.read a)

/-- A step. The hardware step of the agenda that comes next is executed. With none, nothing due and the current thread READY
outside a chain, or ISSUING within one, with no trap cart to send again, no pre-emption and no DETSTALL asked of it, and its
core free: the instruction that the bytes at its program counter decode to is executed, on the state that its fetch leaves;
then a core cycle passes. Where the bytes decode to nothing, ILLEGAL is raised at the program counter. -/
def Sys2Proof.Spec.StepRunsDecoded : Prop := ∀ (s : State),
  (∀ i, nextEvent s = some i → step s = exec i { s with agenda := s.agenda.erase i }) ∧
  (nextEvent s = none → dueStep s = none →
    (s.cur.run = .ready ∧ s.cur.chain = none) ∨ (s.cur.run = .issuing ∧ s.cur.chain ≠ none) →
    s.cur.carts = [] → s.cur.preempt = false → s.cur.detstall = false → coreHeld s s.cur = false →
    ∀ key s1, fetchKey s s.cur = (.ok key, s1) →
      (∀ i rest, decode (blockBytes s1 key) = .ok (i, rest) →
        ∀ t, exec i s1 = .next t → step s = .next (pass t)) ∧
      (∀ e, decode (blockBytes s1 key) = .error e → step s = .next (pass (takeTrap s1 s.cur.id ILLEGAL 0 0 0))))

/-- R244 and 16 R318: the order of hardware steps that come together. At one holder of a line a recall goes before a persistent forward,
that before a forwarded merge or read, that before a request for tokens; at a barrier arrivals go in ascending GID and retirements
after them, once their mesh cycle, core cycles 5k and 5k + 1, is over. What has no such order goes as it came. -/
def Sys2Proof.Spec.EventsTogether : Prop := ∀ (s : State),
  let ready := s.agenda.filter fun i => !heldEvent s i
  (nextEvent s = none ↔ ready = []) ∧
  (∀ i, nextEvent s = some i → i ∈ ready ∧ (∀ j rest, ready = j :: rest → contest s j = none → i = j) ∧
    ∀ k m j n, contest s i = some (k, m) → j ∈ ready → contest s j = some (k, n) → m ≤ n) ∧
  (∀ c ln a b, contest s (.holderRecall c ln) = some (.holder c ln, 0) ∧ contest s (.persistentForward c ln) = some (.holder c ln, 1) ∧
    contest s (.forwardedSisRead a ln c) = some (.holder c ln, 2) ∧ contest s (.forwardedWtRead a ln c) = some (.holder c ln, 2) ∧
    contest s (.holderTokenAsk c ln a b) = some (.holder c ln, 3) ∧
    ∀ x l, s.acc? a = some x → x.lanes.find? (fun l => l.lane == b) = some l →
      contest s (.forwardedMerge a b c) = some (.holder c (l.key / 128), 2)) ∧
  (∀ p k g n, g < 2 ^ 32 → contest s (.barrierArrival (.grp p k g) n) = some (.barrier p k n, g) ∧
    contest s (.barrierRetirement (.grp p k g) n) = some (.barrier p k n, 2 ^ 32 + g)) ∧
  (∀ i, heldEvent s i = true ↔ s.t % 5 = 0 ∧ ∃ id n, i = .barrierArrival id n ∨ i = .barrierRetirement id n)

/-- After a turn the clock has gone on one core cycle, and a second one while the core of the turn is throttled (25 R460). -/
def Sys2Proof.Spec.EveryTurnTakesACycle : Prop := ∀ (s : State), (pass s).t = s.t + if (s.core s.cur.core).throttle then 2 else 1

/-- A step runs the hardware step that comes next, or the instruction that the bytes at the program counter decode to; a turn takes one
core cycle. The agenda, the order of the threads and the length of a turn are the model's (log 7, 8, 46, 49). -/
def Obligations.StepRunsDecoded : Prop := Spec.StepRunsDecoded ∧ Spec.EventsTogether ∧ Spec.EveryTurnTakesACycle

/-- R421, R425 and the rest: the machine always goes on. Every trap is delivered to software and every wait ends in a later
step, so each step of each state answers a next state, whatever instruction or hardware step it runs. -/
def Obligations.EveryStepGoesOn : Prop := (∀ s : State, Completes (step s)) ∧ (∀ (i : Instr) (s : State), Completes (exec i s))

/-- Every step keeps memory in its one canonical form: addresses strictly rising, and no byte listed that reads as an unlisted
one does. Equal memories are equal data. -/
def Obligations.MemoryStaysCanonical : Prop := ∀ s t : State, s.mem.wf = true → step s = .next t → t.mem.wf = true

/-- Memory is canonical at reset, and so are the memories of the threads. -/
def Obligations.ResetMemoryCanonical : Prop := State.memWf State.reset

/-! ### Encoding -/

/-- R54, R59, R60, R61: an instruction's bytes decode to it, with every operand at every value that its entry accepts, and
nothing of what follows is read. Every instruction of the opcode map has bytes, 8 or 16 of them. -/
def Obligations.DecodeEncode : Prop := ∀ (i : Instr) (rest : List Byte), i.wellFormed = true → (row i).isSome = true →
  ∃ bs, encode i = some bs ∧ (bs.length = 8 ∨ bs.length = 16) ∧ decode (bs ++ rest) = .ok (i, rest)

/-- R81 steps 2 to 7: what decodes is well-formed, and it decodes from its own bytes and no others: a word has one meaning. -/
def Obligations.DecodedIsWellFormed : Prop := ∀ (bytes rest : List Byte) (i : Instr), decode bytes = .ok (i, rest) →
  i.wellFormed = true ∧ ∀ bs, encode i = some bs → bytes = bs ++ rest

/-- R54, R76 and R78: a word with LEN = 11, or with one of the 75 opcodes that the map leaves unassigned, is no instruction,
whatever its other fields: its slot does not fit or its pad word is not zero (then the step raises ILLEGAL, see
`StepRunsDecoded`), or it decodes to the one step that raises ILLEGAL. -/
def Obligations.UnassignedWords : Prop := ∀ (w rest : List Byte) (s : State), w.length = 8 →
  let op := ofLeBytes w / 4 % 256
  ofLeBytes w % 4 = 3 ∨ (op / 16, op % 16) ∈ unassignedCodes →
    (∃ e, decode (w ++ rest) = .error e) ∨
    (∃ i r, decode (w ++ rest) = .ok (i, r) ∧ i.wellFormed = true ∧ row i = none ∧
      exec i s = .next (takeTrap s s.cur.id ILLEGAL 0 0 0))

/-- R54 to R67, R76: words written out from the encoding of the spec decode to the instructions that they stand for. -/
def Obligations.DecodeWords : Prop :=
  -- `vfadd.ch _, y0, v3`, `vfmax v9, y0, y1`: the words of the example after R75
  decodeTableWord 64 0x00000003F800C200 = some (.vfadd { len := .w64, ch := true, nd := true, a := 248, b := 3 }) ∧
  decodeTableWord 64 0x000000F9F809021C = some (.vfmax { len := .w64, d := 9, a := 248, b := 249 }) ∧
  -- sadd s3, s1, s2: OP 0x20 in bits [9:2], D 3, A 1, B 2
  decodeTableWord 64 (0x20 * 2 ^ 2 + 3 * 2 ^ 16 + 1 * 2 ^ 24 + 2 * 2 ^ 32) =
    some (.sadd { len := .w64, d := 3, a := 1, b := 2 }) ∧
  -- br -16: LEN 01, OP 0x01, IMM32 in bits [95:64]
  decodeTableWord 96 (1 + 0x01 * 2 ^ 2 + 0xFFFFFFF0 * 2 ^ 64) = some (.br { len := .w96, imm := 0xFFFFFFF0 }) ∧
  -- sli x2, 0x123456789ABCDEF0: LEN 10, OP 0x38, D 2, TY n64 = 8, the constant in bits [127:64]
  decodeTableWord 128 (2 + 0x38 * 2 ^ 2 + 2 * 2 ^ 16 + 8 * 2 ^ 48 + 0x123456789ABCDEF0 * 2 ^ 64) =
    some (.sli { len := .w128, d := 2, ty := 8, imm := 0x123456789ABCDEF0 }) ∧
  -- qpop: OP 0xF2, FN 1; dtend: OP 0xF3, FN 3; eret: OP 0xF9
  decodeTableWord 64 (0xF2 * 2 ^ 2 + 1 * 2 ^ 10 + 8 * 2 ^ 16 + 2 * 2 ^ 24) =
    some (.qpop { len := .w64, fn := 1, d := 8, a := 2 }) ∧
  decodeTableWord 64 (0xF3 * 2 ^ 2 + 3 * 2 ^ 10) = some (.dtend { len := .w64, fn := 3 }) ∧
  decodeTableWord 64 (0xF9 * 2 ^ 2) = some (.eret { len := .w64 }) ∧
  -- LEN 11
  decodeTableWord 64 3 = some (.unassignedOpcode 0 3)

/-! ### Issue -/

/-- R79, R80, R81, R69, R70, R73, R103: before any effect, an instruction raises the first of ILLEGAL, PRIV, BOUNDS and LATCH
whose check fails, in this order, and then waits for the pending registers that it names. `s.free` alone may have moved (`srd`
draws a free value). -/
def Obligations.IssueChecks : Prop := ∀ (i : Instr) (f : Fields) (r : Row) (s : State), row i = some r → fieldsOf i = some f →
  let id := s.cur.id
  let regs := (src s)
  let outside := (∃ k, id = .sys k) ∧ r.sys = false
  let misplaced := chainAllows r f s.cur = false
  let denied := r.priv = true ∧ userMode s id = true
  let beyond := rowFits r f s.cur = false
  let unread := rowLatchesFit r f regs = false
  ∃ n, let s1 := { s with free := n }
    (outside ∨ misplaced → exec i s = .next (takeTrap s1 id ILLEGAL 0 0 0)) ∧
    (¬ outside → ¬ misplaced → denied → exec i s = .next (takeTrap s1 id PRIV 0 0 0)) ∧
    (¬ outside → ¬ misplaced → ¬ denied → beyond → exec i s = .next (takeTrap s1 id BOUNDS 0 0 0)) ∧
    (¬ outside → ¬ misplaced → ¬ denied → ¬ beyond → unread → exec i s = .next (takeTrap s1 id LATCH 0 0 0)) ∧
    (¬ outside → ¬ misplaced → ¬ denied → ¬ beyond → ¬ unread → blockedBy r f s.cur ≠ [] →
      exec i s = .next (stall s1 id (.scoreboard (blockedBy r f s.cur)))) ∧
    (¬ outside → ¬ misplaced → ¬ denied → ¬ beyond → ¬ unread → blockedBy r f s.cur = [] → check i f s s.cur = .ok ())

/-- R54, R66, R68, R74, R96 and R97: the frame of every instruction that only writes a destination. The program counter goes on by
the slot; the destination takes the value, s60 to s62 under the launched lanes, s63 never; every other register and every
other part of the machine stays. -/
def Obligations.WrittenFrame : Prop := ∀ (f : Fields) (s : State) (v : Value),
  let t := written s f s.cur.opened v
  let d := f.d.toNat
  let old := s.cur.regs
  let new := t.cur.regs
  let under (n : Nat) (x : Word) : Word := if n < 60 then x else if n < 63 then x &&& s.cur.ll.extractLsb' (32 * (n - 60)) 32 else 0
  t = { s with cur := { s.cur with regs := new, chain := t.cur.chain, run := t.cur.run, replay := t.cur.replay } } ∧
  new.pc = old.pc + BitVec.ofNat 64 f.len.slot ∧ new.sr = old.sr ∧
  (f.nd = true ∨ v = .none → new.s = old.s ∧ new.v = old.v ∧ new.m = old.m) ∧
  (f.nd = false →
    (∀ x, v = .s x → d < 64 → new.readS d = under d x ∧ (∀ n, n ≠ d → new.readS n = old.readS n) ∧
      new.v = old.v ∧ new.m = old.m) ∧
    (∀ x, v = .x x → d + 1 < 64 → new.readS d = under d (x.extractLsb' 0 32) ∧
      new.readS (d + 1) = under (d + 1) (x.extractLsb' 32 32) ∧
      (∀ n, n ≠ d → n ≠ d + 1 → new.readS n = old.readS n) ∧ new.v = old.v ∧ new.m = old.m) ∧
    (∀ z, v = .z z → d + 2 < 64 → new.readS d = under d (z.extractLsb' 0 32) ∧
      new.readS (d + 1) = under (d + 1) (z.extractLsb' 32 32) ∧ new.readS (d + 2) = under (d + 2) (z.extractLsb' 64 32) ∧
      (∀ n, n ≠ d → n ≠ d + 1 → n ≠ d + 2 → new.readS n = old.readS n) ∧ new.v = old.v ∧ new.m = old.m) ∧
    (∀ x, v = .v x → new.readV d = x ∧ (∀ n, n ≠ d → new.readV n = old.readV n) ∧ new.s = old.s ∧ new.m = old.m) ∧
    (∀ x, v = .m x → new.readM d = x ∧ (∀ n, n ≠ d → new.readM n = old.readM n) ∧ new.s = old.s ∧ new.v = old.v))

/-- R70, R72, R74 and R86: what the end of an instruction leaves of its chain. With CH = 0 no chain is open, the latches are
empty and the thread is READY; with CH = 1 the chain is open and the thread ISSUING, and a vector result has entered y0: the
destination's contents after the write, or with ND = 1 the result. -/
def Obligations.ChainsAndLatches : Prop := ∀ (f : Fields) (s : State) (v : Value),
  let t := (written s f s.cur.opened v).cur
  let before := if s.cur.chain = none then [] else s.cur.regs.lats
  (f.ch = false → t.chain = none ∧ t.regs.lats = [] ∧ t.run = .ready ∧ t.replay = none) ∧
  (f.ch = true → t.run = .issuing ∧
    (∃ c, t.chain = some c ∧
      (s.cur.chain = none → c.head = s.cur.regs.pc ∧ c.count = 1 ∧ c.saved = s.cur.regs) ∧
      (∀ c0, s.cur.chain = some c0 → c = { c0 with count := c0.count + 1 })) ∧
    (v = .none → t.regs.lats = before) ∧
    (∀ x, v = .v x → t.regs.lats = (.vector x :: before).take 4) ∧
    (∀ x, v = .s x → (f.nd = true ∨ f.d.toNat < 60) → t.regs.lats = (.scalar x :: before).take 4) ∧
    (∀ x, v = .s x → f.nd = false → 60 ≤ f.d.toNat → f.d.toNat < 64 →
      t.regs.lats = (.scalar (if f.d = 63 then 0 else x &&& s.cur.ll.extractLsb' (32 * (f.d.toNat - 60)) 32) :: before).take 4))

/-! ### Scalar instructions -/

/-- R123: the additive, multiplicative and bitwise forms write their result mod 2^W; `smulh` writes the high half of the exact
2W-bit product, signed or natural by the type. -/
def Sys2Proof.Spec.ScalarArithmetic : Prop := ∀ (f : Fields) (s : State),
  let a := opA f s
  let b := opB f s
  let W := intWidth f.ty
  (Issues (.sadd f) f s → Writes (.sadd f) f s (result f.ty (a + b))) ∧
  (Issues (.ssub f) f s → Writes (.ssub f) f s (result f.ty (a - b))) ∧
  (Issues (.smul f) f s → Writes (.smul f) f s (result f.ty (a * b))) ∧
  (Issues (.smulh f) f s → Writes (.smulh f) f s (result f.ty
    (if isSigned f.ty then (a.signExtend (2 * W) * b.signExtend (2 * W)).extractLsb' W W
      else (a.zeroExtend (2 * W) * b.zeroExtend (2 * W)).extractLsb' W W))) ∧
  (Issues (.sand f) f s → Writes (.sand f) f s (result f.ty (a &&& b))) ∧
  (Issues (.sor f) f s → Writes (.sor f) f s (result f.ty (a ||| b))) ∧
  (Issues (.sxor f) f s → Writes (.sxor f) f s (result f.ty (a ^^^ b))) ∧
  (Issues (.sandn f) f s → Writes (.sandn f) f s (result f.ty (a &&& ~~~b)))

/-- R123: a shift count is always taken mod W; `sshr` is logical and `ssra` arithmetic under every type, `srot` rotates
right; `smin` and `smax` compare the values in the type. -/
def Sys2Proof.Spec.ScalarShiftsAndSelection : Prop := ∀ (f : Fields) (s : State),
  let a := opA f s
  let b := opB f s
  let k := b.toNat % intWidth f.ty
  let less := if isSigned f.ty then a.slt b else a.ult b
  (Issues (.sshl f) f s → Writes (.sshl f) f s (result f.ty (a <<< k))) ∧
  (Issues (.sshr f) f s → Writes (.sshr f) f s (result f.ty (a >>> k))) ∧
  (Issues (.ssra f) f s → Writes (.ssra f) f s (result f.ty (a.sshiftRight k))) ∧
  (Issues (.srot f) f s → Writes (.srot f) f s (result f.ty (a.rotateRight k))) ∧
  (Issues (.smin f) f s → Writes (.smin f) f s (result f.ty (if less then a else b))) ∧
  (Issues (.smax f) f s → Writes (.smax f) f s (result f.ty (if less then b else a)))

/-- R123: the two-operand scalar integer forms. -/
def Obligations.ScalarIntegers : Prop := Spec.ScalarArithmetic ∧ Spec.ScalarShiftsAndSelection

/-- R124: quotient rounded toward zero, remainder with the sign of the dividend, and the two cases fixed outright; neither traps, and
a = q·b + rem mod 2^W always; the word of the rule's example. -/
def Obligations.ScalarDivision : Prop := ∀ (f : Fields) (s : State),
  let a := opA f s
  let b := opB f s
  (Issues (.sdiv f) f s →
    (b = 0 → Writes (.sdiv f) f s (result f.ty (BitVec.allOnes (intWidth f.ty)))) ∧
    (b ≠ 0 → ∃ q : BitVec (intWidth f.ty), Writes (.sdiv f) f s (result f.ty q) ∧
      q = if isSigned f.ty then a.sdiv b else a.udiv b)) ∧
  (Issues (.srem f) f s →
    (b = 0 → Writes (.srem f) f s (result f.ty a)) ∧
    (b ≠ 0 → ∃ r : BitVec (intWidth f.ty), Writes (.srem f) f s (result f.ty r) ∧
      r = if isSigned f.ty then a.srem b else a.umod b)) ∧
  (isSigned f.ty = true → a = BitVec.intMin (intWidth f.ty) → b = BitVec.allOnes (intWidth f.ty) →
    (Issues (.sdiv f) f s → Writes (.sdiv f) f s (result f.ty a)) ∧
    (Issues (.srem f) f s → Writes (.srem f) f s (result f.ty (0 : BitVec (intWidth f.ty))))) ∧
  (Issues (.sdiv f) f s → Issues (.srem f) f s → ∃ q r : BitVec (intWidth f.ty), Writes (.sdiv f) f s (result f.ty q) ∧
    Writes (.srem f) f s (result f.ty r) ∧ a = q * b + r) ∧
  -- sdiv.n32 s3, s4, 7
  decodeTableWord 96 (0x0007000004030091 + 7 * 2 ^ 64) = some (.sdiv { len := .w96, d := 3, a := 4, ty := 7, imm := 7 })

/-- R125: leading zeros, 1 bits, and bit i moved to bit W - 1 - i. -/
def Sys2Proof.Spec.ScalarBitCounts : Prop := ∀ (f : Fields) (s : State),
  let a := opA f s
  let W := intWidth f.ty
  (Issues (.sclz f) f s → ∃ n : Nat, Writes (.sclz f) f s (result f.ty (BitVec.ofNat W n)) ∧
    (a = 0 → n = W) ∧
    (a ≠ 0 → n < W ∧ a.getLsbD (W - 1 - n) = true ∧ ∀ j, W - 1 - n < j → a.getLsbD j = false)) ∧
  (Issues (.spopc f) f s →
    Writes (.spopc f) f s (result f.ty (BitVec.ofNat W ((List.range W).filter fun i => a.getLsbD i).length))) ∧
  (Issues (.sbrev f) f s → ∃ r : BitVec W, Writes (.sbrev f) f s (result f.ty r) ∧
    ∀ i, i < W → r.getLsbD i = a.getLsbD (W - 1 - i))

/-- R126: the field of `sbfx`, extended by the type, and the insertion of `sbfi`, bit by bit; `p` and `n` are the clipped
position and width. An immediate spec with a bit of [31:16] set is ill-formed. -/
def Sys2Proof.Spec.ScalarBitFields : Prop := ∀ (f : Fields) (s : State),
  let a := opA f s
  let c := opC f s
  let W := intWidth f.ty
  let spec := (src s).srcBS f
  let p := min (spec.extractLsb' 0 8).toNat W
  let n := min (spec.extractLsb' 8 8).toNat (W - p)
  (Issues (.sbfx f) f s → ∃ r : BitVec W, Writes (.sbfx f) f s (result f.ty r) ∧ ∀ i, i < W → r.getLsbD i =
    if i < n then a.getLsbD (p + i) else decide (0 < n) && isSigned f.ty && a.getLsbD (p + n - 1)) ∧
  (Issues (.sbfi f) f s → ∃ r : BitVec W, Writes (.sbfi f) f s (result f.ty r) ∧ ∀ i, i < W → r.getLsbD i =
    if p ≤ i ∧ i < p + n then a.getLsbD (i - p) else c.getLsbD i) ∧
  (f.len = .w96 → f.imm32.extractLsb' 16 16 ≠ 0 → (Instr.sbfx f).wellFormed = false ∧ (Instr.sbfi f).wellFormed = false)

/-- R125 and R126: bit counts, bit reversal and bit fields. -/
def Obligations.ScalarBits : Prop := Spec.ScalarBitCounts ∧ Spec.ScalarBitFields

/-- R127 and R128: the selection by s[C], the compare in the type, and the copy with its extension from the low bits. The float
conditions of `scmp` and every other type of `smov` are ill-formed. -/
def Sys2Proof.Spec.ScalarSelectCompareMove : Prop := ∀ (f : Fields) (s : State),
  let a := opA f s
  let b := opB f s
  let x := (src s).srcS f.a
  (Issues (.ssel f) f s →
    Writes (.ssel f) f s (result f.ty (if (src s).srcS f.c ≠ 0 then a else b))) ∧
  (Issues (.scmp f) f s →
    (holds f.mo (readAs f.ty a) (readAs f.ty b) → Writes (.scmp f) f s (.s 1)) ∧
    (¬ holds f.mo (readAs f.ty a) (readAs f.ty b) → Writes (.scmp f) f s (.s 0))) ∧
  (Issues (.smov f) f s →
    (f.ty ∈ [0, 3, 7] → Writes (.smov f) f s (.s x)) ∧
    (f.ty = 1 → Writes (.smov f) f s (.s ((x.extractLsb' 0 8).signExtend 32))) ∧
    (f.ty = 2 → Writes (.smov f) f s (.s ((x.extractLsb' 0 16).signExtend 32))) ∧
    (f.ty = 5 → Writes (.smov f) f s (.s ((x.extractLsb' 0 8).zeroExtend 32))) ∧
    (f.ty = 6 → Writes (.smov f) f s (.s ((x.extractLsb' 0 16).zeroExtend 32))) ∧
    (f.ty ∈ [4, 8] → Writes (.smov f) f s (.x ((src s).readX f.a.toNat)))) ∧
  (5 < f.mo.toNat → (Instr.scmp f).wellFormed = false) ∧ (8 < f.ty.toNat → (Instr.smov f).wellFormed = false)

/-- R129 and R130: the constant of each form of `sli`, the third with a 64-bit type only, and the address of `slea`; a shift above 7 or
another type is ill-formed. -/
def Sys2Proof.Spec.ScalarConstantsAndAddresses : Prop := ∀ (f : Fields) (s : State),
  let W := intWidth f.ty
  let wide {w : Nat} (x : BitVec w) : BitVec W := if isSigned f.ty then x.signExtend W else x.zeroExtend W
  (Issues (.sli f) f s →
    (f.len = .w64 → Writes (.sli f) f s (result f.ty (wide f.ax))) ∧
    (f.len = .w96 → Writes (.sli f) f s (result f.ty (wide f.imm32))) ∧
    (f.len = .w128 → Writes (.sli f) f s (.x f.imm))) ∧
  (Issues (.slea f) f s →
    let index : DWord := if f.ty = 7 then ((src s).srcS f.b).zeroExtend 64 else ((src s).srcS f.b).signExtend 64
    let disp : DWord := if f.len = .w64 then 0 else f.imm32.signExtend 64
    Writes (.slea f) f s (.x ((src s).readX f.a.toNat + index * 2 ^ f.ax.toNat + disp))) ∧
  (7 < f.ax.toNat ∨ f.ty ∉ [0, 3, 7] → (Instr.slea f).wellFormed = false) ∧
  (f.len = .w128 → f.ty ∉ [4, 8] → (Instr.sli f).wellFormed = false)

/-- R127 to R130: selection, compare, copies, constants and addresses. -/
def Obligations.ScalarMovesAndAddresses : Prop := Spec.ScalarSelectCompareMove ∧ Spec.ScalarConstantsAndAddresses

/-- R132, with 02 R34, R36, R38 and R52: `sfadd`, `sfsub`, `sfmul` and `sffma` write the exact result rounded once by the suffix's
mode: NaNs and the invalid operations of infinities give the canonical NaN, an exact zero has the sign of R36, and every other
result is the neighbour that R38 names. -/
def Sys2Proof.Spec.ScalarFloatArithmetic : Prop := ∀ (f : Fields) (s : State),
  let a := exactOf ((src s).srcS f.a)
  let b := exactOf ((src s).srcBS f)
  let c := exactOf ((src s).srcS f.c)
  let m := f.mo.toNat
  let gives (i : Instr) (e : Exact) : Prop := Issues i f s → ∃ x : Word, Writes i f s (.s x) ∧ roundsTo m e x
  gives (.sfadd f) (a.add m b) ∧ gives (.sfsub f) (a.add m b.neg) ∧ gives (.sfmul f) (a.mul b) ∧
  gives (.sffma f) ((a.mul b).add m c)

/-- R133, R134 and 03 R64: `sfmin` and `sfmax` write one operand's own bits by the order that puts -0 below +0; `sfcmp` writes 1 where its
condition holds, else 0; `sfsqrt` writes the correctly rounded root. -/
def Sys2Proof.Spec.ScalarFloatSelection : Prop := ∀ (f : Fields) (s : State),
  let a := (src s).srcS f.a
  let b := (src s).srcBS f
  (Issues (.sfmin f) f s → ∃ x : Word, Writes (.sfmin f) f s (.s x) ∧ minTo a b x) ∧
  (Issues (.sfmax f) f s → ∃ x : Word, Writes (.sfmax f) f s (.s x) ∧ maxTo a b x) ∧
  (Issues (.sfcmp f) f s → ∃ x : Word, Writes (.sfcmp f) f s (.s x) ∧ (x = 0 ∨ x = 1) ∧ (x = 1 ↔ holdsFloat f.mo a b)) ∧
  (Issues (.sfsqrt f) f s → ∃ x : Word, Writes (.sfsqrt f) f s (.s x) ∧ rootsTo (exactOf a) x)

/-- R135, with 02 R34, R39, R48 and R49: `sfcvt` converts from the type of FN to that of TY: a source of 64 bits is an X field, one of
fewer than 32 the low bits of its register; a result of an i type below 32 bits is sign-extended, every other zero-extended. -/
def Sys2Proof.Spec.ScalarFloatConversion : Prop := ∀ (f : Fields) (s : State),
  let r := src s
  let x : BitVec (codeBits f.fn) :=
    if codeBits f.fn = 64 then (r.readX f.a.toNat).setWidth _ else (r.srcS f.a).setWidth _
  Issues (.sfcvt f) f s → ∃ y : BitVec (codeBits f.ty), convertsTo f.fn f.ty f.mo.toNat r.sr.srseed x y ∧
    (codeBits f.ty = 64 → Writes (.sfcvt f) f s (.x (y.setWidth 64))) ∧
    (f.ty = 1 ∨ f.ty = 2 → Writes (.sfcvt f) f s (.s (y.signExtend 32))) ∧
    (codeBits f.ty ≠ 64 → f.ty ≠ 1 → f.ty ≠ 2 → Writes (.sfcvt f) f s (.s (y.setWidth 32)))

/-- R132 to R135: what the scalar float forms write, for every operand. -/
def Obligations.ScalarFloat : Prop := Spec.ScalarFloatArithmetic ∧ Spec.ScalarFloatSelection ∧ Spec.ScalarFloatConversion

/-- R137 to R141: `srd` writes the register that AX names, `swr` writes the fields that are writable and nothing else,
`sgtime` never decreases and reports the unit's SYNC, `srnd` is the keyed hash, `smcnt` counts the triple.
On a system core, GID, CORE, STAGE and TEAMS have no stated value (log 11). -/
def Obligations.SystemRegisters : Prop := ∀ (f : Fields) (s : State),
  let r := src s
  let sr := r.sr
  let a := r.srcS f.a
  let z := r.readZ f.a.toNat
  let gt := (s.core s.cur.core).gt
  let key : DWord := if f.fn = 0 then r.readX f.b.toNat else sr.keyhi ++ sr.keylo
  (Issues (.srd f) f s → ∃ x : Word,
    exec (.srd f) s = .next { written s f s.cur.opened (.s x) with free := s.free + 1 } ∧
    (f.ax = 0x02 → ((∀ e ∈ s.slots, e.2.inUse = true → s.cur.core ∉ e.2.members) → x = 0xFFFFFFFF) ∧
      (∀ e ∈ s.slots, e.2.inUse = true → s.cur.core ∈ e.2.members →
        (∀ o ∈ s.slots, o.2.inUse = true → s.cur.core ∈ o.2.members → o.1 = e.1) → x = BitVec.ofNat 32 e.1)) ∧
    (∀ p k g, s.cur.id = .grp p k g → f.ax = 0x05 → x = (s.part p).reg.lclkper.zeroExtend 32) ∧
    (∀ k, s.cur.id = .sys k → f.ax = 0x05 → x = (s.part (s.sysCore k).psel.toNat).reg.lclkper.zeroExtend 32) ∧
    (f.ax = 0x03 → x = (s.core s.cur.core).lclk.zeroExtend 32) ∧ (f.ax = 0x04 → x = sr.lease.zeroExtend 32) ∧
    (f.ax = 0x06 → x = sr.srseed) ∧ (f.ax = 0x07 → x = sr.mcr.zeroExtend 32) ∧ (f.ax = 0x08 → x = sr.mrho) ∧
    (f.ax = 0x0B → x = BitVec.ofNat 32 s.cur.lc) ∧ (f.ax = 0x0C → x = BitVec.ofNat 32 s.cur.sc) ∧
    (f.ax = 0x0D → x.extractLsb' 0 8 = sr.statusLast ∧ x.getLsbD 8 = sr.statusErr ∧ x.extractLsb' 9 23 = 0) ∧
    (f.ax = 0x0E → x = sr.keylo) ∧ (f.ax = 0x0F → x = sr.keyhi) ∧
    (∀ p k g, s.cur.id = .grp p k g → (f.ax = 0x00 → x = BitVec.ofNat 32 g) ∧ (f.ax = 0x01 → x = BitVec.ofNat 32 s.cur.core) ∧
      (f.ax = 0x09 → x = sr.stage.zeroExtend 32) ∧ (f.ax = 0x0A → x = sr.teams))) ∧
  (Issues (.swr f) f s → ∃ t : SReg,
    Acts (.swr f) f s (fun th => { th with regs := { th.regs with sr := t } }) ∧
    (f.ax = 0x04 → t = { sr with lease := if a.extractLsb' 0 8 = 0 then 1 else a.extractLsb' 0 8 }) ∧
    (f.ax = 0x07 → t = { sr with mcr := a.extractLsb' 0 8 &&& 0xF7 }) ∧
    (f.ax = 0x08 → ∃ rho, t = { sr with mrho := rho } ∧ clampsTo a rho) ∧
    (f.ax = 0x06 → t = { sr with srseed := a }) ∧ (f.ax = 0x0E → t = { sr with keylo := a }) ∧
    (f.ax = 0x0F → t = { sr with keyhi := a }) ∧
    (f.ax = 0x0D → t = { sr with statusLast := a.extractLsb' 0 8, statusErr := sr.statusErr && !a.getLsbD 8 })) ∧
  (Issues (.sgtime f) f s → ∃ v : DWord,
    exec (.sgtime f) s = .next (written s f { s.cur.opened with
      lastTime := v, regs := { r with sr := { sr with
        statusLast := if gt.sync then 0 else 3, statusErr := sr.statusErr || !gt.sync } } } (.x v)) ∧
    s.cur.lastTime.toNat ≤ v.toNat ∧ (gt.now s).toNat ≤ v.toNat ∧ (v = s.cur.lastTime ∨ v = gt.now s)) ∧
  (Issues (.srnd f) f s →
    Writes (.srnd f) f s (.s (mix32 (mix32 (a ^^^ key.extractLsb' 0 32) ^^^ key.extractLsb' 32 32)))) ∧
  (Issues (.smcnt f) f s → ∃ n : Nat, Writes (.smcnt f) f s (.s (BitVec.ofNat 32 n)) ∧
    (f.fn = 0 → n = ((List.range 96).filter fun i => z.getLsbD i).length) ∧
    (f.fn = 1 → n ≤ 96 ∧ (∀ j, j < n → z.getLsbD j = false) ∧ (n < 96 → z.getLsbD n = true)))


/-! ### Control instructions -/

/-- R112, R114 and R64: `br`, `bz`, `bnz`, `bc`, `bmz` and `bmnz` go to PC + SignExt(IMM32) when taken and to PC + 16 when not.
`bc` compares in its type; under f32 by the values, the two zeros equal, a NaN unordered with everything. -/
def Sys2Proof.Spec.Branches : Prop := ∀ (f : Fields) (s : State),
  let r := src s
  let a := r.srcS f.a
  let b := r.srcS f.b
  let goes (i : Instr) (taken : Prop) : Prop := Issues i f s →
    (taken → Jumps i f s s.cur.opened .none (r.pc + f.imm32.signExtend 64)) ∧
    (¬ taken → Jumps i f s s.cur.opened .none (r.pc + 16))
  goes (.br f) True ∧ goes (.bz f) (a = 0) ∧ goes (.bnz f) (a ≠ 0) ∧
  goes (.bmz f) (r.readZ f.a.toNat = 0) ∧ goes (.bmnz f) (r.readZ f.a.toNat ≠ 0) ∧
  (f.ty ≠ 10 → goes (.bc f) (holds f.mo (readAs f.ty a) (readAs f.ty b))) ∧
  (f.ty = 10 → goes (.bc f) (holdsFloat f.mo a b))

/-- R58 and R113: `call`, `ret` and `jmpi` read their target, raise ALIGN where its bits [2:0] are not 0, and otherwise go there;
`call` writes the address of the instruction after it to x[D]. -/
def Sys2Proof.Spec.CallsAndJumps : Prop := ∀ (f : Fields) (s : State),
  let r := src s
  let x := r.readX f.a.toNat
  let rel : DWord := f.imm32.signExtend 64
  let goes (i : Instr) (target : DWord) (link : Value) : Prop := Issues i f s →
    (target.extractLsb' 0 3 = 0 → Jumps i f s s.cur.opened link target) ∧
    (target.extractLsb' 0 3 ≠ 0 → Raises i s ALIGN 2)
  goes (.call f) (r.pc + rel) (.x (r.pc + 16)) ∧ goes (.callReg f) x (.x (r.pc + 8)) ∧
  goes (.ret f) x .none ∧
  (f.len = .w64 → goes (.jmpi f) x .none) ∧ (f.len = .w96 → goes (.jmpi f) (x + rel) .none)

/-- R112 to R114: branches, calls and jumps. -/
def Obligations.BranchesAndCalls : Prop := Spec.Branches ∧ Spec.CallsAndJumps

/-- R96, R99 and R100: the structured conditionals. The head of the list is the top of the mask stack; 32 tokens are its depth. -/
def Sys2Proof.Spec.MaskConditionals : Prop := ∀ (f : Fields) (s : State),
  let th := s.cur.opened
  let m := th.regs.mask
  let z := th.regs.readZ f.a.toNat &&& th.ll
  let full := 32 ≤ th.stack.length
  (Issues (.mif f) f s →
    (full → Raises (.mif f) s MASKSTACK 0) ∧
    (¬ full → Acts (.mif f) f s fun th =>
      th.withMask (m &&& z) ({ kind := .iff, outer := m, alt := m &&& ~~~z } :: th.stack))) ∧
  (Issues (.melse f) f s →
    (∀ t ts, th.stack = t :: ts → t.kind = .iff → Acts (.melse f) f s fun th =>
      th.withMask t.alt ({ t with kind := .els, alt := 0 } :: ts)) ∧
    (th.stack = [] ∨ (∃ t ts, th.stack = t :: ts ∧ t.kind ≠ .iff) → Raises (.melse f) s MASKSTACK 0)) ∧
  (Issues (.mpush f) f s →
    (full → Raises (.mpush f) s MASKSTACK 0) ∧
    (¬ full → Acts (.mpush f) f s fun th => th.withMask z ({ kind := .save, outer := m } :: th.stack))) ∧
  (Issues (.mpop f) f s →
    (∀ t ts, th.stack = t :: ts → t.kind = .save → Acts (.mpop f) f s fun th => th.withMask t.outer ts) ∧
    (th.stack = [] ∨ (∃ t ts, th.stack = t :: ts ∧ t.kind ≠ .save) → Raises (.mpop f) s MASKSTACK 0))

/-- R99, R100 and R115: the loops. `mbrk` and `mcont` take their lanes from the mask and from every token above the nearest LOOP
token, which `mcont` gives them to; `mend` goes back to the head of a LOOP token while lanes are left, and otherwise pops. -/
def Sys2Proof.Spec.MaskLoops : Prop := ∀ (f : Fields) (s : State),
  let th := s.cur.opened
  let m := th.regs.mask
  let b := m &&& th.regs.readZ f.a.toNat
  let less (t : Token) : Token := { t with outer := t.outer &&& ~~~b, alt := t.alt &&& ~~~b }
  (Issues (.mloop f) f s →
    (32 ≤ th.stack.length → Raises (.mloop f) s MASKSTACK 0) ∧
    (th.stack.length < 32 → Acts (.mloop f) f s fun th =>
      { th with stack := { kind := .loop, outer := m, head := th.regs.pc + 8 } :: th.stack })) ∧
  (∀ above t below, th.stack = above ++ t :: below → (∀ x ∈ above, x.kind ≠ .loop) → t.kind = .loop →
    (Issues (.mbrk f) f s → Acts (.mbrk f) f s fun th => th.withMask (m &&& ~~~b) (above.map less ++ t :: below)) ∧
    (Issues (.mcont f) f s → Acts (.mcont f) f s fun th =>
      th.withMask (m &&& ~~~b) (above.map less ++ { t with cont := t.cont ||| b } :: below))) ∧
  ((∀ t ∈ th.stack, t.kind ≠ .loop) →
    (Issues (.mbrk f) f s → Raises (.mbrk f) s MASKSTACK 0) ∧ (Issues (.mcont f) f s → Raises (.mcont f) s MASKSTACK 0)) ∧
  (Issues (.mend f) f s →
    (th.stack = [] → Raises (.mend f) s MASKSTACK 0) ∧
    (∀ t ts, th.stack = t :: ts →
      let next := th.regs.pc + 8
      (t.kind = .save → Raises (.mend f) s MASKSTACK 0) ∧
      (t.kind = .iff ∨ t.kind = .els → Jumps (.mend f) f s (th.withMask t.outer ts) .none next) ∧
      (t.kind = .loop → m ||| t.cont ≠ 0 →
        Jumps (.mend f) f s (th.withMask (m ||| t.cont) ({ t with cont := 0 } :: ts)) .none t.head) ∧
      (t.kind = .loop → m ||| t.cont = 0 → Jumps (.mend f) f s (th.withMask t.outer ts) .none next)))

/-- R99, R100 and R115: the mask instructions. -/
def Obligations.MaskStack : Prop := Spec.MaskConditionals ∧ Spec.MaskLoops

/-- R111, R116, R117 and R118: `nop` and `yield` only go on; `waitc` goes on when the selected counters are at or below n, else it
waits and is tried again; `sleep` goes on and waits for its count of core cycles, not at all for 0; `done` begins the drain,
and with a block of a deterministic kernel open it raises DETSTALL. -/
def Sys2Proof.Spec.WaitsAndRetirement : Prop := ∀ (f : Fields) (s : State),
  let th := s.cur.opened
  let n := f.ax.toNat
  let below := (f.fn = 0 ∧ s.cur.lc ≤ n) ∨ (f.fn = 1 ∧ s.cur.sc ≤ n) ∨ (f.fn = 2 ∧ s.cur.lc ≤ n ∧ s.cur.sc ≤ n)
  let count := if f.len = .w64 then th.regs.srcS f.a else f.imm32
  (Issues (.nop f) f s → Writes (.nop f) f s .none) ∧
  (Issues (.yield f) f s → Writes (.yield f) f s .none) ∧
  (Issues (.waitc f) f s → (below → Writes (.waitc f) f s .none) ∧
    (¬ below → exec (.waitc f) s = .next (stall s s.cur.id (.waitc f.fn.toNat n)))) ∧
  (Issues (.sleep f) f s → (count = 0 → Writes (.sleep f) f s .none) ∧
    (count ≠ 0 → ∃ t, exec (.sleep f) s = .next t ∧
      t = { written s f th .none with cur := { (written s f th .none).cur with run := .waiting (.sleep (s.t + count.toNat)) } })) ∧
  (Issues (.done f) f s → (s.cur.block = none → exec (.done f) s = .next (stall s s.cur.id .drain)) ∧
    (s.cur.block ≠ none → Raises (.done f) s DETSTALL 5))

/-- R119: `trap` raises SWTRAP with its code in the detail, `brkpt` raises BREAK; both resume at the next instruction. -/
def Sys2Proof.Spec.SoftwareTraps : Prop := ∀ (f : Fields) (s : State),
  (Issues (.trap f) f s → Raises (.trap f) s SWTRAP f.ax.toNat) ∧ (Issues (.brkpt f) f s → Raises (.brkpt f) s BREAK 0)

/-- R111, R116 to R119: waits, retirement and the two software traps. -/
def Obligations.WaitsAndTraps : Prop := Spec.WaitsAndRetirement ∧ Spec.SoftwareTraps

/-- R75, R82, R86, R264, R425, R426 and R427: a trap of a group. The group waits on "trap" with its latches empty and no chain
open, its reservation broken; its registers are those of the chain's head, and its program counter too, or past the
instruction for SWTRAP and BREAK. The trap is outstanding under the group's sequence number, which moves on by one mod 16.
Nothing else has changed when the trap cart, with the fields of R426, is sent. -/
def Sys2Proof.Spec.GroupTrap : Prop := ∀ (s : State) (p k g code detail daddr : Nat) (lanes : Mask) (th : Thread),
  let id := ThreadId.grp p k g
  s.thread? id = some th → code < 16 → detail < 256 → th.trapSeq < 16 → g < 2 ^ 14 → k < 64 →
  let undone := (th.chain.map (·.saved)).getD th.regs
  ∃ (s1 : State) (th1 : Thread) (x : BitVec 256),
    takeTrap s id code detail daddr lanes = sendTrapCart s1 id ((List.range 8).map fun n => x.extractLsb' (32 * n) 32) ∧
    s1.thread? id = some th1 ∧ th1.run = .waiting .trap ∧ th1.chain = none ∧ th1.resv = none ∧
    th1.replay = (if code = SWTRAP ∨ code = BREAK then none else th.replay) ∧
    th1.regs = { undone with
      lats := [], pc := if code = SWTRAP ∨ code = BREAK then th.regs.pc + 8 else undone.pc } ∧
    th1.trapSeq = (th.trapSeq + 1) % 16 ∧ (∃ r ∈ th1.traps, r.seq = th.trapSeq ∧ r.object = .group) ∧
    th1.bases = th.bases ∧ th1.stack = th.stack ∧ th1.lc = th.lc ∧ th1.sc = th.sc ∧
    s1.mem = s.mem ∧ s1.queues = s.queues ∧ s1.cores = s.cores ∧ s1.parts = s.parts ∧ s1.t = s.t ∧
    x.extractLsb' 0 4 = 2 ∧ (th.chain = none → x.extractLsb' 4 4 = 0) ∧ x.extractLsb' 8 2 = 3 ∧
    (x.extractLsb' 10 4).toNat = code ∧ x.extractLsb' 14 2 = 0 ∧ (x.extractLsb' 16 8).toNat = detail ∧
    (x.extractLsb' 24 14).toNat = g ∧ (x.extractLsb' 38 6).toNat = k ∧ (x.extractLsb' 44 4).toNat = th.trapSeq ∧
    x.extractLsb' 48 52 = th.regs.pc.extractLsb' 0 52 ∧ (x.extractLsb' 100 52).toNat = daddr % 2 ^ 52 ∧
    x.extractLsb' 152 8 = 0 ∧ x.extractLsb' 160 96 = lanes

/-- R425: the cart of a trap goes to level 3 of TRAPQ of the group's context, the rights check skipped; a push that is refused is
kept with the group and tried again 4096 mesh cycles, 5120 core cycles, later. -/
def Sys2Proof.Spec.TrapCartDelivery : Prop := ∀ (s : State) (p k g : Nat) (ws : List Word) (th : Thread),
  let id := ThreadId.grp p k g
  s.thread? id = some th →
  let kept := s.setThread { th with carts := th.carts ++ [(ws, s.t + 5120)] }
  let handle := (tget {} th.ctx (s.part p).ctxs).trapq
  (∀ e, findQueue s p handle true = .error e → sendTrapCart s id ws = kept) ∧
  (∀ q, findQueue s p handle true = .ok q →
    ((pushCart s q ws 3).1 = 0 → sendTrapCart s id ws = (pushCart s q ws 3).2) ∧
    ((pushCart s q ws 3).1 ≠ 0 → sendTrapCart s id ws = kept))

/-- R75, R108, R109, R264 and R426: a group parks on PAGE. It is PARKED with the unfinished lanes, or with those that its replay owed where
none are named; its registers are those of the chain's head, its latches empty and its reservation broken; the trap is outstanding,
and its cart names PAGE, the instruction's address, the faulting address and the unfinished lanes. -/
def Sys2Proof.Spec.Parking : Prop := ∀ (s : State) (p k g detail daddr : Nat) (u : Mask) (th : Thread),
  let id := ThreadId.grp p k g
  s.thread? id = some th → detail < 256 → th.trapSeq < 16 → g < 2 ^ 14 → k < 64 →
  let undone := (th.chain.map (·.saved)).getD th.regs
  ∃ (s1 : State) (th1 : Thread) (x : BitVec 256),
    takePark s id detail daddr u = sendTrapCart s1 id ((List.range 8).map fun n => x.extractLsb' (32 * n) 32) ∧
    s1.thread? id = some th1 ∧ th1.run = .parked ∧ th1.chain = none ∧ th1.resv = none ∧ th1.replay = none ∧
    (u ≠ 0 → th1.u = u) ∧ (u = 0 → th1.u = th.replay.getD 0) ∧ th1.regs = { undone with lats := [] } ∧
    th1.trapSeq = (th.trapSeq + 1) % 16 ∧ (∃ r ∈ th1.traps, r.seq = th.trapSeq ∧ r.object = .parked) ∧
    th1.lc = th.lc ∧ th1.sc = th.sc ∧ s1.mem = s.mem ∧ s1.queues = s.queues ∧ s1.cores = s.cores ∧ s1.accs = s.accs ∧
    (x.extractLsb' 10 4).toNat = PAGE ∧ (x.extractLsb' 16 8).toNat = detail ∧ (x.extractLsb' 24 14).toNat = g ∧
    x.extractLsb' 48 52 = th.regs.pc.extractLsb' 0 52 ∧ (x.extractLsb' 100 52).toNat = daddr % 2 ^ 52 ∧ x.extractLsb' 160 96 = u

/-- R75, R82, R86, R108, R425 to R427: a trap of a group, its parking on PAGE, and the delivery of its cart. -/
def Obligations.GroupTrap : Prop := Spec.GroupTrap ∧ Spec.Parking ∧ Spec.TrapCartDelivery

/-- R421, R424 and R264: a trap on system core k. The bank of the mode that handles it takes the address of the instruction (of
the one after it for SWTRAP and BREAK), the code, the detail, the address and the mode left; the other bank stays; the mode
is the handler's and the program counter its vector. A trap in user mode goes to the supervisor; one in supervisor mode to
the supervisor, but PRIV to the hypervisor; one in hypervisor mode to the hypervisor. A PAGE parks nothing: it is such a trap. -/
def Sys2Proof.Spec.SystemCoreTrap : Prop := ∀ (s : State) (k code detail daddr : Nat) (lanes : Mask) (th : Thread),
  s.thread? (.sys k) = some th →
  let c := s.sysCore k
  let t := takeTrap s (.sys k) code detail daddr lanes
  let c1 := t.sysCore k
  let bank : Bank := {
    epc := if code = SWTRAP ∨ code = BREAK then th.regs.pc + 8 else th.regs.pc, detail := BitVec.ofNat 8 detail,
    code := BitVec.ofNat 8 code, eaddr := BitVec.ofNat 64 daddr, pm := c.mode }
  let toHyp := c.mode = .hypervisor ∨ (c.mode = .supervisor ∧ code = PRIV)
  (toHyp → c1 = { c with mode := .hypervisor, hyp := bank }) ∧ (¬ toHyp → c1 = { c with mode := .supervisor, sup := bank }) ∧
  ∃ th1, t.thread? (.sys k) = some th1 ∧ th1.regs.pc = (if toHyp then c.hvec else c.svec) ∧ th1.run = .ready ∧
    th1.chain = none ∧ th1.resv = none ∧ th1.regs.lats = [] ∧ th1.regs.s = ((th.chain.map (·.saved)).getD th.regs).s ∧
    takePark s (.sys k) detail daddr lanes = takeTrap s (.sys k) PAGE detail daddr 0


/-! ### Vector instructions -/

/-- R142, R143 and R145: the element-wise integer forms, element by element of each active lane, mod 2^w. -/
def Sys2Proof.Spec.VectorArithmetic : Prop := ∀ (f : Fields) (s : State),
  let w := intWidth f.ty
  let t := tagOfInt f.ty
  let a := (src s).srcV f f.a
  let b := (src s).srcBV f w t
  let c := (src s).srcV f f.c
  let each (i : Instr) (op : BitVec w → BitVec w → BitVec w) : Prop :=
    VWrites i f s (fits t a.tag ∧ fits t b.tag) t fun n x =>
      ∀ j, j < 32 / w → elem w x j = op (elem w (laneOf a.lanes n) j) (elem w (laneOf b.lanes n) j)
  each (.vadd f) (· + ·) ∧ each (.vsub f) (· - ·) ∧ each (.vmul f) (· * ·) ∧
  each (.vmulh f) (fun x y => if isSigned f.ty then (x.signExtend (2 * w) * y.signExtend (2 * w)).extractLsb' w w
    else (x.zeroExtend (2 * w) * y.zeroExtend (2 * w)).extractLsb' w w) ∧
  each (.vand f) (· &&& ·) ∧ each (.vor f) (· ||| ·) ∧ each (.vxor f) (· ^^^ ·) ∧ each (.vandn f) (fun x y => x &&& ~~~y) ∧
  VWrites (.vmad f) f s (fits t a.tag ∧ fits t b.tag ∧ fits t c.tag) t fun n x => ∀ j, j < 32 / w →
    elem w x j = elem w (laneOf a.lanes n) j * elem w (laneOf b.lanes n) j + elem w (laneOf c.lanes n) j

/-- R145: shifts by b mod w, selections, absolute values and bit counts, element by element. -/
def Sys2Proof.Spec.VectorShiftsAndCounts : Prop := ∀ (f : Fields) (s : State),
  let w := intWidth f.ty
  let t := tagOfInt f.ty
  let a := (src s).srcV f f.a
  let b := (src s).srcBV f w t
  let each (i : Instr) (op : BitVec w → BitVec w → BitVec w) : Prop :=
    VWrites i f s (fits t a.tag ∧ fits t b.tag) t fun n x =>
      ∀ j, j < 32 / w → elem w x j = op (elem w (laneOf a.lanes n) j) (elem w (laneOf b.lanes n) j)
  let each1 (i : Instr) (p : BitVec w → BitVec w → Prop) : Prop :=
    VWrites i f s (fits t a.tag) t fun n x => ∀ j, j < 32 / w → p (elem w (laneOf a.lanes n) j) (elem w x j)
  each (.vshl f) (fun x y => x <<< (y.toNat % w)) ∧ each (.vshr f) (fun x y => x >>> (y.toNat % w)) ∧
  each (.vsra f) (fun x y => x.sshiftRight (y.toNat % w)) ∧
  each (.vmin f) (fun x y => if lessIn f.ty x y then x else y) ∧ each (.vmax f) (fun x y => if lessIn f.ty x y then y else x) ∧
  each1 (.vabs f) (fun x r => r = x.abs) ∧
  each1 (.vclz f) (fun x r => (x = 0 → r.toNat = w) ∧
    (x ≠ 0 → r.toNat < w ∧ x.getLsbD (w - 1 - r.toNat) = true ∧ ∀ k, w - 1 - r.toNat < k → x.getLsbD k = false)) ∧
  each1 (.vpopc f) (fun x r => r.toNat = ((List.range w).filter fun k => x.getLsbD k).length)

/-- R145: the element-wise integer forms. -/
def Obligations.VectorIntegers : Prop := Spec.VectorArithmetic ∧ Spec.VectorShiftsAndCounts

/-- R146 to R150: fields, selection by a triple, compares into a triple, and the forms that copy into lanes. -/
def Sys2Proof.Spec.VectorSelectCompareCopy : Prop := ∀ (f : Fields) (s : State),
  let r := src s
  let t := tagOfInt f.ty
  let a := r.srcV f f.a
  let b := r.srcV f f.b
  let bi := r.srcBV f 32 t
  let spec := r.srcBV f 32 I32
  let z := r.readZ f.c.toNat
  let integer (g : Tag) : Prop := g = RAW ∨ g = I32 ∨ g = N32
  VWrites (.vbfx f) f s (integer a.tag ∧ integer spec.tag) t (fun n x =>
    let p := min ((laneOf spec.lanes n).extractLsb' 0 8).toNat 32
    let k := min ((laneOf spec.lanes n).extractLsb' 8 8).toNat (32 - p)
    ∀ i, i < 32 → x.getLsbD i = if i < k then (laneOf a.lanes n).getLsbD (p + i)
      else decide (0 < k) && isSigned f.ty && (laneOf a.lanes n).getLsbD (p + k - 1)) ∧
  VWrites (.vsel f) f s (someFormat a.tag ∧ someFormat b.tag) (if a.tag = RAW then b.tag else a.tag) (fun n x =>
    x = if z.getLsbD n then laneOf a.lanes n else laneOf b.lanes n) ∧
  (Issues (.vcmp f) f s → (fits t a.tag ∧ fits t bi.tag → ∃ m : Mask, Writes (.vcmp f) f s (.z m) ∧ ∀ i, i < 96 →
      (m.getLsbD i = true ↔ r.mask.getLsbD i = true ∧
        holds f.mo (readAs f.ty (laneOf a.lanes i)) (readAs f.ty (laneOf bi.lanes i)))) ∧
    (¬ (fits t a.tag ∧ fits t bi.tag) → Raises (.vcmp f) s TAG 0)) ∧
  VWrites (.vmov f) f s (someFormat a.tag)
    (if f.ty = 0 then a.tag else if f.ty = 9 then BF16X2 else if f.ty = 10 then F32 else if f.ty = 11 then Q4X8 else t)
    (fun n x => x = laneOf a.lanes n) ∧
  VWrites (.vlid f) f s True N32 (fun n x => x = BitVec.ofNat 32 n + r.srcS f.a) ∧
  VWrites (.vbc f) f s True
    (if f.ty = 0 then RAW else if f.ty = 9 then BF16X2 else if f.ty = 10 then F32 else if f.ty = 11 then Q4X8 else t)
    (fun _ x => x = r.srcS f.a)

/-- R151, R152, R153 and R160: single lanes, whatever the mask; permutations, whose sources are the launched lanes; keyed random
words. -/
def Sys2Proof.Spec.VectorLanes : Prop := ∀ (f : Fields) (s : State),
  let r := src s
  let a := r.srcV f f.a
  let b := r.srcV f f.b
  let d := r.destV f
  let l := (r.srcBS f).toNat
  let key : DWord := if f.fn = 0 then r.readX f.b.toNat else r.sr.keyhi ++ r.sr.keylo
  (Issues (.vget f) f s → (someFormat a.tag → Writes (.vget f) f s (.s (if l < 96 then laneOf a.lanes l else 0))) ∧
    (¬ someFormat a.tag → Raises (.vget f) s TAG 0)) ∧
  (Issues (.vput f) f s → (someFormat d.tag →
      (l < 96 → ∃ x : VReg, Writes (.vput f) f s (.v x) ∧ x.tag = d.tag ∧ laneOf x.lanes l = r.srcS f.a ∧
        ∀ i, i ≠ l → laneOf x.lanes i = laneOf d.lanes i) ∧
      (96 ≤ l → Writes (.vput f) f s .none)) ∧
    (¬ someFormat d.tag → Raises (.vput f) s TAG 0)) ∧
  VWrites (.vperm f) f s (someFormat a.tag ∧ (b.tag = RAW ∨ b.tag = I32 ∨ b.tag = N32)) a.tag (fun n x =>
    x = permuted s a (laneOf b.lanes n).toNat) ∧
  VWrites (.vshuf f) f s (someFormat a.tag) a.tag (fun n x =>
    (f.fn = 0 → x = permuted s a ((n + l) % 96)) ∧ (f.fn = 1 → x = if l ≤ n then permuted s a (n - l) else 0) ∧
    (f.fn = 2 → x = permuted s a (n + l)) ∧ (f.fn = 3 → x = permuted s a (n ^^^ l))) ∧
  VWrites (.vrnd f) f s (someFormat a.tag) N32 (fun n x =>
    x = mix32 (mix32 (laneOf a.lanes n ^^^ key.extractLsb' 0 32) ^^^ key.extractLsb' 32 32))

/-- R146 to R153 and R160: fields, selection, compares, copies, single lanes, permutations and random words. -/
def Obligations.VectorSelectionAndLanes : Prop := Spec.VectorSelectCompareCopy ∧ Spec.VectorLanes

/-- R154, R155 and R156, with 02 R46 and R47: under an integer type `vred` writes the active lanes combined, the identity where none
is active, and `vscan` writes to each active lane what the lanes up to it, or in the exclusive form those before it, combine
to. Under `.f32` an inactive lane stands as the identity; `vred` combines by the fixed tree and `vscan` in lane order, each step one rounded
addition, or a minimum or maximum. -/
def Obligations.VectorReductions : Prop := ∀ (f : Fields) (s : State),
  let a := (src s).srcV f f.a
  let t := if f.ty = 10 then F32 else tagOfInt f.ty
  let fn := f.fn.toNat % 8
  let combine (n : Nat) : Word := (activeBelow s n).foldl (fun x i => reduceOp fn f.ty x (laneOf a.lanes i)) (reduceUnit fn f.ty)
  let unit : Word := if fn = 4 then 0x7F800000 else if fn = 5 then 0xFF800000 else 0x80000000
  let lane (i : Nat) : Word := if (src s).mask.getLsbD i then laneOf a.lanes i else unit
  let law (op : Word → Word → Word) : Prop := ∀ x y, (fn = 0 → roundsTo 0 ((exactOf x).add 0 (exactOf y)) (op x y)) ∧
    (fn = 4 → minTo x y (op x y)) ∧ (fn = 5 → maxTo x y (op x y))
  (Issues (.vred f) f s → (fits t a.tag → ∃ x : Word, Writes (.vred f) f s (.s x) ∧ (f.ty ≠ 10 → x = combine 96) ∧
      (f.ty = 10 → ∀ op, law op → x = op (op (treeOf op lane 0 5) (treeOf op lane 32 5)) (treeOf op lane 64 5))) ∧
    (¬ fits t a.tag → Raises (.vred f) s TAG 0)) ∧
  VWrites (.vscan f) f s (fits t a.tag) t (fun n x =>
    let upTo := if 8 ≤ f.fn.toNat then n else n + 1
    (f.ty ≠ 10 → x = combine upTo) ∧
    (f.ty = 10 → ∀ op, law op → x = (List.range upTo).foldl (fun acc i => op acc (lane i)) unit))

/-- R157, R158 and R159: bins that count and saturate, bins merged over the active lanes into lanes whatever the mask, and
compare-exchange between partner lanes. -/
def Obligations.VectorBinsAndExchange : Prop := ∀ (f : Fields) (s : State),
  let r := src s
  let a := r.srcV f f.a
  let d := r.destV f
  let w := if f.ty = 6 then 16 else 8
  let binTag := if f.ty = 6 then N16X2 else N8X4
  let base := r.srcBS f
  let t := tagOfInt f.ty
  VWrites (.vhist f) f s ((a.tag = RAW ∨ a.tag = I32 ∨ a.tag = N32) ∧ fits binTag d.tag) binTag (fun n x =>
    let j := (laneOf a.lanes n - base).toNat
    ∀ k, k < 32 / w → (elem w x k).toNat =
      if k = j then min ((elem w (laneOf d.lanes n) k).toNat + 1) (2 ^ w - 1) else (elem w (laneOf d.lanes n) k).toNat) ∧
  (Issues (.vbinm f) f s → (fits binTag a.tag ∧ fits N32 d.tag → ∃ x : VReg, Writes (.vbinm f) f s (.v x) ∧ x.tag = N32 ∧
      ∀ i, i < 96 → laneOf x.lanes i =
        if base.toNat ≤ i ∧ i < base.toNat + 32 / w then laneOf d.lanes i + BitVec.ofNat 32
          (((activeBelow s 96).map fun n => (elem w (laneOf a.lanes n) (i - base.toNat)).toNat).sum)
        else laneOf d.lanes i) ∧
    (¬ (fits binTag a.tag ∧ fits N32 d.tag) → Raises (.vbinm f) s TAG 0)) ∧
  VWrites (.vcx f) f s (fits t a.tag) t (fun n x =>
    let p := n ^^^ base.toNat
    let own := laneOf a.lanes n
    let other := laneOf a.lanes p
    let up := f.fn = 0 ∨ (f.fn = 2 ∧ n &&& (r.srcS f.c).toNat = 0)
    x = if 96 ≤ p ∨ r.mask.getLsbD p = false ∨ p = n then own
      else if (n < p ↔ up) then (if lessIn f.ty other own then other else own)
      else (if lessIn f.ty own other then other else own))


/-! ### Vector floating point -/

/-- R165, R166, R168, with 02 R34, R36, R38 and R52: in f32 and, where they have it, in bf16 pairs, `vfadd`, `vfsub`, `vfmul` and
`vffma` write the exact result of each element rounded once by the suffix's mode, and `vfdiv` the quotient rounded to nearest;
`vfmin` and `vfmax` write an operand's own bits, `vfabs` and `vfneg` touch the sign alone. -/
def Sys2Proof.Spec.VectorFloatArithmetic : Prop := ∀ (f : Fields) (s : State),
  let w := if f.ty = 9 then 16 else 32
  let t := if f.ty = 9 then BF16X2 else F32
  let m := f.mo.toNat
  let a := (src s).srcV f f.a
  let b := (src s).srcBV f w t
  let c := (src s).srcV f f.c
  let each (i : Instr) (p : BitVec w → BitVec w → BitVec w → Prop) : Prop :=
    VWrites i f s (fits t a.tag ∧ fits t b.tag) t fun n x =>
      ∀ j, j < 32 / w → p (elem w (laneOf a.lanes n) j) (elem w (laneOf b.lanes n) j) (elem w x j)
  let each1 (i : Instr) (p : BitVec w → BitVec w → Prop) : Prop :=
    VWrites i f s (fits t a.tag) t fun n x => ∀ j, j < 32 / w → p (elem w (laneOf a.lanes n) j) (elem w x j)
  let nan := canonicalIn w
  each (.vfadd f) (fun x y r => roundsTo m ((exactOf x).add m (exactOf y)) r) ∧
  each (.vfsub f) (fun x y r => roundsTo m ((exactOf x).add m (exactOf y).neg) r) ∧
  each (.vfmul f) (fun x y r => roundsTo m ((exactOf x).mul (exactOf y)) r) ∧
  VWrites (.vffma f) f s (fits t a.tag ∧ fits t b.tag ∧ fits t c.tag) t (fun n x => ∀ j, j < 32 / w →
    let u := exactOf (elem w (laneOf a.lanes n) j)
    let v := exactOf (elem w (laneOf b.lanes n) j)
    roundsTo m ((u.mul v).add m (exactOf (elem w (laneOf c.lanes n) j))) (elem w x j)) ∧
  each (.vfdiv f) (fun x y r => roundsTo 0 ((exactOf x).mul (exactOf y).inv) r) ∧
  each (.vfmin f) minTo ∧ each (.vfmax f) maxTo ∧
  each1 (.vfabs f) (fun x r => (isNaNIn x → r = nan) ∧
    (¬ isNaNIn x → signIn r = false ∧ r.extractLsb' 0 (w - 1) = x.extractLsb' 0 (w - 1))) ∧
  each1 (.vfneg f) (fun x r => (isNaNIn x → r = nan) ∧
    (¬ isNaNIn x → signIn r = !signIn x ∧ r.extractLsb' 0 (w - 1) = x.extractLsb' 0 (w - 1)))

/-- R168 to R170: the correctly rounded square root, the float compare into a triple, and the class word with its one bit. -/
def Sys2Proof.Spec.VectorFloatCompareAndClass : Prop := ∀ (f : Fields) (s : State),
  let r := src s
  let a := r.srcV f f.a
  let b := r.srcBV f 32 F32
  VWrites (.vfsqrt f) f s (fits F32 a.tag) F32 (fun n x => rootsTo (exactOf (laneOf a.lanes n)) x) ∧
  (Issues (.vfcmp f) f s → (fits F32 a.tag ∧ fits F32 b.tag → ∃ m : Mask, Writes (.vfcmp f) f s (.z m) ∧ ∀ i, i < 96 →
      (m.getLsbD i = true ↔ r.mask.getLsbD i = true ∧ holdsFloat f.mo (laneOf a.lanes i) (laneOf b.lanes i))) ∧
    (¬ (fits F32 a.tag ∧ fits F32 b.tag) → Raises (.vfcmp f) s TAG 0)) ∧
  VWrites (.vfclass f) f s (fits F32 a.tag) N32 (fun n x =>
    let u := laneOf a.lanes n
    let e := u.extractLsb' 23 8
    let normal := e ≠ 0 ∧ e ≠ 0xFF
    let subnormal := e = 0 ∧ ¬ zero32 u
    (u = 0xFF800000 → x = 0x001) ∧ (u.getLsbD 31 = true → normal → x = 0x002) ∧ (u.getLsbD 31 = true → subnormal → x = 0x004) ∧
    (u = 0x80000000 → x = 0x008) ∧ (u = 0 → x = 0x010) ∧ (u.getLsbD 31 = false → subnormal → x = 0x020) ∧
    (u.getLsbD 31 = false → normal → x = 0x040) ∧ (u = 0x7F800000 → x = 0x080) ∧ (nan32 u = true → x = 0x100))

/-- R165 to R170: the float forms of the vector unit. -/
def Obligations.VectorFloat : Prop := Spec.VectorFloatArithmetic ∧ Spec.VectorFloatCompareAndClass

/-- R103, R167 and R168: the special functions. Outside a chain the destination stays pending, with the value for every active
lane, until its completion; the special operands give the values of the table of R168, every NaN operand the canonical NaN. A reciprocal and a
reciprocal root are correctly rounded, and so is 2^x of an integer and the logarithm of a power of two (02 R50). -/
def Obligations.SpecialFunctions : Prop := ∀ (f : Fields) (s : State),
  let a := (src s).srcV f f.a
  let each (i : Instr) (table : List (Word × Word)) (value : Word → Word → Prop := fun _ _ => True) : Prop :=
    SWrites i f s (fits F32 a.tag) F32 fun n x =>
      let u := laneOf a.lanes n
      (nan32 u = true → x = canonicalNaN) ∧ (∀ e ∈ table, u = e.1 → x = e.2) ∧
      (¬ isNaNIn u → ¬ isInfIn u → ¬ isZeroIn u → value u x)
  -- the operands in the order -infinity, -0, +0, +infinity
  let specials (r1 r2 r3 r4 : Word) : List (Word × Word) :=
    [(0xFF800000, r1), (0x80000000, r2), (0, r3), (0x7F800000, r4)]
  let nan := canonicalNaN
  let one : Word := 0x3F800000
  each (.vfrcp f) (specials 0x80000000 0xFF800000 0x7F800000 0) (fun u x => roundsTo 0 (.val (1 / valueIn u)) x) ∧
  each (.vfrsq f) (specials nan 0xFF800000 0x7F800000 0) (fun u x => rootsTo (.val (1 / valueIn u)) x) ∧
  each (.vfexp2 f) (specials 0 one one 0x7F800000) (fun u x => ∀ n : Int, valueIn u = n → roundsTo 0 (.val (2 ^ n)) x) ∧
  each (.vflog2 f) (specials nan 0xFF800000 0xFF800000 0x7F800000) (fun u x => (signIn u = true → x = nan) ∧
    ∀ n : Int, valueIn u = 2 ^ n → roundsTo 0 (Exact.ofRat n) x) ∧
  each (.vfsin f) (specials nan 0x80000000 0 nan) ∧ each (.vfcos f) (specials nan one one nan) ∧
  each (.vftanh f) (specials 0xBF800000 0x80000000 0 one) ∧ each (.vferf f) (specials 0xBF800000 0x80000000 0 one)

/-- R171, R172, R142, with 02 R34, R39, R48 and R49: `vcvt` converts element by element from the type of FN to that of TY. Where it
narrows within the lanes, the elements of part P are written and the others keep their bits, and it asks the destination's tag; where
it widens, part P of the source is read. -/
def Sys2Proof.Spec.VectorConversion : Prop := ∀ (f : Fields) (s : State),
  let r := src s
  let a := r.srcV f f.a
  let d := r.destV f
  let tagFor (ty : BitVec 4) : Tag := if ty = 9 then BF16X2 else if ty = 10 ∨ ty = 0 then F32 else tagOfInt ty
  let ws := codeBits f.fn
  let wd := codeBits f.ty
  let es := 32 / ws
  let ed := 32 / wd
  let p := f.ax.toNat
  let tagsFit : Prop := fits (tagFor f.fn) a.tag ∧ (es < ed → fits (tagFor f.ty) d.tag)
  let converts (x y : Word) (j k : Nat) : Prop := convertsTo f.fn f.ty f.mo.toNat r.sr.srseed (elem ws x j) (elem wd y k)
  VWrites (.vcvt f) f s tagsFit (tagFor f.ty) (fun n x =>
    (ed = es → ∀ j, j < es → converts (laneOf a.lanes n) x j j) ∧
    (es < ed → (∀ j, j < es → converts (laneOf a.lanes n) x j (p * es + j)) ∧
      ∀ j, j < ed → (j < p * es ∨ p * es + es ≤ j) → elem wd x j = elem wd (laneOf d.lanes n) j) ∧
    (ed < es → ∀ j, j < ed → converts (laneOf a.lanes n) x (p * ed + j) j)) ∧
  (Issues (.vcvt f) f s → tagsFit → ∃ t, exec (.vcvt f) s = .next t)

/-- R173 and 02 R45: `vbfma` writes the exact sum of c and the two products, rounded once to nearest. An exact zero is +0, as R173 and
R45 say; R52 says otherwise (log 62). -/
def Sys2Proof.Spec.VectorFusedPairs : Prop := ∀ (f : Fields) (s : State),
  let a := (src s).srcV f f.a
  let b := (src s).srcV f f.b
  let c := (src s).srcV f f.c
  let tagsFit : Prop := fits BF16X2 a.tag ∧ fits BF16X2 b.tag ∧ fits F32 c.tag
  let product (n j : Nat) : Exact := (exactOf (elem 16 (laneOf a.lanes n) j)).mul (exactOf (elem 16 (laneOf b.lanes n) j))
  VWrites (.vbfma f) f s tagsFit F32 (fun n x =>
    roundsTo 0 ((((exactOf (laneOf c.lanes n)).add 0 (product n 0)).add 0 (product n 1)).plain) x) ∧
  (Issues (.vbfma f) f s → tagsFit → ∃ t, exec (.vbfma f) s = .next t)

/-- R174 and R175: the scale that `vq4s` chooses for each block: 0 for a block of zeros, SE = 255 where an active lane holds a NaN or an
infinity, else the greatest magnitude over Vmax rounded up, clamped to SE from 1 to 254; and its status. -/
def Sys2Proof.Spec.BlockScales : Prop := ∀ (f : Fields) (s : State),
  let r := src s
  let a := r.srcV f f.a
  let members (k : Nat) : List Word := ((activeBelow s 96).filter fun i => i / 32 == k).map (laneOf a.lanes)
  let beyond (x : Word) : Prop := x.extractLsb' 23 8 = 0xFF
  let clean (k : Nat) : Prop := ∀ y ∈ members k, ¬ beyond y
  let slot (x : DWord) (k : Nat) : BitVec 20 := x.extractLsb' (20 * k) 20
  (Issues (.vq4s f) f s → fits F32 a.tag → ∃ t, exec (.vq4s f) s = .next t) ∧
  (Issues (.vq4s f) f s → ¬ fits F32 a.tag → Raises (.vq4s f) s TAG 0) ∧
  (Issues (.vq4s f) f s → fits F32 a.tag → ∃ (x : DWord) (code : BitVec 8) (clamped : Nat → Bool),
    exec (.vq4s f) s = .next (written s f { s.cur.opened with regs := { r with sr := reported r.sr code } } (.x x)) ∧
    ((∃ k, k < 3 ∧ ¬ clean k) → code = 0x04) ∧
    ((∀ k, k < 3 → clean k) → code = if clamped 0 || clamped 1 || clamped 2 then 0x05 else 0x00) ∧
    x.extractLsb' 60 4 = 0 ∧ ∀ k, k < 3 → (slot x k).extractLsb' 18 2 = f.fn.extractLsb' 0 2 ∧
      (¬ clean k → (slot x k).extractLsb' 0 18 = 0x3FC00 ∧ clamped k = false) ∧
      ((∀ y ∈ members k, zero32 y) → (slot x k).extractLsb' 0 18 = 0 ∧ clamped k = false) ∧
      (clean k → ∀ y ∈ members k, ¬ zero32 y → (∀ z ∈ members k, sizeIn z ≤ sizeIn y) →
        scaleFor f.fn.toNat (magnitude 32 (sizeIn y)) ((slot x k).extractLsb' 10 8).toNat ((slot x k).extractLsb' 0 10).toNat (clamped k)))

/-- R176 to R178: `vq4p` writes the code of each active lane into part P, rounded by the mode among the type's values; every other nibble
keeps its bits; and its status. -/
def Sys2Proof.Spec.BlockPacking : Prop := ∀ (f : Fields) (s : State),
  let r := src s
  let a := r.srcV f f.a
  let d := r.destV f
  let word := r.readX f.b.toNat
  let p := f.ax.toNat
  let place (i : Nat) : Nat := 4 * (3 * p + i / 32) + i % 32 / 8
  let tagsFit : Prop := fits F32 a.tag ∧ fits Q4X8 d.tag
  (Issues (.vq4p f) f s → tagsFit → ∃ t, exec (.vq4p f) s = .next t) ∧
  (Issues (.vq4p f) f s → ¬ tagsFit → Raises (.vq4p f) s TAG 0) ∧
  (Issues (.vq4p f) f s → tagsFit → ∃ (x : VReg) (code : BitVec 8) (full : Nat → Bool),
    exec (.vq4p f) s = .next (written s f { s.cur.opened with regs := { r with sr := reported r.sr code } } (.v x)) ∧
    x.tag = Q4X8 ∧ x.lanes.length = 96 ∧
    (∀ i, i < 96 → (i < 12 * p ∨ 12 * p + 12 ≤ i) → laneOf x.lanes i = laneOf d.lanes i) ∧
    (∀ i, i < 96 → r.mask.getLsbD i = false → elem 4 (laneOf x.lanes (place i)) (i % 8) = elem 4 (laneOf d.lanes (place i)) (i % 8)) ∧
    (∀ i ∈ activeBelow s 96, packsTo f.mo.toNat r.sr.srseed word (i / 32) (laneOf a.lanes i)
      (elem 4 (laneOf x.lanes (place i)) (i % 8)).toNat (full i)) ∧
    ((∃ i ∈ activeBelow s 96, nan32 (laneOf a.lanes i) = true ∨ nanBlock word (i / 32)) → code = 0x04) ∧
    (¬ (∃ i ∈ activeBelow s 96, nan32 (laneOf a.lanes i) = true ∨ nanBlock word (i / 32)) →
      code = if (activeBelow s 96).any full then 0x06 else 0x00))

/-- R179, with 02 R41 to R43: `vq4x` writes each code's value under its block's scale, rounded once by the mode: f32 by lane, bf16 in
pairs. -/
def Sys2Proof.Spec.BlockExpansion : Prop := ∀ (f : Fields) (s : State),
  let a := (src s).srcV f f.a
  let word (c : BitVec 8) : DWord := (src s).readX c.toNat
  let p := f.ax.toNat
  let code (b j : Nat) : Nat := (elem 4 (laneOf a.lanes (4 * b + j / 8)) (j % 8)).toNat
  VWrites (.vq4x f) f s (fits Q4X8 a.tag) (if f.ty = 9 then BF16X2 else F32) (fun n x =>
    (f.ty ≠ 9 → roundsTo f.mo.toNat (codeValue (word f.b) (n / 32) (code (3 * p + n / 32) (n % 32))) x) ∧
    (f.ty = 9 → ∀ e, e < 2 → let k := (2 * n + e) / 32
      roundsTo f.mo.toNat (codeValue (if k < 3 then word f.b else word f.c) (k % 3) (code (6 * p + k) ((2 * n + e) % 32)))
        (elem 16 x e))) ∧
  (Issues (.vq4x f) f s → fits Q4X8 a.tag → ∃ t, exec (.vq4x f) s = .next t)

/-- R171 to R179: conversions between formats and the 4-bit blocks. -/
def Obligations.FormatConversion : Prop :=
  Spec.VectorConversion ∧ Spec.VectorFusedPairs ∧ Spec.BlockScales ∧ Spec.BlockPacking ∧ Spec.BlockExpansion


/-! ### Moments -/

/-- R184, R189, R190 and R195 to R198: the arithmetic forms: their tag check, their variance checks, what inactive lanes keep, and
that a NaN mean of any source makes the result's mean the canonical NaN. -/
def Sys2Proof.Spec.MomentArithmetic : Prop := ∀ (f : Fields) (s : State),
  let r := src s
  let a := r.readM f.a.toNat
  let b := r.readM f.b.toNat
  let c := r.readM f.c.toNat
  let x := r.srcBV f 32 F32
  let form (i : Instr) (other : Prop) (ms : List MReg) (g : Nat → Word → Word → Prop) : Prop :=
    MWrites i f s other ms (fun r => Writes i f s (.m r)) g
  let nan (m : MReg) (n : Nat) : Prop := nan32 (laneOf m.mean n) = true
  (∀ i ∈ [Instr.madd f, .msub f, .mmul f], form i True [a, b] fun n mean _ => nan a n ∨ nan b n → mean = canonicalNaN) ∧
  form (.mfma f) True [a, b, c] (fun n mean _ => nan a n ∨ nan b n ∨ nan c n → mean = canonicalNaN) ∧
  form (.mscl f) (fits F32 x.tag) [a] (fun n mean _ => nan a n ∨ nan32 (laneOf x.lanes n) = true → mean = canonicalNaN)

/-- R188, R190 and R195 to R198: the steps of the arithmetic forms, each rounded once to the nearest f32, under the covariance of the
suffix or of MCR.CV. -/
def Sys2Proof.Spec.MomentArithmeticSteps : Prop := ∀ (f : Fields) (s : State),
  let r := src s
  let a := r.readM f.a.toNat
  let b := r.readM f.b.toNat
  let c := r.readM f.c.toNat
  let x := r.srcBV f 32 F32
  let E (w : Word) : Exact := exactOf w
  let mu (m : MReg) (n : Nat) : Word := laneOf m.mean n
  let v (m : MReg) (n : Nat) : Word := finished (laneOf m.var n)
  let cov (n : Nat) (k : Word) : Prop := covariance f.fn.toNat r.sr (v a n) (v b n) k
  let form (i : Instr) (other : Prop) (ms : List MReg) (g : Nat → Word → Word → Prop) : Prop :=
    MSteps i f s other ms (fun r => Writes i f s (.m r)) g
  form (.madd f) True [a, b] (fun n mean var => nearestTo ((E (mu a n)).add 0 (E (mu b n))) mean ∧
    ∃ k t, cov n k ∧ nearestTo ((E (v a n)).add 0 (E (v b n))) t ∧ nearestTo (((Exact.val 2).mul (E k)).add 0 (E t)) var) ∧
  form (.msub f) True [a, b] (fun n mean var => nearestTo ((E (mu a n)).add 0 (E (mu b n)).neg) mean ∧
    ∃ k t, cov n k ∧ nearestTo ((E (v a n)).add 0 (E (v b n))) t ∧ nearestTo ((E t).add 0 ((Exact.val 2).mul (E k)).neg) var) ∧
  form (.mmul f) True [a, b] (fun n mean var => ∃ k, cov n k ∧ productSteps k (mu a n) (v a n) (mu b n) (v b n) mean var) ∧
  form (.mfma f) True [a, b, c] (fun n mean var => ∃ k pm pv, cov n k ∧ productSteps k (mu a n) (v a n) (mu b n) (v b n) pm pv ∧
    nearestTo ((E pm).add 0 (E (mu c n))) mean ∧ nearestTo ((E pv).add 0 (E (v c n))) var) ∧
  form (.mscl f) (fits F32 x.tag) [a] (fun n mean var => nearestTo ((E (laneOf x.lanes n)).mul (E (mu a n))) mean ∧
    nearestTo (((E (laneOf x.lanes n)).mul (E (laneOf x.lanes n))).mul (E (v a n))) var)

/-- R185, R189, R190, R199 and R203: the non-linear forms. Their destination stays pending outside a chain; the first matching row of
the table of R199 decides a pair that holds a NaN or an infinity, and under `mrelu` one whose variance is zero. -/
def Sys2Proof.Spec.MomentFunctions : Prop := ∀ (f : Fields) (s : State),
  let m := (src s).readM f.a.toNat
  let form (i : Instr) (g : Nat → Word → Word → Prop) : Prop := MWrites i f s True [m] (fun r =>
    (atOnce f s → Writes i f s (.m r)) ∧ (¬ atOnce f s → exec i s = .next (pendingState s f (.m f.d.toNat) (.m r)))) g
  let inf : Word := 0x7F800000
  let nan := canonicalNaN
  let table (varInf : Word × Word) (muInf : Word → Word × Word) (n : Nat) (mean var : Word) : Prop :=
    ∀ v, variance m n v →
      let mu := laneOf m.mean n
      (nan32 mu = true ∨ nan32 v = true → mean = nan ∧ var = nan) ∧
      (v = inf → inf32 mu → mean = nan ∧ var = nan) ∧
      (v = inf → nan32 mu = false → ¬ inf32 mu → (mean, var) = varInf) ∧
      (nan32 v = false → v ≠ inf → mu = inf → (mean, var) = muInf v) ∧
      (nan32 v = false → v ≠ inf → mu = 0xFF800000 → mean = 0 ∧ var = 0)
  form (.mrelu f) (fun n mean var => table (inf, inf) (fun v => (inf, v)) n mean var ∧
    (variance m n 0 → nan32 (laneOf m.mean n) = false → ¬ inf32 (laneOf m.mean n) → var = 0 ∧
      mean = if (laneOf m.mean n).getLsbD 31 then 0 else laneOf m.mean n)) ∧
  form (.mexp f) (table (inf, inf) fun _ => (inf, inf)) ∧
  form (.msig f) (table (0x3F000000, 0x3E800000) fun _ => (0x3F800000, 0)) ∧
  form (.mtanh f) (fun n mean var => nan32 (laneOf m.mean n) = true → mean = nan ∧ var = nan)

/-- R190 and R199 to R203: the steps of the non-linear forms, on pairs that no row of R199 decides; a variance of 0 goes through them
too, but for `mrelu`. -/
def Sys2Proof.Spec.MomentFunctionSteps : Prop := ∀ (f : Fields) (s : State),
  let m := (src s).readM f.a.toNat
  let E (w : Word) : Exact := exactOf w
  let form (i : Instr) (g : Word → Word → Word → Word → Prop) : Prop := MSteps i f s True [m] (fun r =>
    (atOnce f s → Writes i f s (.m r)) ∧ (¬ atOnce f s → exec i s = .next (pendingState s f (.m f.d.toNat) (.m r)))) fun n mean var =>
      g (laneOf m.mean n) (finished (laneOf m.var n)) mean var
  let finite (x : Word) : Prop := ¬ isNaNIn x ∧ ¬ isInfIn x
  form (.mrelu f) (fun mu v mean var => finite mu → finite v → ¬ zero32 v →
    ∃ sigma z s1 q t u w, rootsTo (E v) sigma ∧ nearestTo ((E mu).mul (E sigma).inv) z ∧
      let p1 : Word := BitVec.ofNat 32 (fPhi z.toNat)
      let p : Word := BitVec.ofNat 32 (fDensity z.toNat)
      nearestTo ((E mu).mul (E p1)) s1 ∧ nearestTo (((E sigma).mul (E p)).add 0 (E s1)) mean ∧
      nearestTo (((E mu).mul (E mu)).add 0 (E v)) q ∧ nearestTo ((E q).mul (E p1)) t ∧ nearestTo ((E mu).mul (E sigma)) u ∧
      nearestTo (((E u).mul (E p)).add 0 (E t)) w ∧ nearestTo ((E w).add 0 ((E mean).mul (E mean)).neg) var) ∧
  form (.mexp f) (fun mu v mean var => finite mu → finite v →
    ∃ e b c, nearestTo ((E mu).add 0 ((Exact.val (1 / 2)).mul (E v))) e ∧ mean = BitVec.ofNat 32 (fExpE e.toNat) ∧
      nearestTo ((E (BitVec.ofNat 32 (fExpE v.toNat))).add 0 (E one32).neg) b ∧
      nearestTo (((Exact.val 2).mul (E mu)).add 0 (E v)) c ∧
      nearestTo ((E b).mul (E (BitVec.ofNat 32 (fExpE c.toNat)))) var) ∧
  form (.msig f) (fun mu v mean var => finite mu → finite v → sigmoidSteps mu v mean var) ∧
  form (.mtanh f) (fun mu v mean var => ∃ mu2 v4, nearestTo ((Exact.val 2).mul (E mu)) mu2 ∧ nearestTo ((Exact.val 4).mul (E v)) v4 ∧
    (finite mu2 → finite v4 → ∃ ms vs, sigmoidSteps mu2 v4 ms vs ∧
      nearestTo (((Exact.val 2).mul (E ms)).add 0 (E one32).neg) mean ∧ nearestTo ((Exact.val 4).mul (E vs)) var))

/-- R184 to R203: moment arithmetic and functions. -/
def Obligations.Moments : Prop :=
  Spec.MomentArithmetic ∧ Spec.MomentArithmeticSteps ∧ Spec.MomentFunctions ∧ Spec.MomentFunctionSteps

/-- R184, R187, R189, R190, R192 to R194, R207 and R208: pairs formed, collapsed, sampled and moved, and the two moment control
registers: bit 3 of MCR stays 0, and MRHO is held within [-1, 1], a NaN or a zero becoming +0. That `mmov` writes +0 for a variance of -0
is the model's choice between R207 and 02 R44 (log 57). -/
def Obligations.MomentMovesAndControl : Prop := ∀ (f : Fields) (s : State),
  let r := src s
  let m := r.readM f.a.toNat
  let a := r.srcV f f.a
  let b := r.srcBV f 32 F32
  let z := r.srcV f f.b
  let active (n : Nat) : Prop := r.mask.getLsbD n = true
  let quiet (x : Word) : Word := if nan32 x then canonicalNaN else x
  (Issues (.mset f) f s →
    let bad (n : Nat) : Prop := active n ∧ negative (laneOf b.lanes n)
    (¬ (fits F32 a.tag ∧ fits F32 b.tag) → Raises (.mset f) s TAG 0) ∧
    (fits F32 a.tag ∧ fits F32 b.tag → r.sr.mcr.getLsbD 2 = false → (∃ n, n < 96 ∧ bad n) →
      ∃ t, RaisesNegvar (.mset f) s t ∧ ∀ n, n < 96 → (t.getLsbD n = true ↔ bad n)) ∧
    (fits F32 a.tag ∧ fits F32 b.tag → r.sr.mcr.getLsbD 2 = true ∨ (∀ n, n < 96 → ¬ bad n) →
      ∃ q, Writes (.mset f) f s (.m q) ∧ pairsHold f s (fun n mean var => mean = quiet (laneOf a.lanes n) ∧
        (negative (laneOf b.lanes n) ∨ zero32 (laneOf b.lanes n) → var = 0) ∧
        (¬ negative (laneOf b.lanes n) → ¬ zero32 (laneOf b.lanes n) → var = quiet (laneOf b.lanes n))) q)) ∧
  (Issues (.mcoll f) f s → (¬ fits MOM m.tag → Raises (.mcoll f) s TAG 0) ∧
    (fits MOM m.tag → f.nd = false → ∃ (mean var : VReg),
      exec (.mcoll f) s = .next (written s f
        { s.cur.opened with regs := { r with v := lset r.v f.b.toNat var } } (.v mean)) ∧
      lanesHold f s F32 (fun n x => x = quiet (laneOf m.mean n)) mean ∧ var.tag = F32 ∧
      ∀ n, n < 96 → laneOf var.lanes n =
        if r.mask.getLsbD n then quiet (laneOf m.var n) else laneOf (r.readV f.b.toNat).lanes n) ∧
    (fits MOM m.tag → f.nd = true → ∃ mean, Writes (.mcoll f) f s (.v mean))) ∧
  (Issues (.msamp f) f s → (¬ (fits MOM m.tag ∧ fits F32 z.tag) → Raises (.msamp f) s TAG 0) ∧
    (fits MOM m.tag ∧ fits F32 z.tag →
      (r.sr.mcr.getLsbD 2 = false → (∃ n, n < 96 ∧ active n ∧ negative (laneOf m.var n)) →
        ∃ t, RaisesNegvar (.msamp f) s t ∧ ∀ n, n < 96 → (t.getLsbD n = true ↔ active n ∧ negative (laneOf m.var n))) ∧
      (r.sr.mcr.getLsbD 2 = true ∨ (∀ n, n < 96 → active n → ¬ negative (laneOf m.var n)) →
        ∃ x, Writes (.msamp f) f s (.v x) ∧ lanesHold f s F32 (fun n y => ∃ sigma : Word, rootsTo (exactOf (finished (laneOf m.var n))) sigma ∧
          nearestTo (((exactOf sigma).mul (exactOf (laneOf z.lanes n))).add 0 (exactOf (laneOf m.mean n))) y) x))) ∧
  (Issues (.mmov f) f s → (¬ fits MOM m.tag → Raises (.mmov f) s TAG 0) ∧
    (fits MOM m.tag → ∃ q, Writes (.mmov f) f s (.m q) ∧ q.tag = MOM ∧ ∀ n, n < 96 → active n →
      laneOf q.mean n = quiet (laneOf m.mean n) ∧
      laneOf q.var n = if laneOf m.var n = 0x80000000 then 0 else quiet (laneOf m.var n))) ∧
  (Issues (.mcfgMcr f) f s → Acts (.mcfgMcr f) f s fun th =>
    { th with regs := { th.regs with sr := { th.regs.sr with mcr := f.ax &&& 0xF7 } } }) ∧
  (Issues (.mcfgMrho f) f s → ∃ rho : Word,
    Acts (.mcfgMrho f) f s (fun th => { th with regs := { th.regs with sr := { th.regs.sr with mrho := rho } } }) ∧
    clampsTo f.imm32 rho)

/-! ### Memory -/

/-- R81 step 12, R106, R107, R247, R249, R253 to R264, 09 R204 to R206: a memory instruction whose addresses pass every check of
R249. The access is in flight behind those of its group, one lane for each address EA = VBASE + offset, with the data of the
form; the program counter is past the instruction, LC and SC count it, its destination is pending, and no byte of memory and
no other register has changed when the accesses that may start do so. Its source tags are checked first. -/
def Sys2Proof.Spec.AccessIssued : Prop := ∀ (f : Fields) (s : State), ∀ form ∈ memoryForms f s,
  let i := form.i
  let m := form.m
  let th := s.cur.opened
  let b := base f s
  Issues i f s →
    (¬ form.tags → Raises i s TAG 0) ∧
    (form.tags → ¬ (b.valid = true ∧ b.kind = .regWindow) → freeToIssue f s m → detKernel s th = none →
      ∀ r, resolve s th b (needOfForm m) (f.ax.toNat % 8) m.scalar m.lanes = .ok r → r.page = none →
        ∃ (t : State) (a : Access), exec i s = .next (pump t s.cur.id) ∧ t.accs = s.accs ++ [a] ∧
          a.th = s.cur.id ∧ a.kind = m.kind ∧ a.width = m.width ∧ a.order = form.order ∧ a.scope = f.ax.toNat / 8 % 8 ∧
          a.dest = m.dest ∧ a.countLc = m.lc ∧ a.countSc = m.sc ∧ a.started = false ∧ a.space = b.kind ∧
          a.lanes.map (fun l => (l.lane, l.ea)) = m.lanes.map (fun x => (x.1, b.vbase + BitVec.ofNat 64 x.2)) ∧
          (∀ l ∈ a.lanes, l.data = m.data l.lane ∧ l.expect = m.expect l.lane ∧ l.done = false) ∧
          t.cur = { (written s f th .none).cur with
            lc := if m.lc then s.cur.lc + 1 else s.cur.lc, sc := if m.sc then s.cur.sc + 1 else s.cur.sc
            pend := s.cur.pend ++ m.pend.map fun reg => { reg, tag := a.id } } ∧
          t.others = s.others ∧ t.mem = s.mem ∧ t.agenda = s.agenda ∧ t.queues = s.queues ∧ t.parts = s.parts ∧
          t.homes = s.homes ∧ t.msgs = s.msgs)

/-- R92 and R93: an access through the register window takes effect within its instruction, uncounted. It waits for a pending register
that it touches; then a load's destination has the words that stood there, a store has put its words there, and nothing else of the
machine has changed. -/
def Sys2Proof.Spec.RegisterWindow : Prop := ∀ (f : Fields) (s : State), ∀ form ∈ memoryForms f s,
  let m := form.m
  let th := s.cur.opened
  let b := base f s
  Issues form.i f s → form.tags → b.valid = true → b.kind = .regWindow →
    (m.kind = .cond → ∀ a ∈ s.accs, a.th = s.cur.id → a.kind.resv = false) →
    ∀ r, resolve s th b (needOfForm m) (f.ax.toNat % 8) m.scalar m.lanes = .ok r →
      let held := (windowTouched m r.lanes).filter fun p => (s.cur.pend.any fun q => q.reg == p) && p != .s 63
      (held ≠ [] → exec form.i s = .next (stall s s.cur.id (.scoreboard held))) ∧
      (held = [] → ∃ (u : Regs) (v : Option Resv),
        exec form.i s = .next (written s f { th with regs := u, resv := v } .none) ∧
        u.pc = th.regs.pc ∧ r.lanes.map (fun l => (l.lane, l.ea)) = m.lanes.map (fun x => (x.1, b.vbase + BitVec.ofNat 64 x.2)) ∧
        (∀ l ∈ r.lanes, l.key = l.ea.toNat % 2 ^ 56) ∧
        (m.kind = .load → m.width = 4 → v = s.cur.resv ∧
          (∀ n ty, m.dest = .s n ty → ∀ l w, r.lanes = [l] → windowHolds th.regs l.key w → u = th.regs.writeS s.cur.ll n w) ∧
          (∀ n tag, m.dest = .v n tag → ∃ y, u = { th.regs with v := lset th.regs.v n y } ∧ y.tag = tag ∧
            (∀ l ∈ r.lanes, l.lane < 96 → (∀ x ∈ r.lanes, x.lane = l.lane → x = l) →
              ∀ w, windowHolds th.regs l.key w → laneOf y.lanes l.lane = w) ∧
            ∀ i, i < 96 → (∀ l ∈ r.lanes, l.lane ≠ i) → laneOf y.lanes i = laneOf (th.regs.readV n).lanes i)) ∧
        (m.kind = .store → m.width = 4 → v = s.cur.resv ∧
          windowStores s.cur.ll (r.lanes.map fun l => (l.key, BitVec.ofNat 32 (m.data l.lane))) th.regs u))

/-- R108 and R249 step 5: translation and protection go lane by lane, after every other check. The first lane that faults decides. On
PAGE the lanes below it are in flight and the group parks on its address with the unfinished lanes, none for a scalar form; every
other fault is a trap that leaves no access, PROT of a page without the permission among them. -/
def Sys2Proof.Spec.TranslationFaults : Prop := ∀ (f : Fields) (s : State), ∀ form ∈ memoryForms f s,
  let i := form.i
  let m := form.m
  let th := s.cur.opened
  let b := base f s
  let need := needOfForm m
  let kind := m.perm.kind
  Issues i f s → form.tags → freeToIssue f s m → preCheck s th b need m.lanes = .ok () →
    (∀ ls va code level s1, locateAll th b need (f.ax.toNat % 8) m.lanes s [] = (ls, some (va, .fault code level), s1) →
      ls.length < m.lanes.length ∧ ls.map (fun l => (l.lane, l.ea)) =
        (m.lanes.take ls.length).map (fun x => (x.1, b.vbase + BitVec.ofNat 64 x.2)) ∧
      va = (b.vbase + BitVec.ofNat 64 (m.lanes.getD ls.length (0, 0)).2).toNat ∧
      (code ≠ PAGE → exec i s = .next (takeTrap s s.cur.id code (memDetail kind level) va 0)) ∧
      (code = PAGE → detKernel s1 th = none → ∃ (u : Mask) (t : State),
        exec i s = .next (takePark t s.cur.id (memDetail kind level) va u) ∧
        (m.scalar = true → u = 0) ∧
        (m.scalar = false → ∀ n, n < 96 → (u.getLsbD n = true ↔ ∃ x ∈ m.lanes.drop ls.length, x.1 = n)) ∧
        (ls = [] → t = s1) ∧
        (ls ≠ [] → ∃ (w : State) (a : Access), t = pump w s.cur.id ∧ w.accs = s1.accs ++ [a] ∧ a.th = s.cur.id ∧ a.kind = m.kind ∧
          a.lanes.map (fun l => (l.lane, l.ea, l.key)) = ls.map (fun l => (l.lane, l.ea, l.key)) ∧
          (∀ l ∈ a.lanes, l.data = m.data l.lane ∧ l.done = false) ∧ a.dest = m.dest ∧
          w.cur.regs = s1.cur.regs ∧ w.mem = s1.mem))) ∧
    (∀ x rest, m.lanes = x :: rest → b.valid = true → b.kind = .global → x.2 < b.limit → b.leaf.allows m.perm = false →
      exec i s = .next (takeTrap s s.cur.id PROT (memDetail kind b.leaf.level) (b.vbase + BitVec.ofNat 64 x.2).toNat 0))

/-- R392 and R394: inside a block, an instruction whose lanes all write shared lines puts them in the group's staging buffer in place
of accesses, once 256 entries hold them all, and leaves LC and SC; till then it waits. A `scnd` is decided at once: s[D] is 1 or
0, the reservation is gone, and only a success is staged. -/
def Sys2Proof.Spec.Staging : Prop := ∀ (f : Fields) (s : State), ∀ form ∈ memoryForms f s,
  let i := form.i
  let m := form.m
  let id := s.cur.id
  let th := s.cur.opened
  let b := base f s
  Issues i f s → form.tags → freeToIssue f s m → m.kind.writes = true → b.kind = .global →
    ∀ r, resolve s th b (needOfForm m) (f.ax.toNat % 8) m.scalar m.lanes = .ok r → r.page = none → r.lanes ≠ [] →
    let st := r.st.setThread th
    ∀ p kn g k, id = .grp p kn g → detKernel st th = some k →
      (∀ l ∈ r.lanes, isShared st p th.ctx k l.ea.toNat = true ∧ ownerWait st p th.ctx k l.ea.toNat = none) →
      let room := (stagedOf k g).length + r.lanes.length ≤ 256
      let staged (lanes : List LaneAcc) (t : State) : Prop :=
        ∃ es k1, t.kernel? p kn = some k1 ∧ k1.staged = k.staged ++ es ∧ stagedFor m lanes es ∧ (∀ e ∈ es, e.gid = g) ∧
          t.accs = st.accs ∧ t.mem = st.mem ∧ t.homes = st.homes ∧ t.cur.lc = s.cur.lc ∧ t.cur.sc = s.cur.sc ∧
          t.cur.regs.pc = s.cur.regs.pc + BitVec.ofNat 64 f.len.slot
      (m.kind ≠ .cond → ¬ room → exec i s = .next (stall s id (.staging st.t r.lanes.length))) ∧
      (m.kind ≠ .cond → room → ∃ t, exec i s = .next (pump t id) ∧ staged r.lanes t ∧
        t.cur.regs.s = th.regs.s ∧ t.cur.regs.v = th.regs.v) ∧
      (m.kind = .cond → ∀ l, r.lanes = [l] →
        let holds := ∃ x, s.cur.resv = some x ∧ x.kind = .global ∧ x.ea = l.ea ∧ x.width = m.width
        let answers (w : Word) (t : State) : Prop := t.cur.resv = none ∧ ∀ d ty, m.dest = .s d ty →
          t.cur.regs.s = (th.regs.writeS s.cur.ll d w).s
        (holds → ¬ room → exec i s = .next (stall s id (.staging st.t 1))) ∧
        (holds → room → ∃ t, exec i s = .next (pump t id) ∧ staged [l] t ∧ answers 1 t) ∧
        (¬ holds → ∃ t, exec i s = .next (pump t id) ∧ staged [] t ∧ answers 0 t))

/-- 09 R206 and 02 R39: the bytes that `mst` stores for a pair. Under `.f32` they are the bits; under `.bf16` each member is rounded by
the mode, the variance under `.sr` with the seed xor MCR.SIX · 2^28, and a variance of -0 is +0 (02 R44; log 57). -/
def Sys2Proof.Spec.StoredPairs : Prop := ∀ (f : Fields) (r : SReg) (mean var : Word),
  (f.ty ≠ 9 → storedPair f r mean var = mean.toNat + 2 ^ 32 * var.toNat) ∧
  (f.ty = 9 → f.mo.toNat < 5 → ∃ a b : BitVec 16, convertsTo 10 9 f.mo.toNat r.srseed mean a ∧
    convertsTo 10 9 f.mo.toNat (r.srseed ^^^ BitVec.ofNat 32 (r.mcr.toNat / 16 * 2 ^ 28)) var b ∧
    storedPair f r mean var = a.toNat + 2 ^ 16 * if b = 0x8000 then 0 else b.toNat)

/-- How a memory instruction issues: its access in flight, through the register window, parked on a page, or staged. -/
def Obligations.MemoryIssue : Prop := Spec.AccessIssued ∧ Spec.RegisterWindow ∧ Spec.TranslationFaults ∧ Spec.Staging ∧
  Spec.StoredPairs

/-- R247, R249, R250 and 22 R426: the checks before an access, over all lanes in ascending order, each check over every lane before
the next: an invalid base register raises BOUNDS, then the first misaligned address ALIGN, then the first lane outside its
window BOUNDS, then the first address in no region PROT, each with its kind in the detail and its address. Without a lane
nothing is checked: the instruction goes on whatever its base register holds. -/
def Obligations.MemoryChecks : Prop := ∀ (f : Fields) (s : State), ∀ form ∈ memoryForms f s,
  let i := form.i
  let m := form.m
  let b := base f s
  let kind := m.perm.kind
  let ea (x : Nat × Nat) : DWord := b.vbase + BitVec.ofNat 64 x.2
  let misplaced (x : Nat × Nat) : Prop := (ea x).toNat % m.align ≠ 0
  let outside (x : Nat × Nat) : Prop := inWindow s s.cur.opened b m.width x.2 = false
  let nowhere (x : Nat × Nat) : Prop := regionOf (ea x).toNat = none
  let first (p : Nat × Nat → Prop) (x : Nat × Nat) : Prop := ∃ l r, m.lanes = l ++ x :: r ∧ p x ∧ ∀ y ∈ l, ¬ p y
  let raises (code : Nat) (daddr : Nat) : Prop := exec i s = .next (takeTrap s s.cur.id code kind daddr 0)
  Issues i f s → form.tags → freeToIssue f s m →
    (m.lanes ≠ [] → b.valid = false → raises BOUNDS 0) ∧
    (b.valid = true → ∀ x,
      (first misplaced x → raises ALIGN (ea x).toNat) ∧
      ((∀ y ∈ m.lanes, ¬ misplaced y) → first outside x → raises BOUNDS (ea x).toNat) ∧
      ((∀ y ∈ m.lanes, ¬ misplaced y) → (∀ y ∈ m.lanes, ¬ outside y) → first nowhere x → raises PROT (ea x).toNat)) ∧
    (m.lanes = [] → ¬ (b.valid = true ∧ b.kind = .regWindow) → ∃ (t : State) (a : Access), exec i s = .next (pump t s.cur.id) ∧
      t.accs = s.accs ++ [a] ∧ a.lanes = [] ∧ t.mem = s.mem ∧ t.cur.regs.pc = s.cur.regs.pc + BitVec.ofNat 64 f.len.slot)

/-! ### The line protocol -/

/-- Nothing hinders a request of a core for a line (10 R221, R224, R235; 24 R444): its directory entry stands, no token of it is on
its way, the core does not lag behind the home's floor, and the boundaries between the dies are ready. -/
def Sys2Proof.unhindered (s : State) (core ln : Nat) : Prop :=
  (s.home (homeOf s ln)).hasEntry ln = true ∧ (∀ m ∈ s.msgs, m.line ≠ ln) ∧
  before (s.core core).lclk (s.home (homeOf s ln)).floor = false ∧ 
  ∀ b, b < 4 → linkReady s (.boundary b true) = true ∧ linkReady s (.boundary b false) = true

/-- No link is DOWN, so that no store makes a coupling train again (24 R445). -/
def Sys2Proof.noneDown (s : State) : Prop := ∀ e ∈ s.links, e.2.st ≠ .down

/-- The request's access reads one lane of the line, under policy `pol`, with no acquire side. -/
def Sys2Proof.oneLoad (s : State) (acc ln pol : Nat) (a : Access) (l : LaneAcc) : Prop :=
  laneIn s acc ln = some (a, l) ∧ a.lanes = [l] ∧ a.kind = .load ∧ localKind a.space = false ∧ acquires a.order = false ∧
  a.countLc = true ∧ a.countSc = false ∧ effectivePol s a l = pol ∧ unhindered s a.core ln

/-- The request's access stores one lane, under policy `pol`, with no acquire side. -/
def Sys2Proof.oneStore (s : State) (acc pol : Nat) (a : Access) (l : LaneAcc) : Prop :=
  laneTodo s acc l.lane = some (a, l) ∧ a.lanes = [l] ∧ a.kind = .store ∧ localKind a.space = false ∧ acquires a.order = false ∧
  a.countLc = false ∧ a.countSc = true ∧ effectivePol s a l = pol ∧ unhindered s a.core (l.key / 128) ∧
  noneDown s

/-- The one lane has been read from the bytes of the line, and the load's completion comes. -/
def Sys2Proof.loaded (t : State) (acc : Nat) (l : LaneAcc) (w : Nat) (line : List Byte) : Prop :=
  (∃ a l', t.acc? acc = some a ∧ a.lanes = [l'] ∧ l'.done = true ∧
    l'.value = overlay w (ofLeBytes ((line.drop (l.key % 128)).take w)) l.patch) ∧ .loadComplete acc ∈ t.agenda

/-- The access has no lane left to perform, and its completion comes. -/
def Sys2Proof.stored (t : State) (acc : Nat) : Prop := (∃ a, t.acc? acc = some a ∧ a.todo = []) ∧ .storePerformed acc ∈ t.agenda

/-- The directory of the line's home holds an entry of the line with these times. -/
def Sys2Proof.stamped (t : State) (ln : Nat) (p : DirEntry → Prop) : Prop := ∃ e ∈ (t.home (homeOf t ln)).dir, e.line = ln ∧ p e

/-- The stamp of a write by a core whose clock is c (R231, R238), and the entry's times after the return of a copy: stamped with its
owner's clock where it was dirty, as they were where it was clean. -/
def Sys2Proof.stampOf (s : State) (ln : Nat) (c : BitVec 16) : BitVec 16 := maxT ((entryOf s ln).rts + 1) c
def Sys2Proof.stampedBy (s t : State) (ln : Nat) (dirty : Bool) (c : BitVec 16) : Prop :=
  stamped t ln fun e => if dirty then e.wts = stampOf s ln c ∧ e.rts = e.wts
    else e.rts = (entryOf s ln).rts ∧ e.wts = (entryOf s ln).wts

/-- R222, R224, R227, R238, R241, R242, R243: tokens. A load's request at a home that has tokens brings the core one of them (all 512
where home had them all) with the line's bytes, and the lane is read; with none at home one of the holders is asked. A holder
asked gives what it has, its dirty bytes going to memory first, and keeps the rest. A store's request takes all tokens of home and
asks every other holder. A request that failed is made again, after the fourth time as a persistent one. A recall and a returned
message bring the holder's tokens and dirty bytes home; a recall breaks the reservations on the line. An eviction sends them as
a message. -/
def Sys2Proof.Spec.LineTokens : Prop := ∀ (s : State) (acc ln : Nat),
  let home := (entryOf s ln).tokens
  -- HOME_TOKEN_REQUEST
  (∀ a l, oneLoad s acc ln 1 a l → serviceOf s ln = none → heldBack s ln a.core = false → copy? s a.core ln = none →
    (home ≠ 0 → home ≤ 512 → ∃ t, exec (.homeTokenRequest acc ln) s = .next t ∧ t.mem = s.mem ∧
      tokensAt t a.core ln = (if home = 512 then 512 else 1) ∧
      (entryOf t ln).tokens + tokensAt t a.core ln = home ∧ loaded t acc l a.width (homeBytes s ln)) ∧
    (home = 0 → otherHolders s ln a.core ≠ [] → ∃ t c, exec (.homeTokenRequest acc ln) s = .next t ∧
      c ∈ otherHolders s ln a.core ∧ t.agenda = s.agenda ++ [.holderTokenAsk c ln 1 a.core] ∧
      serviceOf t ln = some { line := ln, acc, need := 1, asks := 1 } ∧ t.mem = s.mem)) ∧
  -- under wis never more than one
  (∀ a l, oneLoad s acc ln 4 a l → serviceOf s ln = none → heldBack s ln a.core = false → copy? s a.core ln = none →
    home ≠ 0 → home ≤ 512 → ∃ t, exec (.homeTokenRequest acc ln) s = .next t ∧ t.mem = s.mem ∧ tokensAt t a.core ln = 1 ∧
      (entryOf t ln).tokens = home - 1 ∧ loaded t acc l a.width (homeBytes s ln)) ∧
  -- HOLDER_TOKEN_ASK, not the last to answer
  (∀ v a y o n, serviceOf s ln = some v → s.acc? v.acc = some a → 1 < v.asks → (s.home (homeOf s ln)).hasEntry ln = true →
    copy? s o ln = some y → y.tokens ≠ 0 → o ≠ a.core → n ≠ 0 →
    let k := if n < y.tokens then n else y.tokens
    ∃ t, exec (.holderTokenAsk o ln n a.core) s = .next t ∧ tokensAt t o ln = y.tokens - k ∧
      tokensAt t a.core ln = tokensAt s a.core ln + k ∧ (entryOf t ln).tokens = home ∧
      serviceOf t ln = some { v with asks := v.asks - 1 } ∧
      t.mem = (if y.dirty then s.mem.writeBytes (ln * 128) y.data else s.mem)) ∧
  -- HOME_ALL_TOKEN_REQUEST
  (∀ a l, laneIn s acc ln = some (a, l) → unhindered s a.core ln → serviceOf s ln = none → heldBack s ln a.core = false →
    home ≤ 512 → (∃ h, h < 400 ∧ h ∈ otherHolders s ln a.core) →
    ∃ t, exec (.homeAllTokenRequest acc ln) s = .next t ∧ (entryOf t ln).tokens = 0 ∧
      tokensAt t a.core ln = tokensAt s a.core ln + home ∧ t.mem = s.mem ∧
      t.agenda = s.agenda ++ (otherHolders t ln a.core).map (fun h => .holderTokenAsk h ln 512 a.core) ∧
      serviceOf t ln = some { line := ln, acc, need := 512, asks := (otherHolders t ln a.core).length }) ∧
  -- TRANSIENT_REQUEST_FAIL
  (∀ a l, laneIn s acc ln = some (a, l) → serviceOf s ln = none → tokensAt s a.core ln < needOf s a l →
    (a.fails < 3 → exec (.transientRequestFail acc ln) s =
      .next { s.setAcc { a with fails := a.fails + 1 } with agenda := s.agenda ++
        [if needOf s a l = 512 then .homeAllTokenRequest acc ln else .homeTokenRequest acc ln] }) ∧
    (3 ≤ a.fails → exec (.transientRequestFail acc ln) s =
      .next { s.setAcc { a with fails := 0 } with agenda := s.agenda ++ [.homePersistentRequest acc ln] })) ∧
  -- HOLDER_RECALL and LINE_EVICTION
  (∀ c y, copy? s c ln = some y → y.tokens ≤ 512 →
    (y.tokens = 0 → exec (.holderRecall c ln) s = .next s) ∧
    (y.tokens ≠ 0 → (s.home (homeOf s ln)).hasEntry ln = true → ∃ t, exec (.holderRecall c ln) s = .next t ∧
      copy? t c ln = none ∧ (entryOf t ln).tokens = home + y.tokens ∧ stampedBy s t ln y.dirty (s.core c).lclk ∧
      t.mem = (if y.dirty then s.mem.writeBytes (ln * 128) y.data else s.mem) ∧
      ∀ th ∈ t.threads, th.core = c → ∀ r, th.resv = some r → r.line ≠ some ln) ∧
    (∃ t, exec (.lineEviction c ln) s = .next t ∧ copy? t c ln = none ∧ t.mem = s.mem ∧
      (y.tokens ≠ 0 → t.agenda = s.agenda ++ [.tokenReturn s.serial] ∧ t.msgs = s.msgs ++
        [{ id := s.serial, line := ln, core := c, tokens := y.tokens, data := if y.dirty then some y.data else none,
           clock := (s.core c).lclk }]))) ∧
  -- TOKEN_RETURN
  (∀ m id, s.msgs.find? (fun x => x.id == id) = some m →
    let ready := pathReady s (dieOfCore m.core) (homeDie s m.line)
    (ready = false → exec (.tokenReturn id) s = .next s) ∧
    (ready = true → (s.home (homeOf s m.line)).hasEntry m.line = true → (entryOf s m.line).persistent = none →
      ∃ t, exec (.tokenReturn id) s = .next t ∧
        (entryOf t m.line).tokens = (entryOf s m.line).tokens + m.tokens ∧ (∀ x ∈ t.msgs, x.id ≠ id) ∧
        stampedBy s t m.line m.data.isSome m.clock ∧
        t.mem = (match m.data with
          | some bs => s.mem.writeBytes (m.line * 128) bs
          | none => s.mem)))

/-- R223: persistent requests. One that finds no other of its line becomes active: home's tokens go to its core, and every other
holder is told to forward its own; a request behind an active one waits. A holder forwards all it has to the active requester.
When the requester completes, the line is free again where no other request of it waits. -/
def Sys2Proof.Spec.PersistentRequests : Prop := ∀ (s : State) (ln : Nat),
  let hi := homeOf s ln
  let home := (entryOf s ln).tokens
  (∀ acc a l, laneIn s acc ln = some (a, l) → unhindered s a.core ln →
    ((∀ x ∈ (s.home hi).persistents, x.2.1 ≠ ln) → (entryOf s ln).persistent = none →
      tokensAt s a.core ln + home < needOf s a l → s.agenda.getLast? ≠ some (.persistentCompletion a.core ln) →
      ∃ t, exec (.homePersistentRequest acc ln) s = .next t ∧ (entryOf t ln).persistent = some a.core ∧
        (entryOf t ln).tokens = 0 ∧ tokensAt t a.core ln = tokensAt s a.core ln + home ∧
        (t.home hi).lastServed = a.core ∧ t.mem = s.mem ∧
        t.agenda = s.agenda ++ (otherHolders t ln a.core).map (fun h => .persistentForward h ln)) ∧
    (∀ r, (entryOf s ln).persistent = some r → exec (.homePersistentRequest acc ln) s =
      .next (s.setHome hi { s.home hi with persistents := (s.home hi).persistents ++ [(a.core, ln, acc)] })) ∧
    (∀ o y, (entryOf s ln).persistent = some a.core →
      (s.home hi).persistents.find? (fun x => x.1 == a.core && x.2.1 == ln) = some (a.core, ln, acc) →
      copy? s o ln = some y → y.tokens ≠ 0 → y.tokens ≤ 512 → o ≠ a.core →
      tokensAt s a.core ln + home + y.tokens < needOf s a l →
      ∃ t, exec (.persistentForward o ln) s = .next t ∧ copy? t o ln = none ∧ (entryOf t ln).tokens = 0 ∧
        tokensAt t a.core ln = tokensAt s a.core ln + home + y.tokens ∧
        t.mem = (if y.dirty then s.mem.writeBytes (ln * 128) y.data else s.mem))) ∧
  (∀ c n, (s.home hi).hasEntry ln = true → (entryOf s ln).persistent = some c →
    let ours := (s.home hi).persistents.filter fun x => x.2.1 == ln
    (ours = [(c, ln, n)] → ∃ t, exec (.persistentCompletion c ln) s = .next t ∧ (entryOf t ln).persistent = none ∧
      t.agenda = s.agenda ∧ t.mem = s.mem ∧ ∀ x ∈ (t.home hi).persistents, x.2.1 ≠ ln) ∧
    (∀ d m, ours = [(c, ln, n), (d, ln, m)] → ∃ t, exec (.persistentCompletion c ln) s = .next t ∧
      (entryOf t ln).persistent = some d ∧ (t.home hi).persistents.filter (fun x => x.2.1 == ln) = [(d, ln, m)]))

/-- R226, R234 and R238: a recall of a line that one core holds. Its copy is gone, its dirty bytes are in memory and stamped, no
reservation on the line is left there, the line has no entry, and EVRTS has risen to the entry's rts: a line without entry reads all tokens
at home and both times as the later of EVRTS and the floor. -/
def Sys2Proof.Spec.Recall : Prop := ∀ (s : State) (ln c : Nat) (y : Copy),
  let hi := homeOf s ln
  let h := s.home hi
  let e := entryOf s ln
  let w := if y.dirty then stampOf s ln (s.core c).lclk else e.rts
  h.hasEntry ln = true → (∀ m ∈ s.msgs, m.line ≠ ln) → e.targets = [c] → e.persistent = none → copy? s c ln = some y → y.tokens ≠ 0 →
    y.tokens ≤ 512 → maxT h.nw w = h.nw → maxT h.nw e.wts = h.nw → before w h.floor = false →
    let t := recallLine s ln
    copy? t c ln = none ∧ (t.home hi).hasEntry ln = false ∧ (t.home hi).evrts = maxT h.evrts w ∧
      t.mem = (if y.dirty then s.mem.writeBytes (ln * 128) y.data else s.mem) ∧
      (∀ th ∈ t.threads, th.core = c → ∀ r, th.resv = some r → r.line ≠ some ln) ∧
      (entryOf t ln).tokens = 512 ∧ (entryOf t ln).rts = maxT (t.home hi).evrts (t.home hi).floor ∧
      (entryOf t ln).wts = (entryOf t ln).rts

/-- Tokens of a line, the persistent requests for them, and recalls. -/
def Obligations.LineTokens : Prop := Spec.LineTokens ∧ Spec.PersistentRequests ∧ Spec.Recall

/-- R216, R229, R233, R239, R240, 14 R303: loads at home. Under sis the core receives a lease: a copy with no token, home's bytes and the
entry's times, rts having risen to the core's clock plus LEASE; under wt it keeps no copy. Where one core holds all tokens, the
read is forwarded to it: under sis its dirty bytes reach memory and are stamped first, a clean owner answers without stamp, and it keeps
its tokens; under wt its state stays. An acquiring load raises its core's clock to the wts it read, and the core's lease copies go, but
under scope `.grp`. -/
def Sys2Proof.Spec.LoadsAtHome : Prop := ∀ (s : State) (acc ln : Nat) (a : Access) (l : LaneAcc),
  -- HOME_SIS_LOAD
  (oneLoad s acc ln 3 a l → serviceOf s ln = none → tokensAt s a.core ln = 0 →
    (ownerOf s ln = none → ∃ t y, exec (.homeSisLoad acc ln) s = .next t ∧ copy? t a.core ln = some y ∧ y.tokens = 0 ∧
      y.data = homeBytes s ln ∧ y.dirty = false ∧ y.rts = (entryOf t ln).rts ∧ y.wts = (entryOf t ln).wts ∧
      stamped t ln (fun e => e.rts = maxT (entryOf s ln).rts ((s.core a.core).lclk + a.lease.zeroExtend 16)) ∧
      t.mem = s.mem ∧ loaded t acc l a.width (homeBytes s ln)) ∧
    (∀ o, ownerOf s ln = some o → ∃ t, exec (.homeSisLoad acc ln) s = .next t ∧
      t.agenda = s.agenda ++ [.forwardedSisRead acc ln o] ∧ serviceOf t ln = some { line := ln, acc, need := 0, asks := 1 })) ∧
  -- FORWARDED_SIS_READ
  (∀ o y, oneLoad s acc ln 3 a l → o ≠ a.core → copy? s o ln = some y → y.tokens = 512 → y.data.length = 128 → y.dirty = true →
    s.mem.wf = true →
    ∃ t, exec (.forwardedSisRead acc ln o) s = .next t ∧ copy? t o ln = some { y with dirty := false } ∧
      t.mem = s.mem.writeBytes (ln * 128) y.data ∧ serviceOf t ln = none ∧ loaded t acc l a.width y.data ∧
      (let h := s.home (homeOf s ln)
       let w := stampOf s ln (s.core o).lclk
       maxT h.nw w = h.nw → before w h.floor = false →
        stamped t ln fun e => e.wts = w ∧ e.rts = maxT w ((s.core a.core).lclk + a.lease.zeroExtend 16))) ∧
  (∀ o y, oneLoad s acc ln 3 a l → o ≠ a.core → copy? s o ln = some y → y.tokens = 512 → y.dirty = false →
    ∃ t, exec (.forwardedSisRead acc ln o) s = .next t ∧ copy? t o ln = some y ∧ t.mem = s.mem ∧ serviceOf t ln = none ∧
      loaded t acc l a.width (homeBytes s ln) ∧
      stamped t ln fun e => e.wts = (entryOf s ln).wts ∧
        e.rts = maxT (entryOf s ln).rts ((s.core a.core).lclk + a.lease.zeroExtend 16)) ∧
  -- HOME_WT_LOAD
  (oneLoad s acc ln 2 a l → serviceOf s ln = none →
    (ownerOf s ln = none → ∃ t, exec (.homeWtLoad acc ln) s = .next t ∧ t.mem = s.mem ∧
      (∀ c, (t.core c).copies = (s.core c).copies) ∧ loaded t acc l a.width (homeBytes s ln)) ∧
    (∀ o, ownerOf s ln = some o → ∃ t, exec (.homeWtLoad acc ln) s = .next t ∧
      t.agenda = s.agenda ++ [.forwardedWtRead acc ln o] ∧ serviceOf t ln = some { line := ln, acc, need := 0, asks := 1 })) ∧
  -- FORWARDED_WT_READ
  (∀ o y, oneLoad s acc ln 2 a l → copy? s o ln = some y → y.tokens = 512 →
    ∃ t, exec (.forwardedWtRead acc ln o) s = .next t ∧ t.mem = s.mem ∧ (∀ c, (t.core c).copies = (s.core c).copies) ∧
      serviceOf t ln = none ∧ loaded t acc l a.width y.data) ∧
  -- an acquiring HOME_WT_LOAD
  (laneIn s acc ln = some (a, l) → a.lanes = [l] → a.kind = .load → localKind a.space = false → acquires a.order = true →
    a.countLc = true → a.countSc = false → effectivePol s a l = 2 → unhindered s a.core ln → serviceOf s ln = none → ownerOf s ln = none →
    ∃ t, exec (.homeWtLoad acc ln) s = .next t ∧ t.mem = s.mem ∧ loaded t acc l a.width (homeBytes s ln) ∧
      (t.core a.core).lclk = maxT (s.core a.core).lclk (entryOf s ln).wts ∧
      (a.scope ≠ 0 → ∀ y ∈ (t.core a.core).copies, y.tokens ≠ 0))

/-- R217, R218, R231, R239, R242: stores at home. The bytes stored, and no others, change in memory; holders lose the line; the
entry is stamped with the later of rts + 1 and the storing core's clock; the clock of an sis writer, and of no other, jumps to the wts
returned. Under wis one token goes back to the core; a dirty owner's bytes come home first. Where one core holds all tokens, a wt or sis
store is forwarded to it and merged into its copy, which becomes dirty: memory stays. -/
def Sys2Proof.Spec.StoresAtHome : Prop := ∀ (s : State) (acc : Nat) (a : Access) (l : LaneAcc), s.mem.wf = true →
  let ln := l.key / 128
  let clk := (s.core a.core).lclk
  (∀ pol, pol = 2 ∨ pol = 3 → oneStore s acc pol a l → serviceOf s ln = none → ownerOf s ln = none → l.key % 128 + a.width ≤ 128 →
    (∀ c ∈ (entryOf s ln).targets, (copy? s c ln).all (fun y => !y.dirty && decide (y.tokens ≤ 512)) = true) →
    ∃ t, exec (.homeWrite acc l.lane) s = .next t ∧
      (∀ i, i < a.width → t.mem.read (l.key + i) = BitVec.ofNat 8 (l.data / 256 ^ i)) ∧
      (∀ x, x < l.key ∨ l.key + a.width ≤ x → t.mem.read x = s.mem.read x) ∧
      (∀ c ∈ (entryOf s ln).targets, tokensAt t c ln = 0) ∧ stored t acc ∧
      (t.core a.core).lclk = (if pol = 3 then maxT clk (entryOf t ln).wts else clk) ∧
      ((entryOf s ln).targets = [] ∨ maxT (s.home (homeOf s ln)).nw (entryOf s ln).wts = (s.home (homeOf s ln)).nw →
        stamped t ln (fun e => e.wts = stampOf s ln clk ∧ e.rts = e.wts))) ∧
  (oneStore s acc 4 a l → serviceOf s ln = none → l.key % 128 + a.width ≤ 128 → (entryOf s ln).tokens = 512 → (entryOf s ln).targets = [] →
    copy? s a.core ln = none →
    ∃ t, exec (.homeWrite acc l.lane) s = .next t ∧
      (∀ i, i < a.width → t.mem.read (l.key + i) = BitVec.ofNat 8 (l.data / 256 ^ i)) ∧
      (∀ x, x < l.key ∨ l.key + a.width ≤ x → t.mem.read x = s.mem.read x) ∧
      tokensAt t a.core ln = 1 ∧ (entryOf t ln).tokens = 511 ∧ stored t acc ∧ (t.core a.core).lclk = clk) ∧
  (∀ o y, oneStore s acc 4 a l → serviceOf s ln = none → l.key % 128 + a.width ≤ 128 → o ≠ a.core → (entryOf s ln).targets = [o] →
    (entryOf s ln).tokens = 0 → (entryOf s ln).persistent = none → copy? s o ln = some y → y.tokens = 512 → y.dirty = true →
    y.data.length = 128 → copy? s a.core ln = none →
    ∃ t, exec (.homeWrite acc l.lane) s = .next t ∧ copy? t o ln = none ∧ tokensAt t a.core ln = 1 ∧ (entryOf t ln).tokens = 511 ∧
      stored t acc ∧ (∀ i, i < a.width → t.mem.read (l.key + i) = BitVec.ofNat 8 (l.data / 256 ^ i)) ∧
      (∀ n, n < 128 → ln * 128 + n < l.key ∨ l.key + a.width ≤ ln * 128 + n → t.mem.read (ln * 128 + n) = y.data.getD n 0) ∧
      (∀ x, x / 128 ≠ ln → t.mem.read x = s.mem.read x)) ∧
  (∀ pol o, pol = 2 ∨ pol = 3 → oneStore s acc pol a l → serviceOf s ln = none → ownerOf s ln = some o →
    ∃ t, exec (.homeWrite acc l.lane) s = .next t ∧ t.mem = s.mem ∧
      t.agenda = s.agenda ++ [.forwardedMerge acc l.lane o] ∧ serviceOf t ln = some { line := ln, acc, need := 0, asks := 1 }) ∧
  (∀ pol o y, pol = 2 ∨ pol = 3 → oneStore s acc pol a l → copy? s o ln = some y → y.tokens = 512 →
    ∃ t, exec (.forwardedMerge acc l.lane o) s = .next t ∧ t.mem = s.mem ∧
      copy? t o ln = some { y with dirty := true, data := spliceBytes y.data (l.key % 128) (leBytes a.width l.data) } ∧
      serviceOf t ln = none ∧ stored t acc ∧ (t.core a.core).lclk = (if pol = 3 then maxT clk (entryOf t ln).wts else clk))

/-- The access is the only one of its group, with one lane, and nothing keeps it from starting. -/
def Sys2Proof.startsAlone (s : State) (a : Access) (l : LaneAcc) : Prop :=
  s.accs.filter (fun b => b.th == a.th) = [a] ∧ s.acc? a.id = some a ∧ a.started = false ∧ a.lanes = [l] ∧ l.done = false ∧
  l.patch = [] ∧ stagedHolds s a.th a = false

/-- The lane is done with a value, and the completions that the access counts for come. -/
def Sys2Proof.ended (t : State) (a : Access) (p : LaneAcc → Prop) : Prop :=
  (∃ b x, t.acc? a.id = some b ∧ b.lanes = [x] ∧ x.done = true ∧ p x) ∧ (a.countLc = true → .loadComplete a.id ∈ t.agenda) ∧
  (a.countSc = true → .storePerformed a.id ∈ t.agenda)

/-- A form of R256: its operation, type and width. -/
def Sys2Proof.atomicForm (fn ty width : Nat) : Prop :=
  fn < 8 ∧ (width = 4 ∧ (ty = 3 ∨ ty = 7 ∨ ty = 10) ∨ width = 8 ∧ (ty = 4 ∨ ty = 8)) ∧ (ty = 10 → fn = 0 ∨ 4 ≤ fn)

/-- The new value of an operation of R256 (R36, 05 R133). -/
def Sys2Proof.operatesTo (fn ty : Nat) {w : Nat} (old c expect new : BitVec w) : Prop :=
  (fn = 0 → ty = 10 → roundsTo 0 ((exactOf old).add 0 (exactOf c)) new) ∧ (fn = 0 → ty ≠ 10 → new = old + c) ∧
  (fn = 1 → new = old &&& c) ∧ (fn = 2 → new = old ||| c) ∧ (fn = 3 → new = old ^^^ c) ∧
  (fn = 4 → ty = 10 → minTo old c new) ∧ (fn = 5 → ty = 10 → maxTo old c new) ∧
  (fn = 4 → ty ≠ 10 → new = if lessIn (BitVec.ofNat 4 ty) c old then c else old) ∧
  (fn = 5 → ty ≠ 10 → new = if lessIn (BitVec.ofNat 4 ty) old c then c else old) ∧
  (fn = 6 → new = c) ∧ (fn = 7 → new = if old = expect then c else old)

/-- What an access leaves in place of the bytes `old` that it finds, of its width (R255, R256, R258, R262). -/
def Sys2Proof.leaves (a : Access) (l : LaneAcc) (old new : Nat) : Prop :=
  (a.kind = .store → new = l.data) ∧
  (∀ fn, a.kind = .atomic fn ∨ a.kind = .reduce fn → atomicForm fn a.ty a.width → l.data < 256 ^ a.width →
    l.expect < 256 ^ a.width → ∃ x : BitVec (8 * a.width),
    operatesTo fn a.ty (BitVec.ofNat _ old) (BitVec.ofNat _ l.data) (BitVec.ofNat _ l.expect) x ∧ new = x.toNat) ∧
  (a.kind = .futFill → a.width = 8 → ∃ w : BitVec 64, w.extractLsb' 0 32 = BitVec.ofNat 32 l.data ∧ w.getLsbD 32 = true ∧
    (∀ n, 32 < n → w.getLsbD n = (BitVec.ofNat 64 old).getLsbD n) ∧ new = w.toNat)

/-- The group's reservation holds for a `scnd` (R264). -/
def Sys2Proof.reserved (th : Thread) (a : Access) (l : LaneAcc) : Prop :=
  ∃ r, th.resv = some r ∧ r.kind = a.space ∧ r.ea = l.ea ∧ r.width = a.width

/-- R4: bytes and values. Byte i of a value of n bytes at address k stands at k + i, and a write changes no other byte. -/
def Sys2Proof.Spec.Bytes : Prop := ∀ (m : Memory) (k n x : Nat), m.wf = true →
  (∀ i, i < n → (m.writeNat k n x).read (k + i) = BitVec.ofNat 8 (x / 256 ^ i)) ∧
  (∀ a, a < k ∨ k + n ≤ a → (m.writeNat k n x).read a = m.read a) ∧
  m.readNat k n < 256 ^ n ∧ ∀ i, i < n → BitVec.ofNat 8 (m.readNat k n / 256 ^ i) = m.read (k + i)

/-- R213, R253 to R256, R261, R262, R264: an access to the core scratchpad or a lane slice, as it starts. It is performed at once on the
bytes of its group's window, and nothing else of memory changes. A future there is never deferred; a reservation is the group's own, and
a `scnd` writes only where it holds. -/
def Sys2Proof.Spec.PrivateAccesses : Prop := ∀ (s : State) (a : Access) (l : LaneAcc) (th : Thread),
  startsAlone s a l → s.thread? a.th = some th → (a.space = .scratch ∨ a.space = .slice) →
  let bytes (th : Thread) : Memory := if a.space = .scratch then th.scr else th.slice
  let old := (bytes th).readNat l.key a.width
  ∃ t th', t = pump s a.th ∧ t.thread? a.th = some th' ∧ t.mem = s.mem ∧ t.homes = s.homes ∧ th'.regs = th.regs ∧
    let same := bytes th' = bytes th ∧ th'.resv = th.resv
    let writes (x : Nat) : Prop := bytes th' = (bytes th).writeNat l.key a.width x
    (a.kind = .load → same ∧ ended t a fun x => x.value = old) ∧
    (a.kind = .store ∨ (∃ fn, a.kind = .atomic fn ∨ a.kind = .reduce fn) ∨ a.kind = .futFill →
      ∃ new, leaves a l old new ∧ writes new ∧ th'.resv = th.resv ∧ ended t a fun x => ∀ fn, a.kind = .atomic fn → x.value = old) ∧
    (a.kind = .futLoad → a.width = 8 → same ∧ ended t a fun x =>
      if (BitVec.ofNat 64 old).getLsbD 32 then x.refused = l.refused ∧ x.value = old % 2 ^ 32 else x.refused = true) ∧
    (a.kind = .reserve → bytes th' = bytes th ∧ (ended t a fun x => x.value = old) ∧
      th'.resv = if a.noResv then th.resv else some { line := none, kind := a.space, ea := l.ea, width := a.width }) ∧
    (a.kind = .cond → th'.resv = none ∧ (reserved th a l → writes l.data ∧ ended t a fun x => x.value = 1) ∧
      (¬ reserved th a l → bytes th' = bytes th ∧ ended t a fun x => x.value = 0))

/-- R216 to R218, R241, R264: an access to a line whose copy with all 512 tokens its core holds, under own or by a reservation. It is
performed in the copy, which a write makes dirty; memory and the directory stay. A write breaks the reservations of the other groups of
the core on the line. -/
def Sys2Proof.Spec.OwnedAccesses : Prop := ∀ (s : State) (a : Access) (l : LaneAcc) (th : Thread) (y : Copy),
  let ln := l.key / 128
  let off := l.key % 128
  startsAlone s a l → s.thread? a.th = some th → localKind a.space = false → acquires a.order = false →
  noneDown s → lineReachable s (dieOfCore a.core) l.key = true → effectivePol s a l = 1 → copy? s a.core ln = some y → y.tokens = 512 →
  y.data.length = 128 → off + a.width ≤ 128 →
  let old := ofLeBytes ((y.data.drop off).take a.width)
  ∃ t th', t = pump s a.th ∧ t.thread? a.th = some th' ∧ t.mem = s.mem ∧ t.homes = s.homes ∧ th'.regs = th.regs ∧
    let same := copy? t a.core ln = some y
    let writes (x : Nat) : Prop :=
      copy? t a.core ln = some { y with dirty := true, data := y.data.take off ++ leBytes a.width x ++ y.data.drop (off + a.width) } ∧
      ∀ u ∈ t.threads, u.id ≠ a.th → u.core = a.core → ∀ r, u.resv = some r → r.line ≠ some ln
    (a.kind = .load → same ∧ th'.resv = th.resv ∧ ended t a fun x => x.value = old) ∧
    (a.kind = .reserve → same ∧ (ended t a fun x => x.value = old) ∧
      th'.resv = if a.noResv then th.resv else some { line := some ln, kind := a.space, ea := l.ea, width := a.width }) ∧
    (a.kind = .store ∨ (∃ fn, a.kind = .atomic fn) →
      ∃ new, leaves a l old new ∧ writes new ∧ th'.resv = th.resv ∧ ended t a fun x => ∀ fn, a.kind = .atomic fn → x.value = old) ∧
    (a.kind = .cond → th'.resv = none ∧ (reserved th a l → writes l.data ∧ ended t a fun x => x.value = 1) ∧
      (¬ reserved th a l → same ∧ ended t a fun x => x.value = 0))

/-- R216 to R218 and R242: what an access asks of home where its core holds no copy with tokens of the line: under own a token, or all of
them for a write; under wis a token, or a write at home; under sis a lease, or a write at home; under wt a read or a write at home; a
reduction, a fill and a future load go home under each policy. A store discards the core's own lease copy first. -/
def Sys2Proof.Spec.RequestsToHome : Prop := ∀ (s : State) (a : Access) (l : LaneAcc) (th : Thread),
  let ln := l.key / 128
  let pol := effectivePol s a l
  startsAlone s a l → s.thread? a.th = some th → localKind a.space = false → lineReachable s (dieOfCore a.core) l.key = true →
  (copy? s a.core ln).all (fun y => y.tokens == 0) = true →
  let t := pump s a.th
  let asks (r : Instr) : Prop := r ∈ t.agenda ∧ t.mem = s.mem ∧ ∃ b, t.acc? a.id = some b ∧ b.lanes = [l] ∧ b.started = true
  let writes := (∃ fn, a.kind = .atomic fn) ∨ a.kind = .store ∨ (a.kind = .cond ∧ reserved th a l)
  (a.kind = .load ∨ a.kind = .reserve →
    (pol = 2 → asks (.homeWtLoad a.id ln)) ∧ (pol = 1 ∨ pol = 4 → asks (.homeTokenRequest a.id ln)) ∧
    (pol = 3 → copy? s a.core ln = none → asks (.homeSisLoad a.id ln))) ∧
  (writes → (pol = 1 → asks (.homeAllTokenRequest a.id ln)) ∧ (pol ≠ 1 → asks (.homeWrite a.id l.lane)) ∧ copy? t a.core ln = none) ∧
  (∀ fn, a.kind = .reduce fn → asks (.reductionRequest a.id l.lane) ∧ copy? t a.core ln = none) ∧
  (a.kind = .futFill → asks (.futureFill a.id l.lane) ∧ copy? t a.core ln = none) ∧
  (a.kind = .futLoad → asks (.futureLoadRequest a.id l.key))

/-- Accesses where they are performed: in a private window, in their core's own copy, or at the home of their line. -/
def Obligations.HomeAccesses : Prop := Spec.LoadsAtHome ∧ Spec.StoresAtHome ∧ Spec.Bytes ∧ Spec.PrivateAccesses ∧
  Spec.OwnedAccesses ∧ Spec.RequestsToHome

/-- R259 to R262: reductions and futures at home. A reduction is applied once: its identifier enters the replay filter and an
acknowledgement goes back; a request whose identifier the filter holds is acknowledged and not applied; one that finds the filter
full comes again. The acknowledgement takes the identifier out, and the lane is done. A time-out or a correctable soft error sends
the request of a lane not done again, and of no other. A read of a future word that is full answers with its value; of an empty
one it waits in the slice, or is refused where 64 wait, inside a deterministic block on a shared line, and for a group that is being
pre-empted (R263). A fill writes the value with the full bit and answers those that wait. -/
def Sys2Proof.Spec.ReductionsAndFutures : Prop := ∀ (s : State) (acc : Nat) (a : Access) (l : LaneAcc),
  let ln := l.key / 128
  let hi := homeOf s ln
  let h := s.home hi
  let plain := a.lanes = [l] ∧ localKind a.space = false ∧ acquires a.order = false ∧ unhindered s a.core ln ∧ serviceOf s ln = none
  let alone := ownerOf s ln = none ∧ (entryOf s ln).targets = [] ∧ l.key % 128 + a.width ≤ 128
  -- REDUCTION_REQUEST
  (∀ fn, a.kind = .reduce fn → laneTodo s acc l.lane = some (a, l) →
    (h.replay.contains (replayIdOf a l.lane) = true → exec (.reductionRequest acc l.lane) s =
      .next { s with agenda := s.agenda ++ [.reductionAckConfirm acc l.lane] }) ∧
    (h.replay.contains (replayIdOf a l.lane) = false → 128 ≤ h.replay.length → exec (.reductionRequest acc l.lane) s =
      .next { s with agenda := s.agenda ++ [.reductionRequest acc l.lane] }) ∧
    (h.replay.contains (replayIdOf a l.lane) = false → h.replay.length < 128 → plain → alone →
      ∃ t, exec (.reductionRequest acc l.lane) s = .next t ∧
        (∃ new, leaves a l (s.mem.readNat l.key a.width) new ∧ t.mem = s.mem.writeNat l.key a.width new) ∧
        (t.home hi).replay = h.replay ++ [replayIdOf a l.lane] ∧ t.agenda = s.agenda ++ [.reductionAckConfirm acc l.lane]) ∧
    -- REDUCTION_ACK_CONFIRM
    (plain → effectivePol s a l = 2 → a.countLc = false → a.countSc = true →
      ∃ t, exec (.reductionAckConfirm acc l.lane) s = .next t ∧ replayIdOf a l.lane ∉ (t.home hi).replay ∧ stored t acc ∧
        t.mem = s.mem) ∧
    -- REDUCTION_REPLAY_TIMEOUT, CORRECTABLE_SOFT_ERROR
    exec (.reductionReplayTimeout acc l.lane) s = .next { s with agenda := s.agenda ++ [.reductionRequest acc l.lane] } ∧
    exec (.correctableSoftError acc l.lane) s = .next { s with agenda := s.agenda ++ [.reductionRequest acc l.lane] }) ∧
  (laneTodo s acc l.lane = none → exec (.reductionReplayTimeout acc l.lane) s = .next s ∧
    exec (.correctableSoftError acc l.lane) s = .next s) ∧
  -- FUTURE_LOAD_REQUEST
  (s.acc? acc = some a → a.kind = .futLoad → plain → l.done = false → l.patch = [] → a.countLc = true → a.countSc = false →
    lineReachable s (dieOfCore a.core) l.key = true → (∀ d ∈ h.deferred, d.acc ≠ acc) →
    let full := futFull (readHome s l.key 8)
    (full = true → ∃ t b, exec (.futureLoadRequest acc l.key) s = .next t ∧ t.acc? acc = some b ∧
      (∃ w, b.lanes = [{ l with done := true, value := readHome s l.key 8 % 2 ^ 32, wts := w }]) ∧
      t.agenda = s.agenda ++ [.loadComplete acc] ∧ t.mem = s.mem) ∧
    (full = false → l.noDefer = false → refusesFutures s a.th = false → h.deferred.length < 64 → exec (.futureLoadRequest acc l.key) s =
      .next (s.setHome hi { h with deferred := h.deferred ++ [{ acc, key := l.key, lanes := [l.lane] }] })) ∧
    (full = false → l.noDefer = true ∨ refusesFutures s a.th = true ∨ 64 ≤ h.deferred.length → ∃ t b, exec (.futureLoadRequest acc l.key) s = .next t ∧
      t.acc? acc = some b ∧ b.lanes = [{ l with done := true, refused := true }] ∧
      t.agenda = s.agenda ++ [.loadComplete acc] ∧ t.mem = s.mem)) ∧
  -- FUTURE_FILL
  (∀ b lb, laneTodo s acc l.lane = some (a, l) → a.kind = .futFill → plain → alone → a.width = 8 → a.countLc = false →
    a.countSc = true → h.deferred = [{ acc := b.id, key := l.key, lanes := [lb.lane] }] → s.acc? b.id = some b → b.id ≠ acc →
    b.lanes = [lb] → lb.done = false → b.countLc = true → b.countSc = false → acquires b.order = false →
    ∃ t, exec (.futureFill acc l.lane) s = .next t ∧
      (∃ new, leaves a l (s.mem.readNat l.key 8) new ∧ t.mem = s.mem.writeNat l.key 8 new) ∧
      (t.home hi).deferred = [] ∧ stored t acc ∧
      (∃ b' w, t.acc? b.id = some b' ∧ b'.lanes = [{ lb with done := true, value := l.data % 2 ^ 32, wts := w }]) ∧
      .loadComplete b.id ∈ t.agenda)

/-- R106, R103, R265: completions. A load that completes writes its destination, takes one from LC and clears the scoreboard of its
registers: the lanes of the access take their values, the other lanes of the register stay, and the tag becomes the type's. A moment
load widens its pairs, makes a NaN canonical and a variance -0 +0 (09 R205); a future load marks its refused lanes in the triple or in
STATUS and leaves their registers (R261). A store that completes takes one from SC. A result of the special-function unit that was pending is written. -/
def Sys2Proof.Spec.Completions : Prop := ∀ (s : State) (id : ThreadId) (th : Thread), s.thread? id = some th →
  (∀ acc a, s.acc? acc = some a → a.th = id → (∀ b ∈ s.accs, b.th = id → b.id = acc) →
    (a.countLc = true → a.countSc = false → ∃ t th', exec (.loadComplete acc) s = .next t ∧ t.thread? id = some th' ∧
      t.acc? acc = none ∧ t.mem = s.mem ∧ th'.lc = th.lc - 1 ∧ th'.sc = th.sc ∧ (∀ p ∈ th'.pend, p.tag ≠ acc) ∧
      th'.regs.pc = th.regs.pc ∧
      (∀ n tag, a.dest = .v n tag → n < 248 → (th'.regs.readV n).tag = tag ∧ (∀ m, m ≠ n → th'.regs.readV m = th.regs.readV m) ∧
        th'.regs.s = th.regs.s ∧ ∀ i, i < 96 →
          (∀ l, a.lanes.find? (fun l => l.lane == i && !l.refused) = some l →
            laneOf (th'.regs.readV n).lanes i = BitVec.ofNat 32 l.value) ∧
          ((∀ l ∈ a.lanes, l.lane ≠ i) → laneOf (th'.regs.readV n).lanes i = laneOf (th.regs.readV n).lanes i)) ∧
      (∀ n ty l, a.dest = .s n ty → n < 60 → a.lanes = [l] → th'.regs.readS n = loadImage ty l.value ∧
        (∀ m, m ≠ n → th'.regs.readS m = th.regs.readS m) ∧ th'.regs.v = th.regs.v) ∧
      (∀ n l, a.dest = .x n → n < 59 → a.lanes = [l] → th'.regs.readX n = BitVec.ofNat 64 l.value ∧
        (∀ m, m ≠ n → m ≠ n + 1 → th'.regs.readS m = th.regs.readS m) ∧ th'.regs.v = th.regs.v) ∧
      (∀ n pairs, a.dest = .m n pairs → (th'.regs.readM n).tag = MOM ∧ (∀ k, k ≠ n → th'.regs.readM k = th.regs.readM k) ∧
        th'.regs.s = th.regs.s ∧ th'.regs.v = th.regs.v ∧ ∀ i, i < 96 →
          (∀ l, a.lanes.find? (fun l => l.lane == i && !l.refused) = some l →
            let x : DWord := BitVec.ofNat 64 l.value
            let mean : Word := if pairs then x.extractLsb' 0 32 else x.extractLsb' 0 16 ++ (0 : BitVec 16)
            let var : Word := if pairs then x.extractLsb' 32 32 else x.extractLsb' 16 16 ++ (0 : BitVec 16)
            laneOf (th'.regs.readM n).mean i = (if nan32 mean then canonicalNaN else mean) ∧
            laneOf (th'.regs.readM n).var i = if nan32 var then canonicalNaN else if var = 0x80000000 then 0 else var) ∧
          ((∀ l ∈ a.lanes, l.lane ≠ i) → laneOf (th'.regs.readM n).mean i = laneOf (th.regs.readM n).mean i ∧
            laneOf (th'.regs.readM n).var i = laneOf (th.regs.readM n).var i)) ∧
      (∀ n z, a.dest = .future n z → z < 58 → th'.regs.m = th.regs.m ∧
        (∀ k, k ≠ z → k ≠ z + 1 → k ≠ z + 2 → th'.regs.readS k = th.regs.readS k) ∧ (∀ i, i < 96 →
        ((th'.regs.readZ z).getLsbD i = true ↔
          (∃ l ∈ a.lanes, l.lane = i ∧ l.refused = true) ∨ (a.cover.getLsbD i = false ∧ (th.regs.readZ z).getLsbD i = true)) ∧
        (n < 248 → (th'.regs.readV n).tag = loadedTag (BitVec.ofNat 4 a.ty) ∧
          (∀ l, a.lanes.find? (fun l => l.lane == i && !l.refused) = some l →
            laneOf (th'.regs.readV n).lanes i = BitVec.ofNat 32 l.value) ∧
          ((∀ l ∈ a.lanes, l.lane = i → l.refused = true) → laneOf (th'.regs.readV n).lanes i = laneOf (th.regs.readV n).lanes i)) ∧
        (248 ≤ n → th'.regs.v = th.regs.v))) ∧
      (∀ n l, a.dest = .sFuture n → a.lanes = [l] → th'.regs.sr = reported th.regs.sr (if l.refused then 7 else 0) ∧
        (l.refused = true ∨ 64 ≤ n → th'.regs.s = th.regs.s) ∧
        (l.refused = false → n < 60 → th'.regs.readS n = BitVec.ofNat 32 l.value ∧
          ∀ m, m ≠ n → th'.regs.readS m = th.regs.readS m))) ∧
    (a.countLc = false → a.countSc = true → ∃ t, exec (.storePerformed acc) s = .next t ∧
      t.thread? id = some { th with sc := th.sc - 1 } ∧ t.acc? acc = none ∧ t.mem = s.mem)) ∧
  (∀ tag r n, th.pend = [{ reg := .v n, tag, val := .v r }] → n < 248 →
    ∃ t th', exec (.pendingWriteComplete id tag) s = .next t ∧ t.thread? id = some th' ∧ th'.pend = [] ∧
      th'.regs.readV n = r ∧ (∀ m, m ≠ n → th'.regs.readV m = th.regs.readV m) ∧ th'.regs.s = th.regs.s)

/-- Reductions and futures at home, and what the completion of an access does. -/
def Obligations.AccessCompletion : Prop := Spec.ReductionsAndFutures ∧ Spec.Completions

/-! ### Base registers, fences and engines -/

/-- R246, R247, R252: `bset` on the value of x[A]: in no region PROT with kind 0 and the address; in global memory the leaf of its
page with LIMIT up to the page's end, or what the translation stops on (PAGE parks; a page on the move and a link are waited for); in a window its kind with LIMIT up to the end
of the group's allocation, after any regroup event of the die. `binv` makes b[D], `binv all` every base register invalid. With ND = 1 no
register is written (03 R74). -/
def Sys2Proof.Spec.BaseRegisters : Prop := ∀ (f : Fields) (s : State),
  let va := (src s).readX f.a.toNat
  let setTo (b : BaseReg) : Thread :=
    if f.nd then s.cur.opened else { s.cur.opened with bases := lset s.cur.opened.bases f.d.toNat b }
  let page (l : Leaf) : BaseReg :=
    { valid := true, kind := .global, vbase := va, leaf := l, limit := l.page + pageBytes l.level - va.toNat }
  let window (k : BaseKind) : BaseReg :=
    { valid := true, kind := k, vbase := va, limit := windowEnd s s.cur.opened k va.toNat - windowOffset k va.toNat
      slot := if k = .cluster then slotOfCore s s.cur.core else none }
  (Issues (.bset f) f s →
    (regionOf va.toNat = none → exec (.bset f) s = .next (takeTrap s s.cur.id PROT 0 va.toNat 0)) ∧
    (regionOf va.toNat = some .global →
      (∀ l s1, lookupFor s s.cur.opened va.toNat = (.ok l, s1) →
        exec (.bset f) s = .next { s with cores := s1.cores, cur := (written s f (setTo (page l)) .none).cur }) ∧
      (∀ pte s1, lookupFor s s.cur.opened va.toNat = (.error (.moving pte), s1) →
        exec (.bset f) s = .next (stall s s.cur.id (.moving pte))) ∧
      (∀ key s1, lookupFor s s.cur.opened va.toNat = (.error (.link key), s1) →
        exec (.bset f) s = .next (stall s s.cur.id (.link key))) ∧
      (∀ code level s1, lookupFor s s.cur.opened va.toNat = (.error (.fault code level), s1) →
        exec (.bset f) s = .next (if code = PAGE then takePark s1 s.cur.id (4 * level) va.toNat 0
          else takeTrap s s.cur.id code (4 * level) va.toNat 0))) ∧
    (∀ k, regionOf va.toNat = some k → k ≠ .global →
      (regroupHeld s s.cur.core 0 k = true → exec (.bset f) s = .next (stall s s.cur.id .regroup)) ∧
      (regroupHeld s s.cur.core 0 k = false → exec (.bset f) s = .next (written s f (setTo (window k)) .none)))) ∧
  (Issues (.binv f) f s → exec (.binv f) s = .next (written s f (setTo {}) .none)) ∧
  (Issues (.binvAll f) f s → Acts (.binvAll f) f s fun th => { th with bases := List.replicate 8 {} })

/-- R265, R233, 14 R303: a fence is in flight behind the accesses of its group, and starts with those that may. With none in flight
it completes at once, but behind a staged entry of its group (20 R392) with an acquire side. If its order has an acquire side, the core's clock moves to the greatest wts read since the last acquire,
and, unless its scope is `.grp`, the core's lease copies go; otherwise nothing but the program counter changes. -/
def Sys2Proof.Spec.Fences : Prop := ∀ (f : Fields) (s : State), Issues (.fence f) f s →
  let scope := f.ax.toNat / 8 % 8
  let c := s.cur.core
  (regroupHeld s c scope .global = true → exec (.fence f) s = .next (stall s s.cur.id .regroup)) ∧
  (regroupHeld s c scope .global = false →
    (∃ t a, exec (.fence f) s = .next (pump t s.cur.id) ∧ t = { written s f s.cur.opened .none with
        serial := s.serial + 1, accs := s.accs ++ [a] } ∧
      a.id = s.serial ∧ a.th = s.cur.id ∧ a.kind = .fence ∧ a.order = f.mo.toNat ∧ a.scope = scope ∧ a.lanes = [] ∧
      a.countLc = false ∧ a.countSc = false) ∧
    (s.accs = [] → (∀ p kn g k, s.cur.id = .grp p kn g → s.kernel? p kn = some k → ∀ e ∈ k.staged, e.gid ≠ g) →
      (acquires f.mo.toNat = false → exec (.fence f) s =
        .next { written s f s.cur.opened .none with serial := s.serial + 1 }) ∧
      (acquires f.mo.toNat = true → ∃ t, exec (.fence f) s = .next t ∧ t.accs = [] ∧ t.mem = s.mem ∧ t.agenda = s.agenda ∧
        t.cur = { (written s f s.cur.opened .none).cur with acqWts := none } ∧
        (t.core c).lclk = (match s.cur.acqWts with
          | some w => if before (s.core c).lclk w then w else (s.core c).lclk
          | none => (s.core c).lclk) ∧
        (scope ≠ 0 → ∀ y ∈ (t.core c).copies, y.tokens ≠ 0))))

/-- Base registers, fences and lease instructions. -/
def Obligations.BaseRegistersAndFences : Prop := Spec.BaseRegisters ∧ Spec.Fences

/-- The engine instructions (17 R343 to R351, 09 R209), each with its engine, the tiles that it writes and the tag that they take,
whether its source tags fit, its scope, and the operation with its operands as read at issue. -/
structure Sys2Proof.EngForm where
  i : Instr
  e : EngineSel
  scope : Nat := 0
  tag : Option Tag := none
  writes : List Nat := []
  tags : Prop := True
  o : EngOpRec

def Sys2Proof.engineForms (f : Fields) (s : State) : List EngForm :=
  let th := s.cur.opened
  let low := f.ei.toNat % 65536
  let high := f.ei.toNat / 65536
  let pitch (x packed : Nat) : Nat := if x = 0 then packed else x
  let x := ((src s).srcS f.ea).toNat
  let scope := f.ax.toNat / 8 % 8
  let pol := f.ax.toNat % 8
  let d := f.d.toNat
  let pair := f.fn = 1
  let two (p : Prop) [Decidable p] (n : Nat) : List Nat := if p then [n, n + 1] else [n]
  let allFit (t : Tag) (ns : List Nat) : Prop := ∀ n ∈ ns, fits t (th.tile n).tag
  let idxFits (v : VReg) : Prop := v.tag = RAW ∨ v.tag = I32 ∨ v.tag = N32
  let o (op : EngOp) : EngOpRec := {
    serial := s.serial, th := s.cur.id, op, carriage := s.cur.carriage.serial, index := s.cur.carriage.nops, iaddr := s.cur.regs.pc
    die := dieOfCore s.cur.core }
  let mul (op : EngOp) (pair : Bool) (a b : Nat) : EngOpRec := { o op with
    tile := d, pair, src := th.engAddr f.a f.b, aux := th.engAddr f.c f.ea, stride0 := pitch low a, stride1 := pitch high b }
  let e := (if f.fn = 1 then 2 else 1) * (if f.ty = 9 then 2 else 4)
  [ { i := .cp f, e := .copy, scope
      o := { o .cp with
        dst := th.engAddr f.d f.a, src := th.engAddr f.b f.c, ext0 := x % 65536, ext1 := x / 65536
        stride0 := pitch high (x % 65536), stride1 := pitch low (x % 65536), pol } },
    { i := .cpq f, e := .copy, scope
      o := { o .cpq with
        dst := th.engAddr f.d f.a, src := th.engAddr f.b f.c, aux := th.engAddr f.eb f.ec, ext0 := x % 65536, ext1 := x / 65536
        stride0 := pitch high (16 * (x % 65536)), stride1 := pitch low (64 * (x % 65536)), mo := f.mo.toNat, pol } },
    { i := .cpg f, e := .copy, scope, tags := idxFits ((src s).srcV f f.ea)
      o := { o .cpg with
        dst := th.engAddr f.d f.a, src := th.engAddr f.b f.c, ext0 := low, ext1 := ((src s).srcS f.eb).toNat
        stride1 := pitch high low, idx := ((src s).srcV f f.ea).lanes, mask := (src s).mask, pol } },
    { i := .tmma f, e := .matrix, tag := some ACC, writes := [d], tags := allFit ACC [d], o := mul .tmma false 64 128 },
    { i := .tmmag f, e := .matrix, tag := some ACC, writes := [d], tags := allFit ACC [d] ∧ idxFits ((src s).srcV f f.eb)
      o := { mul .tmmag false 64 128 with idx := ((src s).srcV f f.eb).lanes, mask := (src s).mask } },
    { i := .tmam f, e := .matrix, tag := some MACC, writes := [d, d + 1], tags := allFit MACC [d, d + 1], o := mul .tmam true 128 128 },
    { i := .tmamm f, e := .matrix, tag := some MACC, writes := [d, d + 1], tags := allFit MACC [d, d + 1], o := mul .tmamm true 128 256 },
    { i := .tzero f, e := .matrix, tag := some (if f.fn = 1 then MACC else ACC), writes := two pair d
      o := { o .tzero with tile := d, pair := f.fn = 1 } },
    { i := .tld f, e := .matrix, tag := some (if f.fn = 1 then MACC else ACC), writes := two pair d
      o := { o .tld with tile := d, pair := f.fn = 1, src := th.engAddr f.a f.b, ty := f.ty.toNat, stride0 := pitch low (64 * e) } },
    { i := .tst f, e := .matrix, tags := allFit (if f.fn = 1 then MACC else ACC) (two pair f.c.toNat)
      o := { o .tst with
        tile := f.c.toNat, pair := f.fn = 1, src := th.engAddr f.a f.b, ty := f.ty.toNat, mo := f.mo.toNat
        stride0 := pitch low (64 * e), seed := (src s).sr.srseed
        seedVar := (src s).sr.srseed ^^^ BitVec.ofNat 32 ((src s).sr.mcr.toNat / 16 * 2 ^ 28) } } ]

/-- R337 to R339: the issue of an engine instruction. A source tag that does not fit raises TAG; an invalid base register BOUNDS of
kind 3; a full engine queue of 8 stalls it. Otherwise its operation enters the queue of its engine with its operands as they are
now, the open carriage counts one member more, the tiles that it will write take their tag at once, and the group goes on. -/
def Obligations.EngineIssue : Prop := ∀ (f : Fields) (s : State), ∀ form ∈ engineForms f s,
  let k := s.core s.cur.core
  let q := k.engQ form.e
  let held := regroupHeld s s.cur.core form.scope .global = true ∨
    ∃ sp ∈ form.o.spans, sp.addr.base.valid = true ∧ regroupHeld s s.cur.core 0 sp.addr.base.kind = true
  let th := { s.cur.opened with carriage := { s.cur.carriage with nops := s.cur.carriage.nops + 1 } }
  Issues form.i f s →
    (¬ form.tags → Raises form.i s TAG 0) ∧
    (form.tags → held → exec form.i s = .next (stall s s.cur.id .regroup)) ∧
    (form.tags → ¬ held →
      ((∃ sp ∈ form.o.spans, sp.addr.base.valid = false) → exec form.i s = .next (takeTrap s s.cur.id BOUNDS 3 0 0)) ∧
      (engineCheck (kernelOf s s.cur.opened) form.o = .ok () → 8 ≤ q.length → exec form.i s = .next (stall s s.cur.id (.engine form.e))) ∧
      (engineCheck (kernelOf s s.cur.opened) form.o = .ok () → q.length < 8 → exec form.i s = .next
        { written s f (match form.tag with
            | some t => th.tagTiles t form.writes
            | none => th) .none with
          serial := s.serial + 1, cores := tset s.cur.core (k.setEngQ form.e (q ++ [form.o])) s.cores }))

/-- R333 to R335, R346: `seal` closes the open carriage, whose token register stays pending until every member has completed, and
opens the next; with 16 incomplete carriages it waits. A carriage that is complete writes its status word: the code and index of
the first failed member, the number of members, and RST in bit 31. After the 10 µs of a pre-emption, the thread's operations leave
the engines and are kept. -/
def Sys2Proof.Spec.Carriages : Prop := ∀ (s : State),
  (∀ f, Issues (.seal f) f s →
    let c := s.cur.carriage
    (16 ≤ (s.cur.sealed.filter fun x => x.finished != x.nops).length → exec (.seal f) s = .next (stall s s.cur.id .carriage)) ∧
    ((s.cur.sealed.filter fun x => x.finished != x.nops).length < 16 → exec (.seal f) s = .next
      { written s f { s.cur.opened with
          carriage := { serial := c.serial + 1 }
          sealed := s.cur.sealed ++ [{ c with token := some f.d.toNat, tag := s.serial }]
          pend := s.cur.pend ++ [{ reg := .s f.d.toNat, tag := s.serial }] } .none with
        serial := s.serial + 1
        agenda := s.agenda ++ if c.finished = c.nops then [.carriageComplete s.cur.id c.serial] else [] })) ∧
  (∀ id th n c d, s.thread? id = some th → th.sealed.find? (fun x => x.serial == n && x.finished == x.nops) = some c →
    c.token = some d → ∃ t th', exec (.carriageComplete id n) s = .next t ∧ t.thread? id = some th' ∧
      th'.regs = th.regs.writeS th.ll d (BitVec.ofNat 32 ((c.fail.map (·.2)).getD 0 + (min 255 ((c.fail.map (·.1)).getD 255)) * 2 ^ 8 +
        min 255 c.nops * 2 ^ 16 + if c.rst then 2 ^ 31 else 0)) ∧
      (∀ p ∈ th'.pend, p.tag ≠ c.tag) ∧ (∀ x ∈ th'.sealed, x.serial ≠ n)) ∧
  (∀ id th, s.thread? id = some th →
    (th.preempt = false → exec (.engineDrainTimeout id) s = .next s) ∧
    (th.preempt = true → ∃ t th', exec (.engineDrainTimeout id) s = .next t ∧ t.thread? id = some th' ∧
      (∀ o ∈ (t.core th.core).copyQ ++ (t.core th.core).matrixQ, o.th ≠ id) ∧
      (∀ o ∈ (s.core th.core).copyQ ++ (s.core th.core).matrixQ, o.th = id → o ∈ th'.cancelled) ∧
      th'.regs = th.regs ∧ t.mem = s.mem))

/-- R339, R340, R343: the run of the engines. The matrix engine takes the operation that is next; a copy of one word within the core
scratchpad has copied it when it is under way; each completes in a later step.
That a copy runs within one step is the model's (log 28), as is the bound of its ranges (log 29). -/
def Sys2Proof.Spec.EngineStart : Prop := ∀ (s : State) (core : Nat) (o : EngOpRec),
  (nextEngOp s core .matrix = some o → exec (.engineOpStart core .matrix) s =
    .next { setEngOp s core .matrix { o with running := true } with agenda := s.agenda ++ [.engineOpComplete core .matrix] }) ∧
  (∀ e, nextEngOp s core e = none → exec (.engineOpStart core e) s = .next s) ∧
  (∀ th, nextEngOp s core .copy = some o → o.op = .cp → o.ext0 = 4 → o.ext1 = 1 → o.done = 0 → s.thread? o.th = some th →
    o.src.base.kind = .scratch → o.dst.base.kind = .scratch →
    ∃ t th', exec (.engineOpStart core .copy) s = .next t ∧ t.thread? o.th = some th' ∧
      th'.scr = th.scr.writeNat (o.dst.scratch 0) 4 (th.scr.readNat (o.src.scratch 0) 4) ∧ th'.regs = th.regs ∧ t.mem = s.mem ∧
      t.agenda = s.agenda ++ [.engineOpComplete core .copy] ∧
      ∃ x ∈ (t.core core).copyQ, x.serial = o.serial ∧ x.running = true ∧ x.done = 1)

/-- Carriages, and an engine operation that starts. -/
def Obligations.EngineOperations : Prop := Spec.Carriages ∧ Spec.EngineStart

/-- R340, R347 to R351, 09 R209, R210: the completion of an operation. It leaves its queue and its carriage counts it; a copy leaves
the tiles as they were. `tmma` and `tmmag` add to each element of the tile the 32 exact products of a row of A and a column of B,
rounded once; `tmmag` takes the rows that its index names, and zeros for inactive lanes. `tmam` and `tmamm` do so for the means,
and for the variances with their own terms, a -0 as +0. `tzero` leaves zeros; `tld` the elements in the scratchpad; `tst` stores the
elements, under `.bf16` each rounded by the mode with its seed (02 R38, R39): no byte outside its rows changes.
That an operation completes in one step is the model's (log 28). -/
def Obligations.EngineResults : Prop := ∀ (s : State) (core : Nat) (e : EngineSel) (o : EngOpRec) (th : Thread),
  ((s.core core).engQ e).find? (fun x => x.running) = some o → s.thread? o.th = some th →
  ∃ t th', exec (.engineOpComplete core e) s = .next t ∧ t.thread? o.th = some th' ∧ th'.regs = th.regs ∧ t.mem = s.mem ∧
    (∀ x ∈ (t.core core).engQ e, x.serial ≠ o.serial) ∧
    (th.carriage.serial = o.carriage → th'.carriage.finished = th.carriage.finished + 1 ∧ th'.sealed = th.sealed) ∧
    (o.op = .cp ∨ o.op = .cpq ∨ o.op = .cpg ∨ o.op = .tst → th'.tiles = th.tiles) ∧
    (o.op ≠ .tst → th'.scr = th.scr) ∧
    let bytes (a : EngAddr) (off n : Nat) : Nat := th.scr.readNat (a.scratch off) n
    let old (i j : Nat) : Nat := (th.tile o.tile).at_ i j
    let new (i j : Nat) : Nat := (th'.tile o.tile).at_ i j
    let oldVar (i j : Nat) : Nat := (th.tile (o.tile + 1)).at_ i j
    let newVar (i j : Nat) : Nat := (th'.tile (o.tile + 1)).at_ i j
    let plus (x : Nat) : Nat := if x = 2 ^ 31 then 0 else x
    let sum (c : Nat) (g : Nat → List (List Nat)) : Nat := fusedProducts c ((List.range 32).map g).flatten % 2 ^ 32
    (∀ i j, i < 64 → j < 64 →
      (o.op = .tmma → new i j = sum (old i j) fun k =>
        [[bytes o.src (i * o.stride0 + 2 * k) 2, bytes o.aux (k * o.stride1 + 2 * j) 2]]) ∧
      (o.op = .tmmag → new i j = sum (old i j) fun k =>
        [[if o.mask.getLsbD i then bytes o.src ((laneOf o.idx i).toNat * o.stride0 + 2 * k) 2 else 0,
          bytes o.aux (k * o.stride1 + 2 * j) 2]]) ∧
      (o.op = .tmam →
        let a (k : Nat) : Nat := bytes o.src (i * o.stride0 + 4 * k) 4
        let b (k : Nat) : Nat := bytes o.aux (k * o.stride1 + 2 * j) 2
        new i j = sum (old i j) (fun k => [[a k % 2 ^ 16, b k]]) ∧
        newVar i j = plus (sum (oldVar i j) (fun k => [[a k / 2 ^ 16 % 2 ^ 16, b k, b k]]))) ∧
      (o.op = .tmamm →
        let a (k : Nat) : Nat := bytes o.src (i * o.stride0 + 4 * k) 4
        let b (k : Nat) : Nat := bytes o.aux (k * o.stride1 + 4 * j) 4
        let mean (x : Nat) : Nat := x % 2 ^ 16
        let var (x : Nat) : Nat := x / 2 ^ 16 % 2 ^ 16
        new i j = sum (old i j) (fun k => [[mean (a k), mean (b k)]]) ∧
        newVar i j = plus (sum (oldVar i j) (fun k => [[var (a k), mean (b k), mean (b k)], [mean (a k), mean (a k), var (b k)],
          [var (a k), var (b k)]]))) ∧
      (o.op = .tzero → new i j = 0 ∧ (o.pair = true → newVar i j = 0)) ∧
      (o.op = .tld → o.pair = false →
        (o.ty = 9 → new i j = loadedElem 9 false (bytes o.src (i * o.stride0 + 2 * j) 2) % 2 ^ 32) ∧
        (o.ty ≠ 9 → new i j = loadedElem o.ty false (bytes o.src (i * o.stride0 + 4 * j) 4) % 2 ^ 32)) ∧
      (o.op = .tld → o.pair = true → o.ty ≠ 9 →
        new i j = loadedElem o.ty false (bytes o.src (i * o.stride0 + 8 * j) 4) % 2 ^ 32 ∧
        newVar i j = loadedElem o.ty true (bytes o.src (i * o.stride0 + 8 * j + 4) 4) % 2 ^ 32)) ∧
    (o.op = .tst → th.scr.wf = true → ∀ a, (∀ i j b, i < 64 → j < 64 → b < tileElem o.pair o.ty → a ≠ o.src.scratch (i * o.stride0 + tileElem o.pair o.ty * j) + b ∧
        (o.pair = true → a ≠ o.src.scratch (i * o.stride0 + tileElem o.pair o.ty * j + tileElem o.pair o.ty / 2) + b)) →
      th'.scr.read a = th.scr.read a) ∧
    (o.op = .tst → th.scr.wf = true → o.pair = false → o.ty ≠ 9 → isNaN 24 (old 63 63) = false →
      th'.scr.readNat (o.src.scratch (63 * o.stride0 + 252)) 4 = old 63 63) ∧
    (o.op = .tst → th.scr.wf = true → o.ty = 9 → o.mo < 5 →
      let stored (off seed x : Nat) (var : Bool) : Prop := ∃ r : BitVec 16,
        convertsTo 10 9 o.mo (BitVec.ofNat 32 seed) (BitVec.ofNat 32 x) r ∧
        th'.scr.readNat (o.src.scratch (63 * o.stride0 + off)) 2 = if var && r == 0x8000 then 0 else r.toNat
      (o.pair = false → stored 126 o.seed.toNat (old 63 63) false) ∧
      (o.pair = true → stored 254 o.seedVar.toNat (oldVar 63 63) true))

/-! ### Scope, clusters and barriers -/

/-- R286 to R294 and 11 R252: scope handles. While a regroup event of the die holds it, a scope instruction waits. `scget` answers
the handle of the core's cluster, of a slot, of a team or of the die; `scq` the members of a handle as a triple, or their count
with slot, die and state; `scfrz` adds one to the group's count for the slot of a live or frozen handle (8 slots on a core, 255
times each) and sets FRZ; `scthaw` takes one away; `bset.clu` binds b[D] to the slot. Each writes STATUS: HANDLE for a malformed
handle, STALE for one that is stale, FULL where no room is left, else OK. -/
def Sys2Proof.Spec.ScopeHandles : Prop := ∀ (f : Fields) (s : State),
  let th := s.cur.opened
  let core := s.cur.core
  let d := dieOfCore core
  let own := partOf s s.cur.id
  let h := (src s).readX f.a.toNat
  let slot := (h.extractLsb' 48 8).toNat
  let kind := (h.extractLsb' 60 3).toNat
  let handle (kind die slot : Nat) (chk : BitVec 24) : DWord :=
    BitVec.ofNat 64 (kind * 2 ^ 60 + die * 2 ^ 56 + slot * 2 ^ 48 + chk.toNat * 2 ^ 24)
  let live (x : Slot) : Prop := x.inUse = true ∧ x.part = own
  let held (freeze : Bool) : Prop := scopeHeld s core freeze = true
  let ends (i : Instr) (th1 : Thread) (code : Nat) (v : Value) : Prop := exec i s = .next (written s f (th1.status code) v)
  let count := s.cur.frozen.find? fun e => e.1 == slot
  (∀ i ∈ [Instr.scget f, .scq f, .bsetClu f], Issues i f s → held false → exec i s = .next (stall s s.cur.id .regroup)) ∧
  (∀ i ∈ [Instr.scfrz f, .scthaw f], Issues i f s → held true → exec i s = .next (stall s s.cur.id .regroup)) ∧
  (Issues (.scget f) f s → ¬ held false →
    let n := ((src s).srcS f.a).toNat
    (f.ax = 0 → (∀ k, slotOfCore s core = some k → ends (.scget f) th stOk (.x (handle 0 d k (s.slot k).code))) ∧
      (slotOfCore s core = none → ends (.scget f) th stOk (.x (handle 0 d 255 0)))) ∧
    (f.ax = 1 → (192 ≤ n → ends (.scget f) th stHandle (.x 0)) ∧
      (n < 192 → live (s.slot n) → ends (.scget f) th stOk (.x (handle 1 (n / 48) n (s.slot n).code))) ∧
      (n < 192 → ¬ live (s.slot n) → ends (.scget f) th stStale (.x (handle 1 (n / 48) n 0)))) ∧
    (f.ax = 2 → (∀ c, teamCode s th (n % 256) = some c → ends (.scget f) th stOk (.x (handle 2 d (n % 256) c))) ∧
      (teamCode s th (n % 256) = none → ends (.scget f) th stStale (.x (handle 2 d (n % 256) 0)))) ∧
    (f.ax = 3 → ends (.scget f) th stOk (.x (handle 3 d 0 0)))) ∧
  (Issues (.scq f) f s → ¬ held false →
    let ms := handleMembers s th h
    let st := handleState s th h
    let code := if st = .stale then stStale else stOk
    (hMalformed h = true → ends (.scq f) th stHandle (if f.ax = 1 then .s 0 else .z 0)) ∧
    (hMalformed h = false → f.ax = 1 → ends (.scq f) th code (.s (BitVec.ofNat 32 (ms.length % 256 + slot * 2 ^ 8 +
      (h.extractLsb' 56 2).toNat * 2 ^ 16 + (match st with
        | .live => 0
        | .frozen => 1
        | .stale => 2) * 2 ^ 18)))) ∧
    (hMalformed h = false → f.ax = 0 → ∃ z, ends (.scq f) th code (.z z) ∧
      ∀ i, i < 96 → (z.getLsbD i = true ↔ ∃ c ∈ ms, dieOfCore c = (h.extractLsb' 56 2).toNat ∧ c % 96 = i))) ∧
  (Issues (.scfrz f) f s → ¬ held true →
    (hMalformed h = true ∨ 1 < kind ∨ slot = 255 → ends (.scfrz f) th stHandle (.x h)) ∧
    (hMalformed h = false → kind ≤ 1 → slot ≠ 255 →
      (handleState s th h = .stale → ends (.scfrz f) th stStale (.x h)) ∧
      (handleState s th h ≠ .stale →
        (∀ e, count = some e → e.2 = 255 → ends (.scfrz f) th stFull (.x h)) ∧
        (∀ e, count = some e → e.2 ≠ 255 → ends (.scfrz f)
          { th with frozen := th.frozen.map fun x => if x.1 == slot then (x.1, x.2 + 1) else x } stOk (.x (h ||| (1#64 <<< 63)))) ∧
        (count = none → 8 ≤ frozenOnCore s core → ends (.scfrz f) th stFull (.x h)) ∧
        (count = none → frozenOnCore s core < 8 →
          ends (.scfrz f) { th with frozen := th.frozen ++ [(slot, 1)] } stOk (.x (h ||| (1#64 <<< 63))))))) ∧
  (Issues (.scthaw f) f s → ¬ held true →
    (hMalformed h = true ∨ 1 < kind ∨ count = none → ends (.scthaw f) th stHandle (.x h)) ∧
    (hMalformed h = false → kind ≤ 1 →
      (∀ e, count = some e → e.2 = 1 → ends (.scthaw f)
        { th with frozen := th.frozen.filter fun x => x.1 != slot } stOk (.x (h &&& ~~~(1#64 <<< 63)))) ∧
      (∀ e, count = some e → e.2 ≠ 1 → ends (.scthaw f)
        { th with frozen := th.frozen.map fun x => if x.1 == slot then (x.1, x.2 - 1) else x } stOk (.x (h ||| (1#64 <<< 63)))))) ∧
  (Issues (.bsetClu f) f s → ¬ held false →
    let bind (b : BaseReg) : Thread := if f.nd then th else { th with bases := lset th.bases f.d.toNat b }
    (hMalformed h = true ∨ 1 < kind ∨ slot = 255 → ends (.bsetClu f) (bind {}) stHandle .none) ∧
    (hMalformed h = false → kind ≤ 1 → slot ≠ 255 →
      (handleState s th h = .stale → ends (.bsetClu f) (bind {}) stStale .none) ∧
      (handleState s th h ≠ .stale → ends (.bsetClu f)
        (bind { valid := true, kind := .cluster, vbase := 0xFD00000000000000, limit := (kernelOf s th).desc.ws, slot := some slot })
        stOk .none)))

/-- R272 to R274, R278, R281, R283: the regroup engine. When a sharing window ends, each die without an event begins the one that
the qualifying proposals call for; the partitions' counts are dropped and their windows begin again. The promotion waits for
writes that are not acknowledged; then a freed slot's window reads as zeros and the event's time runs. At its end the slots
change: a slot filled anew has a new nonzero check code; a freed slot's base registers become invalid.
The time that the event takes uses the model's window bytes (log 48). -/
def Sys2Proof.Spec.RegroupEvents : Prop := ∀ (s : State),
  (∀ parts, ∃ t, exec (.sharingWindowEnd parts) s = .next t ∧ t.mem = s.mem ∧ t.slots = s.slots ∧
    (∀ d, d < 4 → (t.die d).regroup = (match (s.die d).regroup with
      | some r => some r
      | none => regroupOf s d parts)) ∧
    (∀ p ∈ parts, (t.part p).winStart = s.t ∧ (t.part p).winLog = (s.part p).reg.shwin.toNat ∧
      ∀ d, d < 4 → ∀ x ∈ (t.die d).counts, bitSet (s.part p).cores (x.1 / 512) = false)) ∧
  (∀ d r, (s.die d).regroup = some r →
    (r.promoted = true ∨ writesOutstanding s r.affected = true → exec (.regroupPromotion d) s = .next s) ∧
    (r.promoted = false → writesOutstanding s r.affected = false → ∃ t, exec (.regroupPromotion d) s = .next t ∧
      (t.die d).regroup = some { r with promoted := true, endAt := s.t + regroupCycles s r } ∧
      (∀ k, r.freed = [k] → (∀ x ∈ r.sets, x.fresh = false) → ∀ a, 2 ^ 52 + k * 2 ^ 21 ≤ a → a < 2 ^ 52 + k * 2 ^ 21 + 2 ^ 21 →
        t.mem.read a = 0)) ∧
    (r.promoted = false ∨ s.t < r.endAt → exec (.regroupEventEnd d) s = .next s) ∧
    (r.promoted = true → r.endAt ≤ s.t → ∃ t, exec (.regroupEventEnd d) s = .next t ∧ t.mem = s.mem ∧
      (t.die d).regroup = none ∧ (t.die d).lastRegroup = some s.t ∧
      (∀ x, r.sets = [x] → x.fresh = true → r.freed = [] → ∃ c, c ≠ 0 ∧ c ≠ (s.slot x.slot).code ∧
        t.slot x.slot = { inUse := true, part := x.part, members := x.members, code := c }) ∧
      (∀ k, r.freed = [k] → (∀ x ∈ r.sets, x.fresh = false) → (t.slot k).inUse = false ∧ (t.slot k).code = (s.slot k).code ∧
        ∀ th ∈ t.threads, ∀ b ∈ th.bases, b.kind = .cluster → b.slot = some k → b.valid = false)))

/-- Cluster handles and the regroup event. -/
def Obligations.Clusters : Prop := Spec.ScopeHandles ∧ Spec.RegroupEvents

/-- R316 to R323: barriers. An arrival with no team, of no member, with too large a count, twice, or with another count than the open
one, raises BARMISMATCH with its reason; at a RELEASING barrier it stays. A valid arrival opens the barrier, its RETIRED
members counted with it, or adds one to A; with A at E the leave follows. The group goes on past its instruction, among the
waiting parties for `bar`, READY with a record of the phase for `barv`. A member that retires counts as arrived. The leave
closes the barrier, PH rises, and every waiting party goes on, a SAVED one when it is restored. -/
def Sys2Proof.Spec.BarrierEvents : Prop := ∀ (s : State) (p kn n g : Nat) (k : Kernel), s.kernel? p kn = some k →
  let id : ThreadId := .grp p kn g
  (∀ th cnt slot wait, s.thread? id = some th → th.run = .waiting (.barrierArrive n cnt slot wait) →
    let raises (r : Nat) : Prop := exec (.barrierArrival id n) s = .next (takeTrap s id BARMISMATCH r 0 0)
    (k.team? n = none → raises 4) ∧
    (∀ t, k.team? n = some t →
      let m := if cnt = 0 then t.members.length else cnt
      let counting := t.st = .counting
      (t.st = .releasing → exec (.barrierArrival id n) s = .next s) ∧
      (t.st ≠ .releasing →
        (g ∉ t.members → raises 3) ∧
        (g ∈ t.members → t.members.length < m → raises 2) ∧
        (g ∈ t.members → m ≤ t.members.length → counting → g ∈ t.arrived → raises 5) ∧
        (g ∈ t.members → m ≤ t.members.length → counting → g ∉ t.arrived → m ≠ t.e → raises 1) ∧
        (g ∈ t.members → m ≤ t.members.length → (counting → g ∉ t.arrived ∧ m = t.e) →
          let retired := (retiredMembers s p kn t).filter (· != g)
          ∃ u t', exec (.barrierArrival id n) s = .next u ∧ (u.kernel? p kn).bind (·.team? n) = some t' ∧
            (counting → t'.a = t.a + 1) ∧ (¬ counting → t'.a = 1 + retired.length) ∧ t'.e = m ∧ t'.ph = t.ph ∧
            t'.st = (if m ≤ t'.a then .releasing else .counting) ∧ g ∈ t'.arrived ∧
            u.agenda = s.agenda ++ (if m ≤ t'.a then [.barrierLeave p kn n] else []) ∧ u.mem = s.mem ∧
            (wait = true → g ∈ t'.waiting ∧ u.thread? id = some { th.next slot with run := .waiting (.barrier n) }) ∧
            (wait = false → u.thread? id = some { th.next slot with
              run := .ready, arrivals := th.arrivals.filter (fun a => a.team != n) ++ [{ team := n, phase := t.ph }] }))))) ∧
  (∀ t, k.team? n = some t →
    (t.st ≠ .counting ∨ g ∉ t.members ∨ g ∈ t.arrived → exec (.barrierRetirement id n) s = .next s) ∧
    (t.st = .counting → g ∈ t.members → g ∉ t.arrived → ∃ u t', exec (.barrierRetirement id n) s = .next u ∧
      (u.kernel? p kn).bind (·.team? n) = some t' ∧ t'.a = t.a + 1 ∧ g ∈ t'.arrived ∧
      t'.st = (if t.e ≤ t.a + 1 then .releasing else .counting) ∧
      u.agenda = s.agenda ++ if t.e ≤ t.a + 1 then [.barrierLeave p kn n] else []) ∧
    (t.st ≠ .releasing → exec (.barrierLeave p kn n) s = .next s) ∧
    (t.st = .releasing → ∃ u, exec (.barrierLeave p kn n) s = .next u ∧ u.mem = s.mem ∧
      (u.kernel? p kn).bind (·.team? n) =
        some { t with st := .idle, ph := t.ph + 1, e := 0, a := 0, arrived := [], waiting := [] } ∧
      (∀ x ∈ t.waiting, ∀ th, s.thread? (.grp p kn x) = some th →
        let left := th.arrivals.filter fun a => a.team != n
        (th.run = .waiting (.barrier n) → u.thread? (.grp p kn x) = some { th with run := .ready, arrivals := left }) ∧
        (th.run = .saved → u.thread? (.grp p kn x) = some { th with leave := true, arrivals := left }))))

/-- R319, R325 to R328: `bar` and `barv` wait until every earlier access of the group is performed; then their arrival is on its way.
`barw` with no record goes on; with one of an earlier phase it leaves at once, the core's lease copies gone; with one of the open
phase the group waits among the parties. `tmq` answers the team's size, the group's rank in it, the member at a rank, the number
of the group's teams, or the barrier's phase, state and A, and NOTEAM with 0 where the kernel has no such team. -/
def Sys2Proof.Spec.BarrierInstructions : Prop := ∀ (f : Fields) (s : State) (p kn g : Nat), s.cur.id = .grp p kn g →
  let th := s.cur.opened
  let n := f.ax.toNat
  let k := kernelOf s th
  (∀ i wait, (i, wait) ∈ [(Instr.bar f, true), (.barv f, false)] → Issues i f s →
    let c : Cond := .barrierArrive n ((src s).srcBS f).toNat f.len.slot wait
    (quietThread s s.cur.id = false → exec i s = .next (stall s s.cur.id c)) ∧
    (quietThread s s.cur.id = true → exec i s = .next { s with
      cur := { th with run := .waiting c }, agenda := s.agenda ++ [.barrierArrival s.cur.id n] })) ∧
  (Issues (.barw f) f s →
    let t0 := written s f th .none
    let record := s.cur.arrivals.find? fun a => a.team == n
    (record = none → exec (.barw f) s = .next t0) ∧
    (∀ r t, record = some r → k.team? n = some t → t.ph ≠ r.phase → ∃ u, exec (.barw f) s = .next u ∧
      u.cur = { t0.cur with arrivals := s.cur.arrivals.filter fun a => a.team != n } ∧
      (∀ y ∈ (u.core s.cur.core).copies, y.tokens ≠ 0) ∧ u.mem = s.mem ∧ u.parts = s.parts) ∧
    (∀ r t, record = some r → k.team? n = some t → t.ph = r.phase → s.kernel? p kn = some k → ∃ u, exec (.barw f) s = .next u ∧
      u.cur = { t0.cur with run := .waiting (.barrier n) } ∧ u.mem = s.mem ∧
      (u.kernel? p kn).bind (·.team? n) = some { t with waiting := t.waiting ++ [g] })) ∧
  (Issues (.tmq f) f s →
    let x := ((src s).srcS f.a).toNat
    let ends (code : Nat) (v : Nat) : Prop := exec (.tmq f) s = .next (written s f (th.status code) (.s (BitVec.ofNat 32 v)))
    (n = 3 → ends stOk (k.teams.filter fun t => t.members.contains g).length) ∧
    (n ≠ 3 → (256 ≤ x ∨ k.team? x = none → ends stNoTeam 0)) ∧
    (∀ t, x < 256 → k.team? x = some t →
      (n = 0 → ends stOk t.members.length) ∧
      (n = 1 → ends stOk ((t.members.findIdx? fun m => m == g).getD 0xFFFFFFFF)) ∧
      (n = 2 → ends stOk (t.members.getD ((src s).srcBS f).toNat 0xFFFFFFFF)) ∧
      (n = 4 → ends stOk (t.ph.toNat + 2 ^ 16 * (match t.st with
        | .idle => 0
        | .counting => 1
        | .releasing => 2) + 2 ^ 18 * (t.a % 2 ^ 14)))))

/-- R314 to R323: barriers, their events and instructions. -/
def Obligations.Barriers : Prop := Spec.BarrierEvents ∧ Spec.BarrierInstructions

/-! ### Queues -/

/-- Nothing of the queue is due to age (19 R362). -/
def Sys2Proof.settledQueue (s : State) (q : Queue) : Prop := ∀ l, l < 4 → ∀ c ∈ q.level l, s.mesh < c.since + 2 ^ 20

/-- A queue that is ACTIVE, not stream-ordered, with nothing due and no popper waiting. -/
def Sys2Proof.plainQueue (s : State) (q : Queue) : Prop :=
  q.st = .active ∧ q.stream = false ∧ settledQueue s q ∧ q.waiters = [] ∧ q.levels.length = 4

/-- The cart in the eight registers from s n on. -/
def Sys2Proof.cartAt (s : State) (n : Nat) : List Word := (List.range 8).map fun i => (src s).readS (n + i)

/-- PRIO of a cart: bits [9:8] of its word 0 (R353). -/
def Sys2Proof.prioOf (ws : List Word) : Nat := ((ws.getD 0 0).extractLsb' 8 2).toNat

/-- The instruction ends with a STATUS code and a result. -/
def Sys2Proof.Ends (i : Instr) (f : Fields) (s : State) (th : Thread) (code : Nat) (v : Value) : Prop :=
  exec i s = .next (written s f (th.status code) v)

/-- R371: `qpush` waits until the group's accesses are performed. A handle that is malformed, without the right, or stale ends with
its code; a DRAINING queue with CLOSED, a full level with FULL. Otherwise the cart joins the tail of the level of its PRIO with
STATUS OK and nothing else changes; where a popper waits at the empty queue, it receives the cart and goes on. -/
def Sys2Proof.Spec.QueuePush : Prop := ∀ (f : Fields) (s : State), Issues (.qpush f) f s →
  let i := Instr.qpush f
  let th := s.cur.opened
  let h := (src s).readX f.a.toNat
  let ws := cartAt s f.c.toNat
  let found := findQueue s (partOf s s.cur.id) h (h.getLsbD 40)
  (quietThread s s.cur.id = false → exec i s = .next (stall s s.cur.id .quiet)) ∧
  (quietThread s s.cur.id = true →
    (∀ c, found = .error c → Ends i f s th c .none) ∧
    (∀ q, found = .ok q →
      (q.st = .draining → Ends i f s th stClosed .none) ∧
      (plainQueue s q → 2 ^ q.cap ≤ (q.level (prioOf ws)).length → Ends i f s th stFull .none) ∧
      (plainQueue s q → (q.level (prioOf ws)).length < 2 ^ q.cap → ∃ aged, exec i s =
        .next { written s f (th.status stOk) .none with
          queues := (s.setQueue { q.setLevel (prioOf ws) (q.level (prioOf ws) ++ [{ words := ws, since := s.mesh }]) with
            agedTo := aged }).queues }) ∧
      (∀ id d w, q.st = .active → q.stream = false → q.levels = [[], [], [], []] → q.waiters = [(id, d)] → popsHeld s q = false →
        s.thread? id = some w → w.run = .waiting (.cart q.id d) → id ≠ s.cur.id → d + 7 < 60 →
        ∃ t w' q', exec i s = .next t ∧ t.thread? id = some w' ∧ w'.run = .ready ∧ w'.regs.pc = w.regs.pc + 8 ∧
          (∀ n, n < 8 → w'.regs.readS (d + n) = ws.getD n 0) ∧ w'.regs.sr.statusLast = 0 ∧
          t.queue? q.id = some q' ∧ q'.levels = [[], [], [], []] ∧ q'.waiters = [] ∧
          t.cur = (written s f (th.status stOk) .none).cur)))

/-- What a pop on queue q does (R362, R367, R372): a group that holds a stream ends with HELD at a stream-ordered queue. It
receives the head of the highest level, with STATUS OK, the core's lease copies gone; at an empty queue it ends with EMPTY, or
CLOSED where the queue drains, or waits. Pops that are held find nothing. -/
def Sys2Proof.Pops (i : Instr) (f : Fields) (s : State) (th : Thread) (q : Queue) (once : Bool) : Prop :=
  (q.stream = true → th.stream ≠ none → Ends i f s th stHeld .none) ∧
  (∀ l c cs, plainQueue s q → popsHeld s q = false → l < 4 → q.level l = c :: cs → (∀ m, l < m → m < 4 → q.level m = []) →
    f.d.toNat + 7 < 60 → c.words.length = 8 →
    ∃ t q', exec i s = .next t ∧ (∀ n, n < 8 → t.cur.regs.readS (f.d.toNat + n) = c.words.getD n 0) ∧
      (∀ n, n < f.d.toNat ∨ f.d.toNat + 8 ≤ n → t.cur.regs.readS n = th.regs.readS n) ∧ t.cur.regs.sr.statusLast = 0 ∧
      t.cur.regs.pc = th.regs.pc + 8 ∧ t.cur.run = .ready ∧ t.mem = s.mem ∧ t.others = s.others ∧
      t.queue? q.id = some q' ∧ q'.level l = cs ∧ (∀ m, m ≠ l → q'.level m = q.level m) ∧
      (∀ y ∈ (t.core s.cur.core).copies, y.tokens ≠ 0)) ∧
  (q.stream = false → (q.st = .active ∨ q.st = .draining) → (q.levels = [[], [], [], []]) →
    (once = true → Ends i f s th stEmpty .none) ∧
    (once = false → q.st = .draining → popsHeld s q = false → Ends i f s th stClosed .none) ∧
    (once = false → q.st = .active → exec i s = .next { s with
      cur := { th with run := .waiting (.cart q.id f.d.toNat) }
      queues := (s.setQueue { q with waiters := q.waiters ++ [(s.cur.id, f.d.toNat)] }).queues }))

/-- R365, R372, R374: `qpop` on a queue by handle; on the queue of the group's stage, to which the group then subscribes, STAGE taking
the pending stage; and on the data queue of its kernel on its core. -/
def Sys2Proof.Spec.QueuePop : Prop := ∀ (f : Fields) (s : State), Issues (.qpop f) f s →
  let i := Instr.qpop f
  let th := s.cur.opened
  let once := f.ax.toNat % 2 == 1
  let byHandle (th : Thread) (h : DWord) : Prop :=
    (∀ c, findQueue s (partOf s s.cur.id) h (h.getLsbD 41) = .error c → Ends i f s th c .none) ∧
    (∀ q, findQueue s (partOf s s.cur.id) h (h.getLsbD 41) = .ok q → Pops i f s th q once)
  (f.ax.toNat < 2 → byHandle th ((src s).readX f.a.toNat)) ∧
  (∀ k, s.cur.id = .sys k → 2 ≤ f.ax.toNat → Raises i s ILLEGAL 0) ∧
  (∀ p kn g, s.cur.id = .grp p kn g →
    (f.ax.toNat = 2 ∨ f.ax.toNat = 3 →
      let th1 := { th with subscribed := true, regs := { th.regs with sr := { th.regs.sr with stage := th.pendingStage } } }
      let h := ((kernelOf s th).stages.getD th.pendingStage.toNat {}).handle
      (h = 0 → Ends i f s th1 stHandle .none) ∧ (h ≠ 0 → byHandle th1 h)) ∧
    (f.ax.toNat = 4 ∨ f.ax.toNat = 5 → Pops i f s th ((s.queue? (.data p kn s.cur.core)).getD (freshQueue (.data p kn s.cur.core) p)) once))

/-- Carts pushed to and popped from queues. -/
def Obligations.QueueTransfers : Prop := Spec.QueuePush ∧ Spec.QueuePop

/-- R368, R373 to R376: `qdone` releases the stream that the group holds on the queue, and ends with NOTHELD where it holds none
there. `qspawn` puts the cart into the data queue of the core that the address names. `qjoin` takes one from the COUNT of the join
record: it answers the old COUNT, with UNDERFLOW and no write at 0, and
pushes the record's cart at 1. `qstat` answers carts, state, drops or streams. The three that are releases wait until the group's accesses
are performed; `qjoin` counts in SC (04 R106), so that it waits at 63 of them too, and for a regroup event under scope `.clu` (13 R279). -/
def Sys2Proof.Spec.QueueOthers : Prop := ∀ (f : Fields) (s : State),
  let th := s.cur.opened
  let p := partOf s s.cur.id
  let h := (src s).readX f.a.toNat
  (∀ i ∈ [Instr.qdone f, .qspawn f], Issues i f s → quietThread s s.cur.id = false → exec i s = .next (stall s s.cur.id .quiet)) ∧
  (Issues (.qjoin f) f s →
    (63 ≤ s.cur.sc → exec (.qjoin f) s = .next (stall s s.cur.id (.counter false true))) ∧
    (s.cur.sc < 63 → quietThread s s.cur.id = false → exec (.qjoin f) s = .next (stall s s.cur.id .quiet)) ∧
    (s.cur.sc < 63 → quietThread s s.cur.id = true → regroupHeld s s.cur.core (f.ax.toNat / 8 % 8) .global = true →
      exec (.qjoin f) s = .next (stall s s.cur.id .regroup))) ∧
  (Issues (.qdone f) f s → quietThread s s.cur.id = true →
    (∀ c, findQueue s p h (h.getLsbD 41) = .error c → Ends (.qdone f) f s th c .none) ∧
    (∀ q, findQueue s p h (h.getLsbD 41) = .ok q →
      ((∀ x, s.cur.stream ≠ some (q.id, x)) → Ends (.qdone f) f s th stNotHeld .none) ∧
      (∀ x, s.cur.stream = some (q.id, x) → q.st = .active → q.waiters = [] →
        exec (.qdone f) s = .next { written s f { th.status stOk with stream := none } .none with
          queues := (s.setQueue { q with held := q.held.filter fun e => !(e.2 == s.cur.id) }).queues }))) ∧
  (Issues (.qspawn f) f s → quietThread s s.cur.id = true → ∀ pt kn g r l q, s.cur.id = .grp pt kn g →
    resolve s th (base f s) { perm := .load, width := 1, align := 1, writes := false } 0 true [(0, ((src s).srcBS f).toNat)] = .ok r →
    r.page = none → r.lanes = [l] →
    let ws := cartAt s f.c.toNat
    let qid : QueueId := .data pt kn (dataCore s s.cur.id (spawnCore s th (base f s).kind l.key))
    (s.queue? qid).getD (freshQueue qid pt) = q → plainQueue s q → (q.level (prioOf ws)).length < 2 ^ q.cap →
    ∃ t q', exec (.qspawn f) s = .next t ∧ t.queue? qid = some q' ∧
      q'.level (prioOf ws) = q.level (prioOf ws) ++ [{ words := ws, since := s.mesh }] ∧
      t.cur = (written s f (th.status stOk) .none).cur ∧ t.mem = s.mem) ∧
  (Issues (.qjoin f) f s → s.cur.sc < 63 → quietThread s s.cur.id = true →
    regroupHeld s s.cur.core (f.ax.toNat / 8 % 8) .global = false →
    let off := ((src s).srcBS f).toNat
    let b := base f s
    (b.valid = true → (b.ea off).toNat % 64 = 0 → b.kind ≠ .global → b.kind ≠ .chip →
      exec (.qjoin f) s = .next (takeTrap s s.cur.id BOUNDS 1 (b.ea off).toNat 0)) ∧
    (∀ r l, b.kind = .global ∨ b.kind = .chip → resolve s th b { perm := .store, width := 4, align := 64, writes := true } 2 true
        [(0, off)] = .ok r → r.page = none → r.lanes = [l] →
      let ln := l.key / 128
      lineReachable r.st (dieOfCore s.cur.core) l.key = true → unhindered s s.cur.core ln → ownerOf s ln = none → (entryOf s ln).targets = [] → copy? s s.cur.core ln = none →
      l.key % 128 + 4 ≤ 128 →
      let old := s.mem.readNat l.key 4
      (old = 0 → ∃ t, exec (.qjoin f) s = .next t ∧ t.cur = (written s f (th.status stUnderflow) (.s 0)).cur ∧ t.mem = s.mem) ∧
      (2 ≤ old → s.cur.resv = none → ∃ t, exec (.qjoin f) s = .next t ∧
        t.cur = (written s f (th.status stOk) (.s (BitVec.ofNat 32 old))).cur ∧ t.mem = s.mem.writeNat l.key 4 (old - 1)) ∧
      (old = 1 → s.cur.resv = none → s.mem.wf = true → l.key % 128 + 64 ≤ 128 →
        let h := BitVec.ofNat 64 (s.mem.readNat (l.key + 8) 8)
        let ws := (List.range 8).map fun n => BitVec.ofNat 32 (s.mem.readNat (l.key + 32 + 4 * n) 4)
        (∀ c, findQueue s p h (h.getLsbD 40) = .error c → ∃ t, exec (.qjoin f) s = .next t ∧
          t.cur = (written s f (th.status c) (.s 1)).cur ∧ t.mem = s.mem.writeNat l.key 4 0) ∧
        (∀ q, findQueue s p h (h.getLsbD 40) = .ok q → plainQueue s q → (q.level (prioOf ws)).length < 2 ^ q.cap →
          ∃ t q', exec (.qjoin f) s = .next t ∧ t.cur = (written s f (th.status stOk) (.s 1)).cur ∧
            t.mem = s.mem.writeNat l.key 4 0 ∧ t.queue? q.id = some q' ∧
            q'.level (prioOf ws) = q.level (prioOf ws) ++ [{ words := ws, since := s.mesh }])))) ∧
  (Issues (.qstat f) f s →
    (∀ c, findQueue s p h (h.getLsbD 42) = .error c → Ends (.qstat f) f s th c (.s 0)) ∧
    (∀ q, findQueue s p h (h.getLsbD 42) = .ok q → Ends (.qstat f) f s th stOk (.s (match f.ax.toNat with
      | 0 => BitVec.ofNat 32 q.count
      | 1 => if q.st = .active then 1 else if q.st = .swapped then 2 else 3
      | 2 => q.drops
      | _ => BitVec.ofNat 32 q.held.length))))

/-- R358, R360, R362, R366: the commands of QCMD leave INDEX and a result code: STALE for a queue that is not the partition's. CREATE
on a FREE or DESTROYED queue whose descriptor is legal leaves it ACTIVE and empty under a new nonzero check code, and its handle
in QRES. SWAP, UNSWAP, DRAIN and DISCARD lead from the states that R360 gives them and end with CLOSED from any other; the other
codes end with HANDLE. A cart due to age joins the next level. The governor moves a group of the least loaded low stage, the one
with the greatest GID, to the most loaded high one. -/
def Sys2Proof.Spec.QueueCommands : Prop := ∀ (s : State) (p i : Nat),
  let x := s.part p
  let mine := x.qbase ≤ i ∧ i < x.qbase + x.qnum
  let q := (s.queue? (.table i)).getD { id := .table i, part := p }
  let ends (e : Instr) (code : Nat) (st : QState → Prop) : Prop := ∃ t, exec e s = .next t ∧
    (t.part p).reg.qcmdIndex = BitVec.ofNat 16 i ∧ (t.part p).reg.qcmdRes = BitVec.ofNat 8 code ∧ ∀ q', t.queue? (.table i) = some q' → st q'.st
  let same (st : QState) : Prop := st = q.st
  (∀ e ∈ [Instr.qcmdCreate p i, .qcmdSwap p i, .qcmdUnswap p i, .qcmdDrain p i, .qcmdDiscard p i, .qcmdNone p i],
    ¬ mine → ends e stStale same) ∧
  (mine →
    ends (.qcmdNone p i) stHandle same ∧
    (q.st ≠ .free → q.st ≠ .destroyed → ends (.qcmdCreate p i) stClosed same) ∧
    (q.st = .free ∨ q.st = .destroyed →
      (readQueueDesc s p i q = none → ends (.qcmdCreate p i) stHandle same) ∧
      (∀ q1, readQueueDesc s p i q = some q1 → (unitActive s (i % 4)).length < 1024 → ∃ t c,
        exec (.qcmdCreate p i) s = .next t ∧ c ≠ 0 ∧ c ≠ q.code ∧ t.queue? (.table i) = some { q1 with code := c } ∧
        q1.st = .active ∧ q1.levels = [[], [], [], []] ∧ (t.part p).reg.qcmdRes = 0 ∧
        (t.part p).reg.qres = BitVec.ofNat 64 (7 * 2 ^ 40 + c.toNat * 2 ^ 16 + i))) ∧
    (q.st ≠ .active → ends (.qcmdSwap p i) stClosed same) ∧
    (q.st ≠ .swapped → ends (.qcmdUnswap p i) stClosed same) ∧
    (q.st ≠ .active → q.st ≠ .swapped → ends (.qcmdDrain p i) stClosed same) ∧
    (q.st ≠ .active → q.st ≠ .swapped → q.st ≠ .draining → ends (.qcmdDiscard p i) stClosed same) ∧
    (s.queue? (.table i) = some q →
      (q.st = .active → ends (.qcmdSwap p i) stOk fun st => st = .swapped) ∧
      (q.st = .swapped → (unitActive s (i % 4)).length < 1024 → ends (.qcmdUnswap p i) stOk fun st => st = .active) ∧
      (q.st = .active ∨ q.st = .swapped →
        (q.count ≠ 0 ∨ q.held ≠ [] → ends (.qcmdDrain p i) stOk fun st => st = .draining) ∧
        (q.count = 0 → q.held = [] → ends (.qcmdDrain p i) stOk fun st => st = .destroyed)) ∧
      (q.st = .active ∨ q.st = .swapped ∨ q.st = .draining → q.held = [] → q.waiters = [] →
        ∃ t, exec (.qcmdDiscard p i) s = .next t ∧ (t.part p).reg.qcmdRes = 0 ∧
          t.queue? (.table i) = some { q with st := .destroyed, levels := [[], [], [], []] }))) ∧
  (∀ q l c cs, s.queue? q.id = some q → q.st = .active → q.stream = false → q.waiters = [] → q.levels.length = 4 → l < 3 →
    q.level l = c :: cs → c.since + 2 ^ 20 ≤ s.mesh → (q.level (l + 1)).length < 2 ^ q.cap →
    exec (.queueAging q.id l) s = .next (s.setQueue ((q.setLevel l cs).setLevel (l + 1) (q.level (l + 1) ++ [{ c with since := s.mesh }])))) ∧
  (∀ kn k a o low ol g st sl, s.kernel? p kn = some k → a < 16 → low < 16 → a ≠ low →
    k.stages[a]? = some st → stageOcc s p st = some o → st.high.toNat ≤ o →
    (∀ j y n, j < 16 → j ≠ a → k.stages[j]? = some y → stageOcc s p y = some n → y.high.toNat ≤ n → n < o ∨ (n = o ∧ a < j)) →
    k.stages[low]? = some sl → stageOcc s p sl = some ol → ol ≤ sl.low.toNat → 2 ≤ (stageGroups s p kn low).length →
    (∀ j y n, j < 16 → j ≠ low → k.stages[j]? = some y → stageOcc s p y = some n → n ≤ y.low.toNat →
      2 ≤ (stageGroups s p kn j).length → ol < n ∨ (n = ol ∧ low < j)) →
    g ∈ stageGroups s p kn low → (∀ x ∈ stageGroups s p kn low, x ≤ g) →
    exec (.governorEval p kn) s = .next (s.onThread (.grp p kn g) fun th => { th with pendingStage := BitVec.ofNat 4 a }))

/-- The other queue instructions and the queue commands. -/
def Obligations.QueueManagement : Prop := Spec.QueueOthers ∧ Spec.QueueCommands

/-! ### Kernels -/

/-- A launch that waited ends with a STATUS code and a result (R397). -/
def Sys2Proof.launchReply (th : Thread) (code : Nat) (d : Option Nat) (v : Word) : Thread :=
  let r := (th.answer 8).regs.setStatus code
  { th.answer 8 with regs := match d with
    | some n => r.writeS th.ll n v
    | none => r }

/-- R384, R396, R397: `klaunch` and `depart` raise ALIGN at a descriptor that is not a multiple of 32, wait until the group's accesses
are performed, wait while the page of the descriptor or its parameter block is on the move or behind a link that is not UP, raise PROT
or park with an empty triple where one of them cannot be loaded, and otherwise hand the launch to the launch unit of the partition and wait. A write of KLDB does the same and clears VALID. -/
def Sys2Proof.Spec.Launching : Prop := ∀ (f : Fields) (s : State),
  let th := s.cur.opened
  let desc := (src s).readX f.a.toNat
  let asked (s : State) (p : Nat) (r : Launch) : State := { s with
    parts := (s.setPart p { s.part p with launches := (s.part p).launches ++ [r] }).parts, agenda := s.agenda ++ [.launchAccept p] }
  (∀ i time, (i, time) ∈ [(Instr.klaunch f, none), (.depart f, some ((src s).readX f.b.toNat))] → Issues i f s →
    let p := partOf s s.cur.id
    let d := if f.nd then none else some f.d.toNat
    (desc.toNat % 32 ≠ 0 → exec i s = .next (takeTrap s s.cur.id ALIGN 0 desc.toNat 0)) ∧
    (desc.toNat % 32 = 0 → quietThread s s.cur.id = false → exec i s = .next (stall s s.cur.id .quiet)) ∧
    (∀ c, desc.toNat % 32 = 0 → quietThread s s.cur.id = true → launchWait s p th.ctx desc = some c →
      exec i s = .next (stall s s.cur.id c)) ∧
    (desc.toNat % 32 = 0 → quietThread s s.cur.id = true → launchWait s p th.ctx desc = none →
      (regionOf desc.toNat ≠ some .global → exec i s = .next (takeTrap s s.cur.id PROT 0 desc.toNat 0)) ∧
      (∀ code level va, probeLaunch s p th.ctx desc = some (code, level, va) → exec i s = .next
        (if code = PAGE then takePark s s.cur.id (4 * level) va 0 else takeTrap s s.cur.id code (4 * level) va 0)) ∧
      (probeLaunch s p th.ctx desc = none → exec i s =
        .next { asked s p { desc, ctx := th.ctx, time, by_ := .thread s.cur.id d } with
          cur := { th with run := .waiting (.launch d) } }))) ∧
  (∀ p, exec (.kldbLaunch p desc) s =
    .next (asked (s.setPart p { s.part p with reg := { (s.part p).reg with klValid := false } }) p
      { desc, ctx := (s.part p).reg.pctx.toNat, time := none, by_ := .kldb }))

/-- R380 to R384, R397, 17 R331, 21 R413, 24 R444: nothing is placed while BANKROLE changes, or while what the launch unit reads waits for a page on
the move or a link. A launch that is refused leaves the kernels as they are and
answers its code: at KLDB in RES, to a thread as its STATUS with 0xFFFFFFFF. One that is accepted takes the lowest free kernel
number and forms its NG groups, each on its core with the parameters, the launched lanes, the entry and the windows that the
descriptor names, READY or, for a departure, FORMING. A descriptor that cannot be read or is not aligned is refused with BADDESC. -/
def Sys2Proof.Spec.LaunchAnswers : Prop := ∀ (s : State) (p : Nat),
  let x := s.part p
  (x.launches = [] ∨ x.newRole ≠ none → exec (.launchAccept p) s = .next s) ∧
  (∀ r rs, x.launches = r :: rs → x.newRole = none →
    let s1 := s.setPart p { x with launches := rs }
    (launch s1 p r = .error WAITS → exec (.launchAccept p) s = .next s) ∧
    (∀ code, launch s1 p r = .error code → code ≠ WAITS →
      (r.by_ = .kldb → exec (.launchAccept p) s = .next (s.setPart p { x with
        launches := rs, reg := { x.reg with klRes := BitVec.ofNat 8 code, klValid := true } })) ∧
      (∀ id d th, r.by_ = .thread id d → s.thread? id = some th → th.run = .waiting (.launch d) →
        exec (.launchAccept p) s = .next (s1.setThread (launchReply th code d 0xFFFFFFFF)))) ∧
    (∀ c, hwBytes s1 p r.ctx r.desc.toNat 160 = .error c → launch s1 p r = .error (if c = WAITS then WAITS else stBadDesc)) ∧
    (∀ bs, hwBytes s1 p r.ctx r.desc.toNat 160 = .ok bs → r.desc.toNat % 32 ≠ 0 → launch s1 p r = .error stBadDesc) ∧
    (∀ kn s2, launch s1 p r = .ok (kn, s2) →
      (∀ t, r.time = some t → checkDue t ((s2.part p).gt.now s2) = false) → (∀ th ∈ s.threads, ofKernel p kn th.id = false) →
      ∃ t bs k off size, exec (.launchAccept p) s = .next t ∧
        hwBytes s1 p r.ctx r.desc.toNat 160 = .ok bs ∧ k.desc = descOf bs ∧ k.ctx = r.ctx ∧ k.depart = r.time ∧ k.ct = 0 ∧
        readHeader s1 p r.ctx k.desc = .ok (size, off) ∧ k.entry = k.desc.code + BitVec.ofNat 64 off ∧
        readParams s1 p r.ctx k.desc = .ok k.params ∧ readTeams s1 p r.ctx k.desc = .ok (k.teams.map fun y => { y with code := 0 }) ∧
        kn < 64 ∧ s.kernel? p kn = none ∧ (∀ m, m < kn → s.kernel? p m ≠ none) ∧ t.kernel? p kn = some k ∧
        (∀ m, m ≠ kn → t.kernel? p m = s.kernel? p m) ∧
        (∀ g, g < k.desc.ng → ∃ th ∈ t.others, th.id = .grp p kn g ∧ th.ctx = r.ctx ∧ th.core = k.cores.getD g 0 ∧
          th.run = (if r.time.isSome then .forming else .ready) ∧ th.regs.pc = k.entry ∧
          th.ll = BitVec.ofNat 96 (2 ^ k.desc.lanes - 1) ∧ th.regs.mask = th.ll ∧
          (∀ n, n < 60 → th.regs.readS n = k.params.getD n 0) ∧ th.regs.v.length = 8 * k.desc.v8 ∧ th.regs.m.length = k.desc.m ∧
          th.nTiles = k.desc.t ∧ th.scrSize = k.desc.scr) ∧
        (r.by_ = .kldb → (t.part p).reg.klRes = 0 ∧ (t.part p).reg.klValid = true ∧
          (t.part p).reg.klKn = BitVec.ofNat 6 kn) ∧
        (∀ id d th, r.by_ = .thread id d → s.thread? id = some th → th.run = .waiting (.launch d) → th.resv = none →
          t.thread? id = some (launchReply th 0 d (BitVec.ofNat 32 kn)))))

/-- Nothing of the kernel is left: its number is free, and its threads and data queues are gone (R388). -/
def Sys2Proof.freed (t : State) (p kn : Nat) : Prop :=
  t.kernel? p kn = none ∧ (∀ th ∈ t.threads, ofKernel p kn th.id = false) ∧
  (∀ q ∈ t.queues, ∀ c, q.id ≠ .data p kn c)

/-- R386, R388, R389, R391: a kernel ends when every group of it is RETIRED, no staged entry is left, and no departure waits: it
leaves nothing, and under DONE = 0 it writes nothing; else the record at DONE takes the time and the status, and the memory holds it; where that record's page is on
the move or behind a link that is not UP, the end waits.
A Kill retires its groups and ends it. A departure
whose check finds a placed core unsynchronised leaves nothing either; otherwise it awaits its time, and on each core, once that is
reached, its FORMING groups become READY. The free number of no kernel does nothing. -/
def Sys2Proof.Spec.KernelEnds : Prop := ∀ (s : State) (p kn : Nat),
  (s.kernel? p kn = none → ∀ c, ∀ e ∈ [Instr.kernelEnd p kn, .kctlKill p kn, .departureCheck p kn, .departureFire p kn c],
    exec e s = .next s) ∧
  (∀ k, s.kernel? p kn = some k →
    (¬ (allRetired s p kn = true ∧ k.staged = [] ∧ (k.depart = none ∨ k.killed = true)) → exec (.kernelEnd p kn) s = .next s) ∧
    ((∃ th ∈ s.threads, ofKernel p kn th.id = false) →
      (allRetired s p kn = true → k.staged = [] → (k.depart = none ∨ k.killed = true) →
        (recordWaits s p k = true → exec (.kernelEnd p kn) s = .next (s.setKernel p kn { k with ending := true })) ∧
        (k.desc.done = 0 → ∃ t, exec (.kernelEnd p kn) s = .next t ∧ freed t p kn ∧ t.mem = s.mem ∧
          (∀ m, m ≠ kn → t.kernel? p m = s.kernel? p m) ∧ (∀ th ∈ s.threads, ofKernel p kn th.id = false → th ∈ t.threads)) ∧
        (∀ key, k.desc.done ≠ 0 → recordWaits s p k = false → s.mem.wf = true → s.msgs = [] → key % 128 + 16 ≤ 128 →
          ownerOf s (key / 128) = none → (entryOf s (key / 128)).targets = [] →
          (s.home (homeOf s (key / 128))).hasEntry (key / 128) = true →
          let now := ((s.part p).gt.now s).toNat
          let s1 := freeKernelState s p kn
          kn < 64 → hwKey s1 p k.ctx {} k.desc.done.toNat .store = .ok key → hwKey s1 p k.ctx {} (k.desc.done.toNat + 8) .store = .ok (key + 8) →
          hwKey (writeHome s1 key (leBytes 8 now) none).1 p k.ctx {} (k.desc.done.toNat + 8) .store = .ok (key + 8) →
          ∃ t, exec (.kernelEnd p kn) s = .next t ∧ freed t p kn ∧ t.mem.readNat key 8 = now ∧
            t.mem.readNat (key + 8) 8 = (if k.killed then stKilled else 0) + kn * 2 ^ 8 + 2 ^ 63)) ∧
      (k.desc.done = 0 → s.accs = [] → (s.threads.map (·.id)).Nodup → (∀ th ∈ s.threads, ofKernel p kn th.id = true → th.stream = none) →
        ∃ t, exec (.kctlKill p kn) s = .next t ∧ freed t p kn ∧ t.mem = s.mem)) ∧
    (∀ time, k.depart = some time → k.awaiting = true →
      ((∀ c ∈ k.cores, (s.core c).gt.sync = true) → exec (.departureCheck p kn) s = .next (s.setKernel p kn { k with awaiting := false })) ∧
      ((∃ c ∈ k.cores, (s.core c).gt.sync = false) → recordWaits s p k = true → exec (.departureCheck p kn) s = .next s) ∧
      ((∃ c ∈ k.cores, (s.core c).gt.sync = false) → k.desc.done = 0 → k.desc.doneq = 0 → (∃ th ∈ s.threads, ofKernel p kn th.id = false) →
        ∃ t, exec (.departureCheck p kn) s = .next t ∧ freed t p kn ∧ t.mem = s.mem)) ∧
    (∀ time c, k.depart = some time → k.awaiting = false →
      (((s.core c).gt.now s).ult time = true → exec (.departureFire p kn c) s = .next s) ∧
      (((s.core c).gt.now s).ult time = false → ∃ t, exec (.departureFire p kn c) s = .next t ∧ t.mem = s.mem ∧
        (∀ th ∈ t.threads, ofKernel p kn th.id = true → th.core = c → th.run ≠ .forming) ∧
        (∀ th ∈ s.threads, ofKernel p kn th.id = true → th.core = c → th.run = .forming →
          { th with run := .ready, residentSince := s.t } ∈ t.threads) ∧
        (∀ th ∈ s.threads, ¬ (ofKernel p kn th.id = true ∧ th.core = c ∧ th.run = .forming) → th ∈ t.threads) ∧
        (∀ y ∈ (t.core c).copies, y.tokens ≠ 0))))

/-- A launch, its answer, and the end of a kernel. -/
def Obligations.KernelLife : Prop := Spec.Launching ∧ Spec.LaunchAnswers ∧ Spec.KernelEnds

/-- R391, R394, R398: the block marks do nothing outside deterministic mode. `dtbeg` opens a block that is below NB, never begun
before, with no block open, and raises DETSTALL with reason 2 or 3 otherwise; `dtend` closes the open block, whose tickets the
next may then follow, and raises it with reason 4 where none is open. -/
def Sys2Proof.Spec.Blocks : Prop := ∀ (f : Fields) (s : State) (p kn g : Nat) (k : Kernel), s.cur.id = .grp p kn g → s.kernel? p kn = some k →
  let th := s.cur.opened
  let b := ((src s).readS f.a.toNat).toNat
  (Issues (.dtbeg f) f s →
    (k.desc.det = false → Writes (.dtbeg f) f s .none) ∧
    (k.desc.det = true →
      (k.desc.nb ≤ b ∨ b ∈ k.begun → Raises (.dtbeg f) s DETSTALL 2) ∧
      (b < k.desc.nb → b ∉ k.begun → s.cur.block ≠ none → Raises (.dtbeg f) s DETSTALL 3) ∧
      (b < k.desc.nb → b ∉ k.begun → s.cur.block = none → exec (.dtbeg f) s =
        .next { written s f { th with block := some b, blockPos := 0 } .none with
          parts := (s.setKernel p kn { k with begun := k.begun ++ [b], owners := k.owners ++ [(b, g)] }).parts }))) ∧
  (Issues (.dtend f) f s →
    (k.desc.det = false → Writes (.dtend f) f s .none) ∧
    (k.desc.det = true →
      (s.cur.block = none → Raises (.dtend f) s DETSTALL 4) ∧
      (∀ o, s.cur.block = some o → ∃ t k', exec (.dtend f) s = .next t ∧ t.kernel? p kn = some k' ∧
        k'.closed = k.closed ++ [o] ∧ t.cur = (written s f { th with block := none } .none).cur ∧ t.mem = s.mem ∧
        k.ct ≤ k'.ct ∧ (k.ct = o → o < k.desc.nb → (∀ e ∈ k.staged, e.block ≠ o) → o < k'.ct) ∧
        (k.ct ∉ k.closed → k.ct ≠ o → k'.ct = k.ct))))

/-- R391, R392, R394 and 04 R118: the ticket unit performs the oldest entry of block CT at home, the value of a store in memory, and takes
it out of the buffer; while a handler is asked, the page moves, its link is not UP or an earlier access of the group holds it back, it does nothing, and a fault asks the handler. A staging stall
of 2^24 cycles raises DETSTALL with reason 1 to the holder of block CT, else to the stalled group, and starts again. A drained
group is RETIRED. -/
def Sys2Proof.Spec.Tickets : Prop := ∀ (s : State) (p kn g : Nat) (k : Kernel), s.kernel? p kn = some k →
  let id : ThreadId := .grp p kn g
  (∀ e, k.staged.find? (fun e => e.block == k.ct) = some e →
    (e.held = true → exec (.ticketPerform p kn) s = .next s) ∧
    (e.held = false → regionOf e.ea.toNat = some .global →
      (∀ l, walk s p k.ctx e.ea.toNat = .ok l → l.state = 1 → exec (.ticketPerform p kn) s = .next s) ∧
      (∀ code level th, walk s p k.ctx e.ea.toNat = .error (.fault code level) → s.thread? (.grp p kn e.gid) = some th → ∃ t k' th',
        exec (.ticketPerform p kn) s = .next t ∧ t.kernel? p kn = some k' ∧
        (∀ x ∈ k'.staged, x.serial = e.serial → x.held = true) ∧ k'.ct = k.ct ∧
        t.thread? (.grp p kn e.gid) = some th' ∧ (∃ r ∈ th'.traps, r.seq = th.trapSeq ∧ r.object = .staged e.serial)) ∧
      (∀ l, walk s p k.ctx e.ea.toNat = .ok l → l.state ≠ 1 → e.kind = .store → l.allows .store = true →
        protectedByte s (l.key e.ea.toNat) = false →
        hwReady s (l.key e.ea.toNat) = false ∨ (∃ x ∈ s.accs, x.th = .grp p kn e.gid ∧ x.id < e.serial ∧ (x.kind = .fence ∨ acquires x.order = true)) →
        exec (.ticketPerform p kn) s = .next s) ∧
      (∀ l th, walk s p k.ctx e.ea.toNat = .ok l → l.state ≠ 1 → l.allows .store = true → protectedByte s (l.key e.ea.toNat) = false →
        hwReady s (l.key e.ea.toNat) = true → (∀ x ∈ s.accs, x.th ≠ .grp p kn e.gid) → s.thread? (.grp p kn e.gid) = some th → e.kind = .store → e.order = 0 →
        let key := l.key e.ea.toNat
        let ln := key / 128
        unhindered s th.core ln → ownerOf s ln = none → (entryOf s ln).targets = [] → copy? s th.core ln = none →
        key % 128 + e.width ≤ 128 → (∀ x ∈ s.threads, x.resv = none) → k.desc.det = true → k.ct ≤ k.desc.nb →
        ∃ t k', exec (.ticketPerform p kn) s = .next t ∧ t.mem = s.mem.writeNat key e.width e.data ∧ t.kernel? p kn = some k' ∧
          k'.staged = k.staged.filter (fun x => x.serial != e.serial) ∧ k.ct ≤ k'.ct))) ∧
  (∀ th c, s.thread? id = some th → th.run = .waiting c →
    (∀ c1, (∃ n m, c = .staging n m ∧ c1 = .staging s.t m) ∨ (∃ a b n, c = .stagedValue a b n ∧ c1 = .stagedValue a b s.t) →
      let s1 := s.setThread { th with run := .waiting c1 }
      ((∀ o ∈ k.owners, o.1 = k.ct → o.2 = g ∨ k.ct ∈ k.closed) → exec (.detstallTimeout id) s = .next (takeTrap s1 id DETSTALL 1 0 0)) ∧
      (∀ h w, k.ct ∉ k.closed → h ≠ g → k.owners.find? (fun o => o.1 == k.ct) = some (k.ct, h) → s.thread? (.grp p kn h) = some w →
        ∃ t, exec (.detstallTimeout id) s = .next t ∧ t.thread? (.grp p kn h) = some { w with detstall := true } ∧
          t.thread? id = some { th with run := .waiting c1 } ∧ t.mem = s.mem)) ∧
    (c = .drain → drainDone th = true → ∃ t th', exec (.drained id) s = .next t ∧ t.thread? id = some th' ∧ th'.run = .retired ∧
      th'.stack = [] ∧ th'.resv = none ∧ t.mem = s.mem) ∧
    (c ≠ .drain ∨ drainDone th = false → exec (.drained id) s = .next s))

/-- Blocks and the ticket unit of a deterministic kernel. -/
def Obligations.DeterministicKernels : Prop := Spec.Blocks ∧ Spec.Tickets

/-! ### System cores -/

/-- R427, R435: the answers to a ticket. One that names no outstanding trap of the partition ends with STALE. A group that waits on
its trap, or is parked, goes on READY: at its instruction, a parked one with the lanes of U alone, one that waits with the lanes that it
owed before (04 R109), or under `skip` past it, unless it
stands past it already. For a SAVED one the action is recorded. `abandon` retires the group. A suspended engine operation is
released by `resume`, and `skip` on it ends with STATE; so does a ticket whose object has no row. -/
def Obligations.TrapAnswers : Prop := ∀ (f : Fields) (s : State) (i : Instr) (act : Answer),
  (i, act) ∈ [(Instr.syscResume f, Answer.resume), (.syscSkip f, .skip), (.syscAbandon f, .abandon)] → Issues i f s → s.cur.run ≠ .retired →
  let ticket := ((src s).srcS f.a).toNat % 2 ^ 24
  let id : ThreadId := .grp (partOf s s.cur.id) (ticket / 2 ^ 14 % 64) (ticket % 2 ^ 14)
  let seq := ticket / 2 ^ 20
  let ends (code : Nat) : Prop := Ends i f s s.cur.opened code .none
  let answered (th : Thread) : Prop := exec i s = .next
    { written s f (s.cur.opened.status stOk) .none with others := s.others.map fun x => if x.id = id then th else x }
  (s.thread? id = none → ends stStale) ∧
  (∀ th, id ≠ s.cur.id → s.thread? id = some th →
    ((∀ r ∈ th.traps, r.seq ≠ seq) → ends stStale) ∧
    (∀ r, th.traps.find? (fun r => r.seq == seq) = some r →
      let rest := { th with traps := th.traps.filter fun r => r.seq != seq }
      let here : RunState := if r.object = .group then .waiting .trap else .parked
      let retired : Prop := (∀ q ∈ s.queues, ∀ w ∈ q.waiters, w.1 ≠ s.cur.id) → (∀ a ∈ s.accs, a.th ≠ id) → s.cur.resv = none → ∃ t th', exec i s = .next t ∧
        t.cur = (written s f (s.cur.opened.status stOk) .none).cur ∧ t.thread? id = some th' ∧ th'.run = .retired ∧ th'.traps = [] ∧
        th'.stack = []
      (r.object = .group ∨ r.object = .parked →
        (th.run = here → act ≠ .abandon →
          answered (if act = .skip ∧ r.past = false then { skipPast s 8 rest with run := .ready, u := 0, action := none, replay := none }
            else { rest with run := .ready, u := 0, action := none, replay := if th.run = .parked then (if th.u = 0 then none else some th.u) else th.replay })) ∧
        (th.run = .saved → th.left = here → act ≠ .abandon → answered { rest with action := some (if r.past then .resume else act) }) ∧
        (th.run = here ∨ th.run = .saved ∧ th.left = here → act = .abandon → retired) ∧
        (th.run ≠ here → (th.run = .saved → th.left ≠ here) → ends stState)) ∧
      (∀ n, r.object = .engineOp n →
        ((∀ o ∈ engOpsOf s th, o.serial = n → o.suspended = false) → ends stState) ∧
        (act = .skip → ends stState) ∧
        (∀ o, (engOpsOf s th).find? (fun o => o.serial == n && o.suspended) = some o → act = .resume → ∃ t,
          exec i s = .next t ∧ t.cur = (written s f (s.cur.opened.status stOk) .none).cur ∧ t.thread? id = some rest ∧
          .engineOpStart th.core .copy ∈ t.agenda) ∧
        (∀ o, (engOpsOf s th).find? (fun o => o.serial == n && o.suspended) = some o → act = .abandon → th.run ≠ .retired → retired)) ∧
      (∀ n k, r.object = .staged n → s.kernel? (partOf s s.cur.id) (ticket / 2 ^ 14 % 64) = some k →
        ((∀ e ∈ k.staged, e.serial = n → e.held = false) → ends stState) ∧
        (∀ e, k.staged.find? (fun e => e.serial == n && e.held) = some e →
          (act = .resume → ∃ t k', exec i s = .next t ∧ t.cur = (written s f (s.cur.opened.status stOk) .none).cur ∧
            t.kernel? (partOf s s.cur.id) (ticket / 2 ^ 14 % 64) = some k' ∧ (∀ x ∈ k'.staged, x.serial = n → x.held = false) ∧
            .ticketPerform (partOf s s.cur.id) (ticket / 2 ^ 14 % 64) ∈ t.agenda ∧ t.mem = s.mem) ∧
          (act = .abandon → th.run ≠ .retired → retired) ∧
          (act = .skip → th.run ≠ .saved → (∀ a ∈ s.accs, a.th ≠ id) → ∃ t k', exec i s = .next t ∧ t.cur = (written s f (s.cur.opened.status stOk) .none).cur ∧
            t.kernel? (partOf s s.cur.id) (ticket / 2 ^ 14 % 64) = some k' ∧ k'.staged = k.staged.filter (fun x => x.serial != n) ∧
            t.mem = s.mem)))))

/-- R421, R435, R436: a call on a system core enters the handler with CODE 0 and DETAIL n, EPC at the next instruction: from user
mode the supervisor's, from supervisor mode the hypervisor's. In hypervisor mode and in a group it is ILLEGAL. `eret` takes the
program counter and the mode from the bank of the mode that runs; a supervisor whose PM names the hypervisor raises PRIV, and
so does user mode. -/
def Sys2Proof.Spec.CallAndReturn : Prop := ∀ (f : Fields) (s : State),
  (Issues (.syscCall f) f s →
    (∀ p k g, s.cur.id = .grp p k g → Raises (.syscCall f) s ILLEGAL 0) ∧
    (∀ k, s.cur.id = .sys k →
      let c := s.sysCore k
      let bank : Bank := { epc := s.cur.regs.pc + 8, detail := f.ax, code := 0, eaddr := 0, pm := c.mode }
      (c.mode = .hypervisor → Raises (.syscCall f) s ILLEGAL 0) ∧
      (c.mode ≠ .hypervisor → ∃ t, exec (.syscCall f) s = .next t ∧
        t.sysCore k = (if c.mode = .user then { c with mode := .supervisor, sup := bank } else { c with mode := .hypervisor, hyp := bank }) ∧
        t.cur.regs.pc = (if c.mode = .user then c.svec else c.hvec) ∧ t.cur.run = .ready ∧ t.cur.resv = none ∧
        t.cur.regs.s = s.cur.regs.s ∧ t.cur.regs.sr = s.cur.regs.sr ∧ t.mem = s.mem ∧ t.others = s.others))) ∧
  (Issues (.eret f) f s → ∀ k, s.cur.id = .sys k →
    let c := s.sysCore k
    let back (b : Bank) : Prop := exec (.eret f) s = .next { s.setSysCore k { c with mode := b.pm } with
      cur := { s.cur with run := .ready, replay := none, regs := { s.cur.regs with pc := b.epc, lats := [] } } }
    (c.mode = .supervisor → (c.sup.pm = .hypervisor → Raises (.eret f) s PRIV 0) ∧ (c.sup.pm ≠ .hypervisor → back c.sup)) ∧
    (c.mode = .hypervisor → back c.hyp) ∧ c.mode ≠ .user)

/-- R421 and R424: traps on a system core, `sysc` and `eret`. -/
def Obligations.SystemCoreTrap : Prop := Spec.SystemCoreTrap ∧ Spec.CallAndReturn

/-- The registers that `srdp` reads on system core k, by number, FN being the context or the bank, in the layouts of R422 and R423,
17 R329, 13 R272, 19 R358, 20 R384 and 21 R403, R411. -/
def Sys2Proof.privateRegs (s : State) (k fn : Nat) : List (Nat × Nat) :=
  let c := s.sysCore k
  let p := c.psel.toNat
  let x := s.part p
  let r := x.reg
  let ctx := tget {} fn x.ctxs
  let bank := if fn = 1 then c.hyp else c.sup
  let pm : Nat := if bank.pm = .user then 0 else if bank.pm = .supervisor then 1 else 2
  [(0x00, ctx.root + 16 * p + fn), (0x01, ctx.trapq.toNat), (0x10, r.bankrole.toNat), (0x11, r.lclkper.toNat), (0x12, r.gtguard.toNat),
   (0x13, r.minres.toNat), (0x14, r.shwin.toNat), (0x15, r.regmin.toNat), (0x16, r.mign.toNat), (0x17, r.migwin.toNat),
   (0x18, r.mighold.toNat), (0x19, r.migpte.toNat), (0x1A, 0), (0x1B, r.migRes.toNat + (if r.migBusy then 2 ^ 8 else 0)),
   (0x1C, r.qtab.toNat), (0x1D, r.qcmdIndex.toNat + r.qcmdRes.toNat * 2 ^ 32), (0x1E, r.qres.toNat), (0x1F, 0),
   (0x20, r.klKn.toNat + (if r.klValid then 2 ^ 31 else 0) + r.klRes.toNat * 2 ^ 32), (0x21, r.kctlKn.toNat),
   (0x22, (if r.hold then 1 else 0) + if updQuiet s p then 2 else 0), (0x23, r.pctx.toNat), (0x30, bank.epc.toNat),
   (0x31, bank.code.toNat + bank.detail.toNat * 2 ^ 8), (0x32, bank.eaddr.toNat), (0x33, pm), (0x34, c.svec.toNat), (0x35, c.hvec.toNat),
   (0x36, c.psel.toNat), (0x38, 0), (0x39, s.pstat.toNat)]

/-- What `swrp` of x leaves, by number, for the registers whose write has no other effect. -/
def Sys2Proof.privateWrites (s : State) (k fn : Nat) (x : DWord) : List (Nat × State) :=
  let c := s.sysCore k
  let p := c.psel.toNat
  let y := s.part p
  let w : Word := x.extractLsb' 0 32
  let reg (r : PReg32) : State := s.setPart p { y with reg := r }
  let ctx (z : Ctx) : State := s.setPart p { y with ctxs := tset fn z y.ctxs }
  let old := tget {} fn y.ctxs
  let bank (z : Bank) : State := s.setSysCore k (if fn = 1 then { c with hyp := z } else { c with sup := z })
  let b := if fn = 1 then c.hyp else c.sup
  let pm : Mode := if x.extractLsb' 0 2 = 1 then .supervisor else if x.extractLsb' 0 2 = 2 then .hypervisor else .user
  let n := (x.extractLsb' 0 5).toNat
  let lclkper : BitVec 16 := if (x.extractLsb' 0 16).toNat < 16 then 16 else x.extractLsb' 0 16
  let vec := x &&& ~~~7
  [(0x00, ctx { old with root := (x.extractLsb' 16 36).toNat * 2 ^ 16 }), (0x01, ctx { old with trapq := x }),
   (0x11, s.setPart p { y with tickBase := s.t, reg := { y.reg with lclkper } }), (0x12, reg { y.reg with gtguard := w }),
   (0x13, reg { y.reg with minres := w }), (0x14, reg { y.reg with shwin := if n < 16 then 16 else if 30 < n then 30 else BitVec.ofNat 5 n }),
   (0x15, reg { y.reg with regmin := w }), (0x16, reg { y.reg with mign := x.extractLsb' 0 8 }), (0x17, reg { y.reg with migwin := w }),
   (0x18, reg { y.reg with mighold := w }), (0x19, reg { y.reg with migpte := x &&& 0x000FFFFFFFFFFFF8 }), (0x1B, s),
   (0x1C, reg { y.reg with qtab := x &&& 0x000FFFFFFFFFF000 }), (0x1E, s), (0x20, s),
   (0x23, reg { y.reg with pctx := if y.nctx ≤ (x.extractLsb' 0 4).toNat then 0 else x.extractLsb' 0 4 }), (0x30, bank { b with epc := x }),
   (0x31, bank { b with code := x.extractLsb' 0 8, detail := x.extractLsb' 8 8 }), (0x32, bank { b with eaddr := x }),
   (0x33, bank { b with pm }), (0x34, s.setSysCore k { c with svec := vec }), (0x35, s.setSysCore k { c with hvec := vec }),
   (0x36, s.setSysCore k { c with psel := x.extractLsb' 0 3 }), (0x39, s)]

/-- What `swrp` of x starts, by number: the event that the register's write is. -/
def Sys2Proof.startsBy (p : Nat) (x : DWord) (num : Nat) (e : Instr) : Prop :=
  let i := (x.extractLsb' 0 16).toNat
  let q := (x.extractLsb' 0 3).toNat
  let cmd := (x.extractLsb' 16 3).toNat
  (num = 0x1A ∧ e = .miggoMove p x) ∨ (num = 0x1F ∧ e = .kldbLaunch p x) ∨ (num = 0x22 ∧ e = .updHoldWrite p (x.getLsbD 0)) ∨
  (num = 0x1D ∧ (cmd = 1 ∧ e = .qcmdCreate p i ∨ cmd = 2 ∧ e = .qcmdSwap p i ∨ cmd = 3 ∧ e = .qcmdUnswap p i ∨
    cmd = 4 ∧ e = .qcmdDrain p i ∨ cmd = 5 ∧ e = .qcmdDiscard p i ∨ (cmd = 0 ∨ 5 < cmd) ∧ e = .qcmdNone p i)) ∨
  (num = 0x38 ∧ (x.extractLsb' 8 2 = 2 ∧ e = .pcmdStop q ∨ x.extractLsb' 8 2 ∈ [0#2, 3#2] ∧ e = .pcmdNone q))

/-- The access is not the supervisor's (R422). -/
def Sys2Proof.hypervisorOnly (num fn : Nat) (write : Bool) : Prop :=
  (write = true ∧ num ∈ [0x10, 0x11, 0x12, 0x1C, 0x35, 0x36]) ∨ (num ∈ [0x30, 0x31, 0x32, 0x33] ∧ fn = 1) ∨ num = 0x38 ∨ num = 0x39

/-- R422, R423, R437: `srdp` and `swrp` on system core k. In supervisor mode the hypervisor's registers raise PRIV. A read answers the
register zero-extended, 0 where it is write-only. A write sets its RW fields and nothing else, ignores a read-only register,
or has the effect of its event; KCTL sets KN and kills with bit 8. A write that changes BANKROLE leaves the core waiting
until the change is complete, and a second one waits for it. -/
def Obligations.PrivilegedRegisters : Prop := ∀ (f : Fields) (s : State) (k : Nat), s.cur.id = .sys k →
  let fn := f.fn.toNat
  let num := f.ax.toNat
  let p := (s.sysCore k).psel.toNat
  let x := (src s).readX f.a.toNat
  let mode := (s.sysCore k).mode
  let past (t : State) : State :=
    { t with cur := { t.cur with regs := { t.cur.regs with pc := t.cur.regs.pc + 8, lats := [] }, chain := none, run := .ready, replay := none } }
  (Issues (.srdp f) f s →
    (mode = .supervisor → hypervisorOnly num fn false → Raises (.srdp f) s PRIV 0) ∧
    (mode = .supervisor → ¬ hypervisorOnly num fn false ∨ mode = .hypervisor → ∀ e ∈ privateRegs s k fn, e.1 = num →
      Writes (.srdp f) f s (.x (BitVec.ofNat 64 e.2))) ∧
    num ∈ (privateRegs s k fn).map (·.1)) ∧
  (Issues (.swrp f) f s →
    (mode = .supervisor → hypervisorOnly num fn true → Raises (.swrp f) s PRIV 0) ∧
    (mode = .hypervisor ∨ mode = .supervisor ∧ ¬ hypervisorOnly num fn true →
      (∀ e ∈ privateWrites s k fn x, e.1 = num → exec (.swrp f) s = .next (past e.2)) ∧
      (∀ e t, startsBy p x num e → exec e s = .next t → t.cur.id = s.cur.id → exec (.swrp f) s = .next (past t)) ∧
      (num = 0x21 →
        let s1 := s.setPart p { s.part p with reg := { (s.part p).reg with kctlKn := x.extractLsb' 0 6 } }
        (x.getLsbD 8 = false → exec (.swrp f) s = .next (past s1)) ∧
        (x.getLsbD 8 = true → ∀ t, exec (.kctlKill p (x.extractLsb' 0 6).toNat) s1 = .next t → t.cur.id = s.cur.id →
          exec (.swrp f) s = .next (past t))) ∧
      (num = 0x38 → x.extractLsb' 8 2 = 1 → ∃ t, exec (.swrp f) s = .next t ∧ t.cur.regs.pc = s.cur.regs.pc + 8 ∧
        t.cur.run = .ready ∧ (t.sysCore k).mode = mode ∧ t.pstat ∈ [0, 0x19, 0x1A, 0x1B] ∧ (t.pstat ≠ 0 → t = past { s with pstat := t.pstat })) ∧
      (num = 0x10 →
        ((s.part p).newRole ≠ none → exec (.swrp f) s = .next (stall s s.cur.id .bankrole)) ∧
        ((s.part p).newRole = none → (s.part p).reg.bankrole = x → exec (.swrp f) s = .next (past s)) ∧
        ((s.part p).newRole = none → (s.part p).reg.bankrole ≠ x → ∃ t ids, exec (.swrp f) s = .next t ∧
          (t.part p).newRole = some (x, some s.cur.id, ids) ∧ (t.part p).reg = (s.part p).reg ∧ t.cur.run = .waiting .bankrole ∧
          t.cur.regs.pc = s.cur.regs.pc ∧ t.mem = s.mem ∧
          ∀ id ∈ ids, ∀ th, t.thread? id = some th → th.preempt = true ∨ th.run = .saved))))

/-- R409, 21 R407: `tlbi` waits until the thread's accesses are performed. Then no core of the partition holds one of the translations
named (an address in a context, a context, or all), every other stays, and every GLOBAL base register that came from one, or whose
FRAME lies in a page of one, has LIMIT 0, and every other base register stays as it is. While accesses that went through them are in flight it waits for these.
That the instruction waits by being executed again is the model's (log 40). -/
def Obligations.Translations : Prop := ∀ (f : Fields) (s : State) (i : Instr) (test : Nat → Bool) (gone : Leaf → Bool),
  let p := partOf s s.cur.id
  let ctx := ((src s).srcS f.b).toNat % 2 ^ 16
  let own (id : Nat) : Bool := id == ctx && ctx / 16 == p && ctx % 16 < (s.part p).nctx
  let va := ((src s).readX f.a.toNat).toNat
  ((i, test, gone) = (Instr.tlbiVa f, own, fun l => l.page ≤ va && va < l.page + pageBytes l.level) ∨
    (i, test, gone) = (.tlbiCtx f, own, fun _ => true) ∨ (i, test, gone) = (.tlbiAll f, (fun id => id / 16 == p), fun _ => true)) →
  Issues i f s → s.cur.run ≠ .saved →
  let busy := accessesThrough s p (removedLeaves s p test gone)
  (quietThread s s.cur.id = false → exec i s = .next (stall s s.cur.id .quiet)) ∧
  (quietThread s s.cur.id = true → ∃ t, exec i s = .next t ∧ t.mem = s.mem ∧
    (∀ c ∈ coresOf s p, ∀ e ∈ (t.core c).tlb, (test e.ctxid && gone e.leaf) = false) ∧
    (∀ c, ∀ e ∈ (s.core c).tlb, (test e.ctxid && gone e.leaf) = false → e ∈ (t.core c).tlb) ∧
    (∀ c, c ∉ coresOf s p → t.core c = s.core c) ∧
    (∀ th ∈ t.threads, inContext s p test th = true → th.run ≠ .saved → ∀ b ∈ th.bases, b.valid = true → b.kind = .global →
      gone b.leaf = true → b.limit = 0) ∧
    (∀ th ∈ t.threads, partOf s th.id = p → th.run ≠ .saved → ∀ e ∈ removedLeaves s p test gone, ∀ b ∈ th.bases,
      b.frameIn e = true → b.limit = 0) ∧
    (∀ th ∈ s.others, ∀ b ∈ th.bases, (∀ e ∈ removedLeaves s p test gone, b.frameIn e = false) →
      inContext s p test th = false ∨ gone b.leaf = false → ∃ x ∈ t.others, x.id = th.id ∧ b ∈ x.bases) ∧
    t.cur.regs.s = s.cur.regs.s ∧ t.cur.regs.sr = s.cur.regs.sr ∧
    (busy = [] → t.cur.regs.pc = s.cur.regs.pc + 8 ∧ t.cur.run = .ready) ∧
    (busy ≠ [] → t.cur.regs.pc = s.cur.regs.pc ∧ t.cur.run = .waiting (.accesses busy)))

/-- No line of n bytes from `key` on has a directory entry (21 R401). -/
def Sys2Proof.noLines (s : State) (key n : Nat) : Prop := ∀ k, key ≤ k → k < key + n → (s.home (homeOf s (k / 128))).hasEntry (k / 128) = false

/-- Bytes of the save area of a thread (22 R429). -/
def Sys2Proof.areaBytes (th : Thread) : Nat := 0x3000 + 384 * th.regs.v.length + 768 * th.regs.m.length + 16384 * th.nTiles

/-- Memory holds the registers and the tiles of a thread in the save area at b, where R429 places them. -/
def Sys2Proof.areaHolds (m : Memory) (b : Nat) (th : Thread) : Prop :=
  let v := b + 0x3000
  let mo := v + 384 * th.regs.v.length
  let ti := mo + 768 * th.regs.m.length
  (∀ n, n < 64 → m.readNat (b + 0x100 + 4 * n) 4 = (th.regs.s.getD n 0).toNat) ∧
  (∀ n i, n < th.regs.v.length → i < 96 → m.readNat (v + 384 * n + 4 * i) 4 = (laneOf (th.regs.v.getD n {}).lanes i).toNat) ∧
  (∀ n i, n < th.regs.m.length → i < 96 → m.readNat (mo + 768 * n + 8 * i) 4 = (laneOf (th.regs.m.getD n {}).mean i).toNat ∧
    m.readNat (mo + 768 * n + 8 * i + 4) 4 = (laneOf (th.regs.m.getD n {}).var i).toNat) ∧
  (∀ n i, n < th.nTiles → i < 4096 → m.readNat (ti + 16384 * n + 4 * i) 4 = ((tget {} n th.tiles).elems.getD i 0).toNat)

/-- The registers and tiles have the sizes that the area has room for. -/
def Sys2Proof.sized (th : Thread) : Prop :=
  th.regs.s.length = 64 ∧ (∀ v ∈ th.regs.v, v.lanes.length = 96)

/-- R428 to R430, R438: `ctxs` pre-empts the group that it names and waits for it; when the group is SAVED the answer is 0, and a group
that is gone or RETIRED meanwhile ends it with NOGROUP or STATE. `ctxr` puts a SAVED group on the core that it names, in the state that it
left, its scalar, vector and moment registers and its tiles as its save area holds them, every GLOBAL LIMIT 0. NOGROUP, STATE and
NOFIT end them. A `ctxr` waits while BANKROLE changes.
That the rest of the saved state is the thread's own, and not bytes of the pool, is the model's (log 31). -/
def Sys2Proof.Spec.SaveAndRestore : Prop := ∀ (f : Fields) (s : State) (k : Nat), s.cur.id = .sys k →
  let ticket := ((src s).srcS f.a).toNat % 2 ^ 20
  let p := partOf s s.cur.id
  let kn := ticket / 2 ^ 14
  let id : ThreadId := .grp p kn (ticket % 2 ^ 14)
  let ends (i : Instr) (code : Nat) : Prop := Ends i f s s.cur.opened code (.s (BitVec.ofNat 32 code))
  (∀ i ∈ [Instr.ctxs f, .ctxr f], Issues i f s → s.thread? id = none → ends i stNoGroup) ∧
  (∀ g, s.thread? id = some g →
    (Issues (.ctxs f) f s →
      (g.run = .saved ∨ g.run = .retired → ends (.ctxs f) stState) ∧
      (g.run ≠ .saved → g.run ≠ .retired → ∃ t g', exec (.ctxs f) s = .next t ∧ t.thread? id = some g' ∧ g'.preempt = true ∧
        (g.preempt = false → g'.resv = none ∧ g'.preemptAt = s.t ∧ ∀ q ∈ t.queues, ∀ w ∈ q.waiters, w.1 ≠ id) ∧
        t.cur.run = .waiting (.ctxs id (if f.nd then none else some f.d.toNat)) ∧ t.cur.regs = s.cur.regs ∧ t.mem = s.mem)) ∧
    (Issues (.ctxr f) f s →
      (g.run ≠ .saved → ends (.ctxr f) stState) ∧
      (g.run = .saved → (s.part p).newRole ≠ none → exec (.ctxr f) s = .next (stall s s.cur.id .bankrole)) ∧
      (g.run = .saved → (s.part p).newRole = none → ∀ kr, s.kernel? p kn = some kr →
        let core := ((src s).srcS f.b).toNat
        (restoreFits s p kr g core = false ∨ 384 ≤ core ∨ bitSet (s.part p).cores core = false ∨ 8 < frozenOnCore s core + g.frozen.length →
          ends (.ctxr f) stNoFit) ∧
        (∀ b, restoreFits s p kr g core = true → g.action = none → g.leave = false → g.left ∈ [.ready, .parked, .waiting .trap] →
          saveBase s id = some b → noLines s b (areaBytes g) → ∃ t g',
          exec (.ctxr f) s = .next t ∧ t.thread? id = some g' ∧ g'.core = core ∧ g'.run = g.left ∧ areaHolds s.mem b g' ∧
          g'.regs.v.length = g.regs.v.length ∧ g'.regs.m.length = g.regs.m.length ∧ g'.nTiles = g.nTiles ∧
          { g'.regs with s := [], v := [], m := [] } = { g.regs with s := [], v := [], m := [] } ∧
          (∀ n, (g'.regs.v.getD n {}).tag = (g.regs.v.getD n {}).tag ∧ (g'.regs.m.getD n {}).tag = (g.regs.m.getD n {}).tag) ∧
          g'.scr = g.scr ∧ g'.stack = g.stack ∧ g'.residentSince = s.t ∧ g'.cancelled = [] ∧
          (∀ b ∈ g'.bases, b.kind = .global → b.limit = 0) ∧ t.cur = (written s f (s.cur.opened.status stOk) (.s 0)).cur ∧
          (g.cancelled = [] → t.mem = s.mem))))) ∧
  (∀ target d, s.cur.run = .waiting (.ctxs target d) → s.cur.carts = [] → s.cur.preempt = false → target ≠ s.cur.id →
    let ended (code : Nat) : Prop := ∃ t, plan s = .act t ∧ t.cur = launchReply s.cur code d (BitVec.ofNat 32 code) ∧ t.mem = s.mem
    (s.thread? target = none → ended stNoGroup) ∧
    (∀ g, s.thread? target = some g → (g.run = .retired → ended stState) ∧ (g.run ≠ .retired → plan s = .act s))) ∧
  -- PREEMPT_SAVE
  (∀ p kn g th b, s.thread? (.grp p kn g) = some th → th.preempt = true → th.lc = 0 → th.sc = 0 → th.chain = none →
    quietThread s (.grp p kn g) = true → engOpsOf s th = [] → th.moveTo = none → th.run ∈ [.ready, .parked] ∨ (∃ c, th.run = .waiting c) →
    saveBase s (.grp p kn g) = some b → noLines s b (areaBytes th) → sized th → s.mem.wf = true →
    ∃ t, exec (.preemptSave (.grp p kn g)) s = .next t ∧ t.thread? (.grp p kn g) = some { th with
        run := .saved, preempt := false, lastCore := th.core
        left := match th.run with
          | .waiting (.sleep w) => .waiting (.sleep (w - s.t))
          | r => r } ∧
      areaHolds t.mem b th ∧ (∀ a, a < b ∨ b + areaBytes th ≤ a → t.mem.read a = s.mem.read a) ∧
      ∀ x ∈ s.threads, ∀ d, x.run = .waiting (.ctxs (.grp p kn g) d) → x.id ≠ .grp p kn g → launchReply x 0 d 0 ∈ t.threads)

/-- R439: `idle` answers at once what it finds, a cart in bit 0 and the time in bit 1, ends with the code of a handle that is
not good, or stalls; when the time comes, the stalled one answers. -/
def Sys2Proof.Spec.Idle : Prop := ∀ (f : Fields) (s : State),
  let h := (src s).readX f.a.toNat
  let time := (src s).readX f.b.toNat
  let d := if f.nd then none else some f.d.toNat
  let up (c : Nat) (x : DWord) : Prop := x ≠ 0 ∧ ((s.core c).gt.now s).ult x = false
  let found := findQueue s (partOf s s.cur.id) h (h.getLsbD 41)
  (Issues (.idle f) f s →
    (∀ c, h ≠ 0 → found = .error c → Ends (.idle f) f s s.cur.opened c (.s 0)) ∧
    (h = 0 → up s.cur.core time → Writes (.idle f) f s (.s 2)) ∧
    (h = 0 → ¬ up s.cur.core time → exec (.idle f) s =
      .next (stall s s.cur.id (.idle none (if time = 0 then none else some time) d))) ∧
    (∀ q, h ≠ 0 → found = .ok q →
      (q.count ≠ 0 → up s.cur.core time → Writes (.idle f) f s (.s 3)) ∧
      (q.count ≠ 0 → ¬ up s.cur.core time → Writes (.idle f) f s (.s 1)) ∧
      (q.count = 0 → up s.cur.core time → Writes (.idle f) f s (.s 2)) ∧
      (q.count = 0 → ¬ up s.cur.core time → exec (.idle f) s =
        .next (stall s s.cur.id (.idle (some q.id) (if time = 0 then none else some time) d))))) ∧
  (∀ id th x b, s.thread? id = some th → th.run = .waiting (.idle none (some x) b) →
    (((s.core th.core).gt.now s).ult x = true → exec (.idleTimeReached id) s = .next s) ∧
    (((s.core th.core).gt.now s).ult x = false → exec (.idleTimeReached id) s = .next (s.setThread
      { th.answer 8 with regs := match b with
        | some n => (th.answer 8).regs.writeS th.ll n 2
        | none => (th.answer 8).regs })))

/-- Groups saved and restored, and the idle system core. -/
def Obligations.SaveAndRestore : Prop := Spec.SaveAndRestore ∧ Spec.Idle

/-- 03 R54, R56, R78, 04 R117, 22 R425, R428: what else falls to a thread. A sleep that is over leaves it READY. A pre-empted group whose
counters are 0, with no access and no engine operation, is SAVED (`SaveAndRestore`); another is not. A cart that TRAPQ refused is sent
again. An unassigned opcode is ILLEGAL, and a fetch that faults parks the group with an empty triple or raises its trap, of kind 2. -/
def Obligations.ThreadEvents : Prop := ∀ (s : State),
  (∀ op len, exec (.unassignedOpcode op len) s = .next (takeTrap s s.cur.id ILLEGAL 0 0 0)) ∧
  (let pc := s.cur.regs.pc.toNat
   (∀ level, exec (.fetchFault (.page level)) s = .next (takePark s s.cur.id (2 + 4 * level) pc 0)) ∧
   (∀ level, exec (.fetchFault (.prot level)) s = .next (takeTrap s s.cur.id PROT (2 + 4 * level) pc 0)) ∧
   exec (.fetchFault .ecc) s = .next (takeTrap s s.cur.id ECC 2 pc 0)) ∧
  (∀ id th, s.thread? id = some th →
    (∀ w, th.run = .waiting (.sleep w) →
      (w ≤ s.t → exec (.sleepExpiry id) s = .next (s.setThread { th with run := .ready })) ∧
      (s.t < w → exec (.sleepExpiry id) s = .next (s.setThread th))) ∧
    (∀ ws at_ rest, th.carts = (ws, at_) :: rest →
      exec (.trapCartRetry id) s = .next (sendTrapCart (s.setThread { th with carts := rest }) id ws)) ∧
    (∀ p k g, id = .grp p k g →
      (th.preempt = false ∨ th.lc ≠ 0 ∨ th.sc ≠ 0 ∨ th.run = .issuing ∨ th.chain ≠ none ∨ quietThread s id = false → exec (.preemptSave id) s = .next s) ∧
      (th.preempt = true → th.lc = 0 → th.sc = 0 → th.chain = none → quietThread s id = true → engOpsOf s th = [] → th.moveTo = none →
        (th.run ∈ [.ready, .parked] ∨ ∃ c, th.run = .waiting c) →
        ∃ t, exec (.preemptSave id) s = .next t ∧ t.thread? id = some { th with
          run := .saved, preempt := false, lastCore := th.core
          left := match th.run with
            | .waiting (.sleep w) => .waiting (.sleep (w - s.t))
            | r => r })))

/-! ### Partitions -/

/-- Every byte lies at home: no core holds a copy, no tokens are on their way (10 R221). -/
def Sys2Proof.allHome (s : State) : Prop := s.msgs = [] ∧ ∀ c, (s.core c).copies = []

/-- R330, R331, 22 R423, R433: a write of BANKROLE that changes it keeps the old value until every group that it
pre-empts is SAVED or RETIRED; then the new value stands and the `swrp` ends. LCLKPER is at least 16 and restarts the ticks. HOLD
holds pops; when it is cleared they are served.
Which groups are pre-empted, by the place of their allocations, is the model's (log 22). -/
def Sys2Proof.Spec.PartitionRegisters : Prop := ∀ (s : State) (p : Nat),
  let x := s.part p
  (∀ v, (x.newRole ≠ none ∨ x.reg.bankrole = v → exec (.bankroleWrite p v) s = .next s) ∧
    (x.newRole = none → x.reg.bankrole ≠ v → ∃ t ids, exec (.bankroleWrite p v) s = .next t ∧
      (t.part p).newRole = some (v, none, ids) ∧ (t.part p).reg = x.reg ∧ t.mem = s.mem ∧
      (∀ id ∈ ids, ∀ th, t.thread? id = some th → th.preempt = true ∨ th.run = .saved) ∧
      (∀ id, id ∉ ids → t.thread? id = s.thread? id))) ∧
  (x.newRole = none → exec (.bankroleEffect p) s = .next s) ∧
  (∀ v by_ ids, x.newRole = some (v, by_, ids) →
    ((∃ id ∈ ids, ∃ th, s.thread? id = some th ∧ th.run ≠ .saved ∧ th.run ≠ .retired) → exec (.bankroleEffect p) s = .next s) ∧
    ((∀ id ∈ ids, ∀ th, s.thread? id = some th → th.run = .saved ∨ th.run = .retired) → ∃ t, exec (.bankroleEffect p) s = .next t ∧
      (t.part p).newRole = none ∧ (t.part p).reg = { x.reg with bankrole := v } ∧
      (∀ id th, by_ = some id → id ∉ ids → s.thread? id = some th → th.run = .waiting .bankrole → th.resv = none → t.thread? id = some (th.answer 8)))) ∧
  (∀ v, exec (.lclkperWrite p v) s = .next (s.setPart p { x with
    tickBase := s.t, reg := { x.reg with lclkper := if (v.extractLsb' 0 16).toNat < 16 then 16 else v.extractLsb' 0 16 } })) ∧
  exec (.updHoldWrite p true) s = .next (s.setPart p { x with reg := { x.reg with hold := true } }) ∧
  ((∀ q ∈ s.queues, q.part = p → q.waiters = [] ∧ q.st ≠ .draining) →
    exec (.updHoldWrite p false) s = .next (s.setPart p { x with reg := { x.reg with hold := false } })) ∧
  (∀ q l c cs id d w, s.queues = [q] → q.part = p → q.st = .active → q.stream = false → settledQueue s q → q.levels.length = 4 → l < 4 →
    q.level l = c :: cs → (∀ m, l < m → m < 4 → q.level m = []) → c.words.length = 8 → q.waiters = [(id, d)] → d + 7 < 60 →
    s.thread? id = some w → ∃ t w' q', exec (.updHoldWrite p false) s = .next t ∧ (t.part p).reg.hold = false ∧
      t.thread? id = some w' ∧ w'.run = .ready ∧ w'.regs.pc = w.regs.pc + 8 ∧ (∀ n, n < 8 → w'.regs.readS (d + n) = c.words.getD n 0) ∧
      t.queues = [q'] ∧ q'.waiters = [] ∧ q'.level l = cs)

/-- R419, R423, R459, R474: PCMD. The codes that are no command, and a STOP of a partition that does not run, leave BADPART and nothing else.
STOP frees every item and ends every queue and cluster. START refuses with BADPART, BADIMAGE or CONFLICT and changes nothing else;
otherwise the partition runs with the descriptor's items, its registers at their reset values but for BANKROLE, the clocks of
its cores, its PLT and its energy count 0, the counts of its pairs cleared and SEQ of its housekeeping block 0, and the image begins in
supervisor mode on the system cores that point at it. `imageValid` is 22 R432 over the parts of the image, whose places, like where it
begins, the spec does not give (log 12); that PSEL says which system cores point at the partition is the model's (log 13, log 20), as
are the code of a STOP of a partition that does not run (log 41) and where SEQ lies at START (log 61). -/
def Obligations.PartitionCommands : Prop := ∀ (s : State) (p : Nat),
  exec (.pcmdNone p) s = .next { s with pstat := 0x1B } ∧
  ((s.part p).running = false → exec (.pcmdStop p) s = .next { s with pstat := 0x1B }) ∧
  ((s.part p).running = true → ∃ t, exec (.pcmdStop p) s = .next t ∧ t.pstat = 0 ∧
    (t.part p).running = false ∧ (t.part p).cores = 0 ∧ (t.part p).ports = 0 ∧ (t.part p).cpl = 0 ∧ (t.part p).kernels = [] ∧
    (∀ p', p' ≠ p → t.part p' = s.part p') ∧ (∀ q ∈ t.queues, q.part = p → q.st = .free) ∧
    ((s.slots.map (·.1)).Nodup → ∀ e ∈ t.slots, e.2.part = p → e.2.inUse = false)) ∧
  (∀ d, d % 1024 = 0 →
    let bs := (List.range 1024).map fun i => BitVec.ofNat 8 (readHome s (d + i) 1)
    let field (o n : Nat) : Nat := ofLeBytes ((bs.drop o).take n)
    let y := partOfDesc bs
    let img := imageAt s y.image
    let valid := imageValid img s.fuseKey s.fuseVersion
    let clash : Prop := ∃ e ∈ s.parts, conflicts y e.2 = true
    (y.cores = field 0 48 ∧ y.mem = field 48 832 ∧ y.qbase = field 880 2 ∧ y.qnum = field 882 2 ∧ y.ports = field 884 2 ∧
      y.cpl = field 886 3 ∧ y.nctx = field 889 1 ∧ y.image = field 904 8 ∧ y.rsvpool = field 912 64 ∧
      y.reg = { bankrole := BitVec.ofNat 64 (field 896 8) }) ∧
    (badPart bs y = true ↔ (∃ k, k < 512 ∧ bitSet y.rsvpool k = true ∧ bitSet y.mem k = false) ∨ y.nctx = 0 ∨ 16 < y.nctx ∨ y.qnum = 0 ∨
      65536 < y.qbase + y.qnum ∨ field 890 6 ≠ 0 ∨ field 976 48 ≠ 0) ∧
    (badPart bs y = true → exec (.pcmdStart p d) s = .next { s with pstat := 0x1B }) ∧
    (badPart bs y = false → valid = false → exec (.pcmdStart p d) s = .next { s with pstat := 0x19 }) ∧
    (badPart bs y = false → valid = true → clash → exec (.pcmdStart p d) s = .next { s with pstat := 0x1A }) ∧
    (badPart bs y = false → valid = true → ¬ clash → ∃ t, exec (.pcmdStart p d) s = .next t ∧ t.pstat = 0 ∧
      (t.part p).running = true ∧ (t.part p).cores = y.cores ∧ (t.part p).mem = y.mem ∧ (t.part p).reg = y.reg ∧ (t.part p).ctxs = [] ∧
      (t.part p).kernels = [] ∧ (t.part p).plt = 0 ∧ (t.part p).energy = 0 ∧ (t.part p).seq = 0 ∧ (t.part p).tickBase = s.t ∧ (∀ p', p' ≠ p → t.part p' = s.part p') ∧ (allHome s → t.mem = s.mem.writeNat 0x420000 8 0) ∧
      (∀ c ∈ bitMembers y.cores 384, (t.core c).lclk = 0) ∧ (∀ k, k < 16 → (s.sysCore k).psel.toNat = p → (t.core (384 + k)).lclk = 0) ∧
      (∀ d, d < 4 → ∀ e ∈ (t.die d).counts, bitSet y.cores (e.1 / 512) = false) ∧
      (∀ h ∈ bitMembers y.ports 16, let x := t.port h
        x.slots = [] ∧ x.egq = 0 ∧ x.egHalt = false ∧ x.tx = none ∧ x.rx = [] ∧ x.flow = none) ∧
      (∀ k th, k < 16 → (s.sysCore k).psel.toNat = p → s.thread? (.sys k) = some th → (t.sysCore k).mode = .supervisor ∧
        ∃ th', t.thread? (.sys k) = some th' ∧ th'.run = .ready ∧ th'.regs.pc = Config.imageEntry img) ∧
      (∀ k, (s.sysCore k).psel.toNat ≠ p → t.sysCore k = s.sysCore k ∧
        ((∀ x ∈ s.threads, x.resv = none) → t.thread? (.sys k) = s.thread? (.sys k)))))

/-- 10 R228, R235, R236: a tick advances the clock by 1, and the lease copies whose time is over go. A distribution raises PLT to the
latest clock or NW of the partition, raises every NW to it, and pulls up the clocks that lag by more than 16384; which homes are the
partition's is the model's (log 56). A gated core
sends every token home, dirty data with it; a core that wakes is pulled up. -/
def Sys2Proof.Spec.LogicalClocks : Prop := ∀ (s : State),
  let lagging (plt x : BitVec 16) : BitVec 16 := if 16384 < (plt - x).toNat then plt - 16384 else x
  (∀ c, exec (.lclkTick c) s = .next (s.setCore c { s.core c with
    lclk := (s.core c).lclk + 1,
    copies := (s.core c).copies.filter fun y => y.tokens != 0 || !before y.rts ((s.core c).lclk + 1) })) ∧
  (∀ p base, let cs := coresOf s p
    let hs := homesOf s p
    let near (x : BitVec 16) : Prop := (x - base).toNat < 2 ^ 15
    near (s.part p).plt → (∀ c ∈ cs, near (s.core c).lclk) → (∀ h ∈ hs, near (s.home h).nw) →
    ∃ t, exec (.pltDistribution p) s = .next t ∧
      let plt := (t.part p).plt
      (plt = (s.part p).plt ∨ (∃ c ∈ cs, plt = (s.core c).lclk) ∨ ∃ h ∈ hs, plt = (s.home h).nw) ∧ before plt (s.part p).plt = false ∧
      (∀ c ∈ cs, before plt (s.core c).lclk = false ∧ (t.core c).lclk = lagging plt (s.core c).lclk) ∧
      (∀ h ∈ hs, before plt (s.home h).nw = false ∧ (t.home h).nw = plt) ∧
      (∀ c, c ∉ cs → t.core c = s.core c) ∧ (∀ h, h ∉ hs → t.home h = s.home h) ∧ t.mem = s.mem) ∧
  (∀ c, ((s.core c).copies.map (·.line)).Nodup → ∃ t, exec (.corePowerGate c) s = .next t ∧ t.mem = s.mem ∧
    (t.core c).gated = true ∧ (t.core c).copies = [] ∧ (∀ m ∈ s.msgs, m ∈ t.msgs) ∧
    ∀ y ∈ (s.core c).copies, y.tokens ≠ 0 → ∃ m ∈ t.msgs, m.line = y.line ∧ m.core = c ∧ m.tokens = y.tokens ∧
      m.data = (if y.dirty then some y.data else none) ∧ .tokenReturn m.id ∈ t.agenda) ∧
  (∀ c, partOfCore s c = none → exec (.coreWake c) s = .next (s.setCore c { s.core c with gated := false })) ∧
  (∀ c p, partOfCore s c = some p → ((s.part p).plt - (s.core c).lclk).toNat < 2 ^ 15 → ∃ t, exec (.coreWake c) s = .next t ∧
    (t.core c).gated = false ∧ (t.core c).lclk = lagging (s.part p).plt (s.core c).lclk ∧ (∀ d, d ≠ c → t.core d = s.core d))

/-- Registers of a partition and its logical clocks. -/
def Obligations.PartitionRegistersAndClocks : Prop := Spec.PartitionRegisters ∧ Spec.LogicalClocks

/-- R410 to R414: a move command. It is refused with BUSY while a move runs, with BADMOVE where the leaf or the destination
is not one that moves, with PINNED on a pinned page. One that passes the detector sets STATE 01 and takes the page's
translations away; one that the detector stops pins the page in place, or at the end of its move to the second tier. When the accesses
through the old frame are performed, the bytes stand in the new one and the leaf names it. A pin that ends leaves STATE 00.
Where the level of a leaf comes from is the model's (log 19), and that a refused move is not counted (log 45). -/
def Obligations.PageMoves : Prop := ∀ (s : State) (p : Nat),
  let x := s.part p
  let res (s : State) (code : BitVec 8) (busy : Bool) : State :=
    s.setPart p { s.part p with reg := { (s.part p).reg with migRes := code, migBusy := busy } }
  (∀ v,
    let pte := x.reg.migpte.toNat
    let e := readHome s pte 8
    let loc := (v.extractLsb' 56 2).toNat
    let frame := (v.extractLsb' 16 36).toNat * 2 ^ 16
    (x.reg.migBusy = true → exec (.miggoMove p v) s = .next (res s 0x15 true)) ∧
    (x.reg.migBusy = false → leafLevel s p pte = none → exec (.miggoMove p v) s = .next (res s 0x16 false)) ∧
    (∀ level, x.reg.migBusy = false → leafLevel s p pte = some level →
      let l := leafOf e pte level 0
      let bad : Prop := bitSet e 0 = false ∨ bitSet e 1 = false ∨ level = 0 ∨ leafMalformed x e level l = true ∨ 2 ≤ l.loc ∨ 2 ≤ loc ∨ loc = l.loc ∨
        frame % pageBytes level ≠ 0 ∨ inTier loc frame (pageBytes level) = false
      let begins (s1 : State) (pin : Bool) : Prop := allHome s → ∃ t, exec (.miggoMove p v) s = .next t ∧
        (t.part p).move = some { pte, level, oldFrame := l.frame, loc, frame, pin } ∧ (t.part p).reg = { x.reg with migBusy := true } ∧
        (t.part p).thrash = (s1.part p).thrash ∧ t.mem = s.mem.writeNat pte 8 (e - l.state * 2 ^ 58 + 2 ^ 58) ∧
        (∀ c ∈ coresOf s p, ∀ y ∈ (t.core c).tlb, y.ctxid / 16 = p → y.leaf.pte ≠ pte)
      (bad → exec (.miggoMove p v) s = .next (res s 0x16 false)) ∧
      (¬ bad → l.state = 2 → exec (.miggoMove p v) s = .next (res s 0x14 false)) ∧
      (¬ bad → l.state ≠ 2 →
        (thrashCount x (x.gt.now s).toNat pte = none → begins s false) ∧
        (∀ es, thrashCount x (x.gt.now s).toNat pte = some (es, false) → begins (s.setPart p { x with thrash := es }) false) ∧
        (∀ es, thrashCount x (x.gt.now s).toNat pte = some (es, true) →
          (loc = 1 → begins (s.setPart p { x with thrash := es }) true) ∧
          (loc = 0 → allHome s → ∃ t, exec (.miggoMove p v) s = .next t ∧ (t.part p).reg = { x.reg with migRes := 0x14 } ∧
            (t.part p).thrash = es ∧ t.mem = s.mem.writeNat pte 8 (e - l.state * 2 ^ 58 + 2 ^ 59)))))) ∧
  (∀ pte now, x.thrash = [] → thrashCount x now pte =
    some ([{ leaf := pte, w0 := now, n := 1, pinEnd := if x.reg.mign.toNat < 1 then some (now + x.reg.mighold.toNat * 65536000) else none }],
      decide (x.reg.mign.toNat < 1))) ∧
  (x.move = none → exec (.moveComplete p) s = .next s) ∧
  (∀ m, x.move = some m →
    (moveReady s m = false → exec (.moveComplete p) s = .next s) ∧
    (moveReady s m = true → m.level = 3 → allHome s → s.mem.wf = true → m.oldFrame % 2 ^ 16 = 0 → m.frame % 2 ^ 16 = 0 → m.oldFrame ≠ m.frame →
      m.frame < 2 ^ 52 → m.loc < 2 → m.pte % 8 = 0 → m.pte / 2 ^ 16 ≠ m.frame / 2 ^ 16 → m.pte / 2 ^ 16 ≠ m.oldFrame / 2 ^ 16 →
      ∃ t, exec (.moveComplete p) s = .next t ∧ (t.part p).move = none ∧ (t.part p).reg = { x.reg with migRes := 0, migBusy := false } ∧
        (∀ o, o < 2 ^ 16 → t.mem.read (m.frame + o) = s.mem.read (m.oldFrame + o)) ∧
        (let e := s.mem.readNat m.pte 8
         t.mem.readNat m.pte 8 = e % 2 ^ 16 + m.frame / 2 ^ 16 * 2 ^ 16 + e / 2 ^ 52 % 2 ^ 4 * 2 ^ 52 + m.loc * 2 ^ 56 +
          (if m.pin then 2 ^ 59 else 0) + e / 2 ^ 60 * 2 ^ 60) ∧
        (∀ a, a / 2 ^ 16 ≠ m.frame / 2 ^ 16 → a / 8 ≠ m.pte / 8 → t.mem.read a = s.mem.read a))) ∧
  (∀ leaf, allHome s → leaf % 8 = 0 → ∃ t, exec (.pinEnd p leaf) s = .next t ∧
    (t.part p).thrash = x.thrash.filter (fun e => e.leaf != leaf) ∧
    t.mem = (let e := s.mem.readNat leaf 8
      if e / 2 ^ 58 % 4 = 2 then s.mem.writeNat leaf 8 (e - 2 ^ 59) else s.mem))

/-- A core with what its diode reads (R460): the alarm from 95 °C on and until below 90, the throttle from 105 °C on and until below
100. -/
def Sys2Proof.sensed (k : Core) (temp : Int) : Core := { k with
  temp, alarm := decide (1520 ≤ temp) || k.alarm && decide (1440 ≤ temp), throttle := decide (1680 ≤ temp) || k.throttle && decide (1600 ≤ temp) }

/-- R457, R459 to R461: a sample of the sensors adds what was drawn to the energies, a die's part being shared by the cores that each
running partition holds there, and fills the housekeeping block, SEQ rising by 2. Alarm and throttle rise at 95 and
105 °C and fall below 90 and 100; a diode at 115 °C resets the package. VCORE takes a voltage between 360 and 520 mV in steps of 5.
SEQ is written once, since its odd value is never seen (log 33); what is read is what the sensors hold (log 35). -/
def Sys2Proof.Spec.Sensors : Prop := ∀ (s : State),
  (∀ p r, let x := s.part p
    let hot : Prop := ∃ v ∈ r.coreTemp ++ r.dieTemp ++ r.stackTemp, 1840 ≤ v
    let on (y : Partition) (d : Nat) : Nat := ((List.range 96).filter fun i => bitSet y.cores (96 * d + i)).length
    let share (d : Nat) : Nat := r.dieEnergy.getD d 0 * on x d / ((s.parts.filter fun e => e.2.running).map fun e => on e.2 d).sum
    let energy := x.energy + r.partEnergy + share 0 + share 1 + share 2 + share 3
    (hot → exec (.housekeepingSample p r) s = exec .packageReset s) ∧
    (¬ hot → x.running = false → ∃ t, exec (.housekeepingSample p r) s = .next t ∧ t.mem = s.mem) ∧
    (¬ hot → ∃ t, exec (.housekeepingSample p r) s = .next t ∧ (t.part p).energy = energy ∧ t.energy = s.energy + r.packageEnergy ∧
      ∀ c, c < 384 → c < r.coreTemp.length →
        let k := sensed (s.core c) (r.coreTemp.getD c 0)
        (t.core c).temp = k.temp ∧ (t.core c).alarm = k.alarm ∧ (t.core c).throttle = k.throttle) ∧
    (¬ hot → x.running = true → allHome s → s.mem.wf = true → ∃ t, exec (.housekeepingSample p r) s = .next t ∧
      let a := x.reg.qtab.toNat + 0x420000
      let at_ (o n v : Nat) : Prop := t.mem.readNat (a + o) n = v % 2 ^ (8 * n)
      let temp (v : Int) : Nat := (BitVec.ofInt 16 v).toNat
      at_ 0 8 (x.seq + 2) ∧ (t.part p).seq = x.seq + 2 ∧ at_ 8 8 (x.gt.now s).toNat ∧ at_ 0x10 8 energy ∧
      at_ 0x18 8 (s.energy + r.packageEnergy) ∧ at_ 0x20 4 r.packagePower ∧ at_ 0x24 4 r.modulePower ∧
      (∀ c, c < 384 → at_ (0x40 + 2 * c) 2 (if bitSet x.cores c then temp (r.coreTemp.getD c 0) else 0)) ∧
      (∀ d, d < 4 → at_ (0x340 + 16 * d) 2 (s.die d).vcore ∧ at_ (0x342 + 16 * d) 2 (r.processMonitor.getD d 0) ∧
        at_ (0x344 + 16 * d) 2 (temp (r.dieTemp.getD d 0)) ∧ at_ (0x346 + 16 * d) 2 (temp (r.stackTemp.getD (2 * d) 0)) ∧
        at_ (0x348 + 16 * d) 2 (temp (r.stackTemp.getD (2 * d + 1) 0))) ∧
      (∀ c, c < 96 → at_ (0x380 + 2 * c) 2 (r.channels.getD c 0)) ∧
      (∀ b, b < a ∨ a + 4096 ≤ b → t.mem.read b = s.mem.read b))) ∧
  (∀ c temp, ∀ e ∈ [Instr.thermalAlarm c temp, .thermalAlarmClear c temp, .thermalThrottle c temp, .thermalThrottleEnd c temp],
    let k := sensed (s.core c) temp
    (1840 ≤ temp → exec e s = exec .packageReset s) ∧
    (temp < 1520 → exec e s = .next (s.setCore c k)) ∧
    (1520 ≤ temp → temp < 1840 → ∃ t, exec e s = .next t ∧ (t.core c).alarm = true ∧ (t.core c).temp = temp ∧
      (t.core c).throttle = k.throttle ∧ t.mem = s.mem ∧ (partOfCore s c = none → t = s.setCore c k))) ∧
  (∀ d temp, ∃ t, exec (.thermalShutdown d temp) s = .next t ∧
    (1840 ≤ temp → exec .packageReset s = .next t) ∧ (temp < 1840 → t = s.setDie d { s.die d with tmax := temp })) ∧
  (∀ d mv,
    (360 ≤ mv → mv ≤ 520 → mv % 5 = 0 → exec (.voltageAdjust d mv) s = .next (s.setDie d { s.die d with vcore := mv })) ∧
    (mv < 360 ∨ 520 < mv ∨ mv % 5 ≠ 0 → exec (.voltageAdjust d mv) s = .next s))

/-- 22 R431: the thermal unit. On an alarm it pre-empts, of the groups resident for MINRES, the one resident longest, to restore it on the
coolest core of the die that has no alarm and room for it; at most once per MINRES. -/
def Sys2Proof.Spec.ThermalMigration : Prop := ∀ (s : State) (c p kn g : Nat) (temp : Int) (th : Thread) (k : Kernel) (goal : Nat),
  1520 ≤ temp → temp < 1840 → partOfCore s c = some p → s.kernel? p kn = some k → th ∈ s.threads → th.id = .grp p kn g → (s.threads.map (·.id)).Nodup →
  let hot := s.setCore c (sensed (s.core c) temp)
  let min := (s.part p).reg.minres.toNat * 2500
  let able (x : Thread) : Prop := x.core = c ∧ (x.run = .ready ∨ x.run = .parked ∨ ∃ w, x.run = .waiting w) ∧
    x.chain = none ∧ x.preempt = false ∧ x.residentSince + min ≤ s.t
  let cool (d : Nat) : Prop := bitSet (s.part p).cores d = true ∧ d < 384 ∧ d ≠ c ∧ d / 96 = c / 96 ∧ (s.core d).alarm = false ∧
    restoreFits hot p k th d = true
  c < 384 → able th → (∀ x ∈ s.threads, x ≠ th → able x → th.residentSince < x.residentSince) → cool goal →
  (∀ d, cool d → d ≠ goal → (s.core goal).temp < (s.core d).temp ∨ (s.core goal).temp = (s.core d).temp ∧ goal < d) →
  (∀ n, (s.core c).lastMigration = some n → s.t < n + min → exec (.thermalAlarm c temp) s = .next hot) ∧
  ((∀ n, (s.core c).lastMigration = some n → n + min ≤ s.t) → ∃ t th', exec (.thermalAlarm c temp) s = .next t ∧
    t.thread? th.id = some th' ∧ th'.preempt = true ∧ th'.moveTo = some goal ∧ (t.core c).lastMigration = some s.t)

/-- Housekeeping, sensors, and the thermal migration of groups. -/
def Obligations.SensorsAndMigration : Prop := Spec.Sensors ∧ Spec.ThermalMigration

/-! ### Links, ports, time and host -/

/-- R443 to R445: the replay of a link. A good data flit that carries the expected SEQ and finds room is delivered once, and the SEQ
after it is expected; any other is discarded and asks for the expected one; an idle flit only acknowledges, and a flit with a bad CRC
does not even that (the order in which bits enter the CRC is the model's: log 26). An ACK frees the flits up to it. On a NAK the sender sends again from the SEQ named; at the eighth that names
one SEQ the link retrains, as it does after 4 µs with flits held and no ACK. A NAK is repeated after 1 µs. The sender numbers its flits
and holds them, at most 128, until they are acknowledged; what a flit carries is not the spec's (log 53). -/
def Sys2Proof.Spec.Flits : Prop := ∀ (s : State) (l : LinkId) (x : BitVec 256) (room : Bool),
  let r := s.link l
  let back := reverse l
  let seq := x.extractLsb' 0 8
  let ack := x.extractLsb' 8 8
  let type := x.extractLsb' 16 4
  let good := flitCrc x = x.extractLsb' 240 16
  let mine : Prop := (s.link back).buf.any (fun e => e.1 == ack) = true
  (r.st ≠ .up → exec (.flitReceive l x room) s = .next s) ∧
  (r.st = .up →
    (good → type = 1 → seq = r.expect → room = true → ¬ mine → exec (.flitReceive l x room) s = .next (s.setLink l
      { r with delivered := r.delivered ++ [x.extractLsb' 20 220], expect := r.expect + 1, nakOut := false })) ∧
    (good → type = 0 → ¬ mine → exec (.flitReceive l x room) s = .next s) ∧
    (good → type = 0 → mine → exec (.flitReceive l x room) s = .next (s.setLink back { s.link back with
      buf := ((s.link back).buf.dropWhile fun e => e.1 != ack).drop 1, lastAck := s.t, naks := 0, nakSeq := none })) ∧
    (good → type = 2 → ¬ mine → exec (.flitReceive l x room) s = exec (.nakReceive back seq) s) ∧
    (¬ good ∨ 2 < type.toNat ∨ (type = 1 ∧ ¬ mine ∧ (seq ≠ r.expect ∨ room = false)) → ∃ t,
      exec (.flitReceive l x room) s = .next t ∧ (t.link l).delivered = r.delivered ∧ (t.link l).expect = r.expect ∧
      (t.link l).nakOut = true ∧ (t.link l).nakAt = s.t ∧ ∀ b o, l = .boundary b o → (t.link l).resend = r.buf.dropWhile (fun e => e.1 != r.expect))) ∧
  (∀ n, let k := if r.nakSeq = some n then r.naks + 1 else 1
    let y := { r with nakSeq := some n, naks := k, resend := r.buf.dropWhile fun e => e.1 != n }
    (k < 8 ∨ r.st ≠ .up → exec (.nakReceive l n) s = .next (s.setLink l y)) ∧
    (8 ≤ k → r.st = .up → ∃ t, exec (.nakReceive l n) s = .next t ∧ (t.link l).st = .retrain ∧ (t.link back).st = .retrain ∧
      (t.link l).buf = r.buf ∧ (t.link l).resend = y.resend ∧ (t.link l).retrains = r.retrains + 1)) ∧
  (r.nakOut = false ∨ s.t < r.nakAt + 2500 → exec (.nakRepeat l) s = .next s) ∧
  (r.nakOut = true → r.nakAt + 2500 ≤ s.t →
    let s1 := s.setLink l { r with nakAt := s.t }
    (∀ b o, l = .boundary b o → exec (.nakRepeat l) s = exec (.nakReceive l r.expect) s1) ∧
    (∀ k o, l = .coupling k o → exec (.nakRepeat l) s = .next s1)) ∧
  (linkReady s l = true ↔ r.st = .up ∧ r.buf.length < 128) ∧
  (∃ f, ((sendFlit s l).link l).buf = r.buf ++ [(r.nextSeq, f)] ∧ ((sendFlit s l).link l).resend = r.resend ++ [(r.nextSeq, f)] ∧
    ((sendFlit s l).link l).nextSeq = r.nextSeq + 1) ∧
  (∀ f rest held, r.resend = (r.expect, f) :: rest → r.buf = (r.expect, f) :: held → r.buf.length < 128 →
    let y := (carryFlit s l).link l
    y.buf = held ∧ y.resend = rest ∧ y.expect = r.expect + 1) ∧
  (r.buf = [] ∨ s.t < r.lastAck + 10000 ∨ r.st ≠ .up → exec (.ackTimeout l) s = .next s) ∧
  (r.buf ≠ [] → r.lastAck + 10000 ≤ s.t → r.st = .up → ∃ t, exec (.ackTimeout l) s = .next t ∧ (t.link l).st = .retrain ∧
    (t.link back).st = .retrain ∧ (t.link l).buf = r.buf)

/-- R445: the states of a link, both directions together. Training that ends within 1 ms leaves it UP with empty buffers and SEQ 0, and the peer
known; after 1 ms without it is DOWN. A retrain that ends within 10 µs leaves it UP, to send again from the first flit not acknowledged;
the third that fails in a row takes it DOWN. A die boundary trains again after 1 ms DOWN with its buffer. ENABLE trains a coupling that is DISABLED or
DOWN, and disables any other state when it is cleared. Die boundaries start in TRAINING at reset, couplings DISABLED. -/
def Sys2Proof.Spec.LinkStates : Prop := (∀ b o, (State.reset.link (.boundary b o)).st = .training) ∧
  (∀ k o, (State.reset.link (.coupling k o)).st = .disabled) ∧ ∀ (s : State) (l : LinkId),
  let r := s.link l
  let at_ (e : Instr) (st : LinkState) (g : Link → Prop) : Prop := ∃ t, exec e s = .next t ∧ (t.link l).st = st ∧
    (t.link (reverse l)).st = st ∧ g (t.link l)
  let kept (x : Link) : Prop := x.buf = r.buf ∧ x.expect = r.expect ∧ x.delivered = r.delivered
  (∀ peer, r.st ≠ .training ∨ r.since + 2500000 < s.t → exec (.trainingDone l peer) s = .next s) ∧
  (∀ peer, r.st = .training → s.t ≤ r.since + 2500000 → s.accs = [] → at_ (.trainingDone l peer) .up fun x => x.buf = [] ∧ x.nextSeq = 0 ∧ x.expect = 0 ∧ x.peer = peer ∧
    x.delivered = r.delivered) ∧
  (r.st ≠ .training ∨ s.t < r.since + 2500000 → exec (.trainingTimeout l) s = .next s) ∧
  (r.st = .training → r.since + 2500000 ≤ s.t → at_ (.trainingTimeout l) .down kept) ∧
  (r.st ≠ .retrain → exec (.retrainDone l) s = .next s ∧ exec (.retrainTimeout l) s = .next s) ∧
  (r.st = .retrain → r.since + 25000 < s.t → exec (.retrainDone l) s = .next s) ∧
  (r.st = .retrain → s.t < r.since + 25000 → exec (.retrainTimeout l) s = .next s) ∧
  (r.st = .retrain → s.t ≤ r.since + 25000 → s.accs = [] →
    at_ (.retrainDone l) .up (fun x => kept x ∧ x.resend = r.buf ∧ x.fails = 0)) ∧
  (r.st = .retrain → r.since + 25000 ≤ s.t →
    (r.fails < 2 → at_ (.retrainTimeout l) .retrain fun x => kept x ∧ x.fails = r.fails + 1) ∧
    (2 ≤ r.fails → at_ (.retrainTimeout l) .down fun x => kept x ∧ x.fails = 0)) ∧
  (∀ b o, l = .boundary b o →
    (r.st ≠ .down ∨ s.t < r.since + 2500000 → exec (.downTimeout l) s = .next s) ∧
    (r.st = .down → r.since + 2500000 ≤ s.t → at_ (.downTimeout l) .training kept)) ∧
  (∀ k, l = .coupling k true →
    (r.st = .disabled ∨ r.st = .down → at_ (.couplingEnable k) .training kept) ∧
    (r.st ≠ .disabled → r.st ≠ .down → exec (.couplingEnable k) s = .next s) ∧
    (r.st ≠ .disabled → at_ (.couplingDisable k) .disabled kept) ∧
    (r.st = .disabled → exec (.couplingDisable k) s = .next s) ∧
    exec (.downTimeout l) s = .next s)

/-- R443 to R445: the replay of a link, and its states. -/
def Obligations.Links : Prop := Spec.Flits ∧ Spec.LinkStates

/-- The queue table of a partition lies on a page of 4 KiB, as QTAB keeps it (22 R423). -/
def Sys2Proof.tableAligned (s : State) (p : Nat) : Prop := (s.part p).reg.qtab.toNat % 2 ^ 12 = 0

/-- The record of a port half in its partition's I/O table (R446). -/
def Sys2Proof.recordOf (s : State) (p h : Nat) : Nat := (s.part p).reg.qtab.toNat + 0x400000 + 0x400 + 64 * h

/-- A half of partition p that receives (R449). -/
def Sys2Proof.receives (s : State) (p h : Nat) : Prop :=
  partOfHalf s h = some p ∧ (s.port h).up = true ∧ bitSet (s.port h).ctl.toNat 0 = true ∧ halfIdle s p h = false

/-- R446, R449, R451, R454: port halves. STATE of the record follows the half. A change of the record takes CTL and EGQ, and a new EGQ
ends the halt. A frame at a half that is down, disabled, idle or in no partition, or whose receive buffer of 512 KiB has no room for it, is
not received; one that no rule matches counts in RXF
and NOMATCH; one that a rule matches lands in the rule's next slot, and its FRAME cart in the rule's queue, but where level 0 of that
queue is full: then DROPS rises. Behind another in the buffer, or where its page is on the move or behind a link that is not UP, it waits.
PAUSE stops its priorities for the time that it names. Above 384 KiB in the buffer flow control goes out where FC is set, and it ends
below 128 KiB.
That the addresses are those of context 0 is the model's (log 24), and that PFC or PAUSE is negotiated is a free value (log 59). -/
def Sys2Proof.Spec.PortHalves : Prop := ∀ (s : State) (h : Nat),
  let x := s.port h
  (∀ up, ∀ e ∈ [(Instr.portHalfUp h, true), (.portHalfDown h, false)], e.2 = up →
    (partOfHalf s h = none → exec e.1 s = .next (s.setPort h { x with up })) ∧
    (∀ p, partOfHalf s h = some p → allHome s → s.mem.wf = true → ∃ t, exec e.1 s = .next t ∧ t.port h = { x with up } ∧
      t.mem = s.mem.writeNat (recordOf s p h + 1) 1 (if up then 1 else 0))) ∧
  (partOfHalf s h = none → exec (.ioTableRecordChange h) s = .next s) ∧
  (∀ p, partOfHalf s h = some p → allHome s → tableAligned s p → exec (.ioTableRecordChange h) s =
    .next (s.setPort h { x with
      ctl := BitVec.ofNat 8 (s.mem.readNat (recordOf s p h) 1), egq := BitVec.ofNat 64 (s.mem.readNat (recordOf s p h + 8) 8)
      egHalt := x.egHalt && BitVec.ofNat 64 (s.mem.readNat (recordOf s p h + 8) 8) == x.egq })) ∧
  (∀ frame bad, (∀ p, ¬ receives s p h) → exec (.ingressFrame h frame bad) s = .next s) ∧
  (∀ frame bad p, receives s p h → 512 * 1024 < x.rxLevel + frame.length → exec (.ingressFrame h frame bad) s = .next s) ∧
  (∀ frame bad p, receives s p h → x.rxLevel + frame.length ≤ 384 * 1024 → allHome s → tableAligned s p → s.mem.wf = true →
    let a := recordOf s p h
    let rxf := s.mem.readNat (a + 16) 8
    let s1 := if rxf + 1 < 2 ^ 64 then paWrite s (a + 16) 8 (rxf + 1) else s
    (ruleFor s1 p h frame = none → rxf + 1 < 2 ^ 64 → s.mem.readNat (a + 24) 8 + 1 < 2 ^ 64 → ∃ t,
      exec (.ingressFrame h frame bad) s = .next t ∧ t.mem.readNat (a + 16) 8 = rxf + 1 ∧
      t.mem.readNat (a + 24) 8 = s.mem.readNat (a + 24) 8 + 1 ∧ t.queues = s.queues ∧ t.ports = s.ports) ∧
    (∀ n r, ruleFor s1 p h frame = some (n, r) →
      (∀ k, k < 8 → frame.getD (r.moff + k) 0 &&& r.mask.getD k 0 = r.value.getD k 0 &&& r.mask.getD k 0) ∧
      (∀ m, m < n → (readRule s1 p h m).matches frame = false) ∧
      let i := tget 0 n x.slots
      let addr := r.pool + i % 2 ^ r.cntLog * 2 ^ r.slotLog
      let s2 := s1.setPort h { x with slots := tset n (i + 1) x.slots }
      let landed := hwWriteList s2 p 0 {} addr 1 ((frame.take (2 ^ r.slotLog)).map (·.toNat))
      (x.rx ≠ [] ∨ landed = .error WAITS → ∃ t, exec (.ingressFrame h frame bad) s = .next t ∧ (t.port h).rx = x.rx ++
        [{ bytes := frame, badFcs := bad, stamp := x.gt.now s, num := n, rule := r }] ∧ t.queues = s.queues) ∧
      ∀ s3 q, x.rx = [] → landed = .ok s3 →
        findQueue s3 p r.queue (r.queue.getLsbD 40) = .ok q → q.st = .active → settledQueue s3 q → q.waiters = [] → q.levels.length = 4 →
        let lvl := if q.stream then 0 else r.sp / 16 % 4
        (2 ^ q.cap ≤ (q.level 0).length → ∃ t, exec (.ingressFrame h frame bad) s = .next t ∧
          t.queue? q.id = some { q with drops := if q.drops = 0xFFFFFFFF then q.drops else q.drops + 1 }) ∧
        ((q.level 0).length < 2 ^ q.cap → (q.level lvl).length < 2 ^ q.cap →
        ∃ t c aged, exec (.ingressFrame h frame bad) s = .next t ∧ t.mem = s3.mem ∧ (t.port h).slots = tset n (i + 1) x.slots ∧
          (t.port h).rx = [] ∧ t.queue? q.id = some { q.setLevel lvl (q.level lvl ++ [c]) with agedTo := aged } ∧ c.since = s.mesh ∧
          c.words.getD 1 0 = BitVec.ofNat 32 addr ∧ c.words.getD 2 0 = BitVec.ofNat 32 (addr / 2 ^ 32) ∧ c.words.getD 3 0 = r.stream frame ∧
          (c.words.getD 5 0 ++ c.words.getD 4 0 : DWord) = x.gt.now s ∧ c.words.getD 6 0 = BitVec.ofNat 32 frame.length ∧
          c.words.getD 7 0 = BitVec.ofNat 32 (h % 16 + (if bad then 16 else 0))))) ∧
  (∀ (ps : BitVec 8) n, ∃ t, exec (.pauseReceived h ps n) s = .next t ∧ (∀ i, i < 8 → ps.getLsbD i = true → (i, s.t + n) ∈ (t.port h).paused) ∧
    (∀ e ∈ x.paused, ¬ (e.1 < 8 ∧ ps.getLsbD e.1 = true) → e ∈ (t.port h).paused) ∧ (∀ j, j ≠ h → t.port j = s.port j)) ∧
  (∀ i, exec (.pauseTimeExpiry h i) s = .next (s.setPort h { x with paused := x.paused.filter fun e => !(e.1 == i && e.2 ≤ s.t) })) ∧
  (x.rxLevel ≤ 384 * 1024 → exec (.rxBufferHigh h) s = .next s) ∧
  (384 * 1024 < x.rxLevel → exec (.rxBufferHigh h) s = .next (s.setPort h { x with
    rxHigh := true
    flow := if x.ctl.getLsbD 2 then some (if Config.pfcNegotiated h then .pfc else .pause) else x.flow })) ∧
  (128 * 1024 ≤ x.rxLevel → exec (.rxBufferLow h) s = .next s) ∧
  (x.rxLevel < 128 * 1024 → exec (.rxBufferLow h) s = .next (s.setPort h { x with rxHigh := false, flow := none }))

/-- R453: egress. A half that may send takes the next cart of EGQ, if its priority is not paused (log 25); a handle that is not good halts
it. The port then fetches the frame's bytes, from the address that the cart names. When the frame has left, TXF rises and the record at the cart's bytes 16 to 23 takes the stamp that was asked for and VALID; a length
that is out of range sends nothing and reports BADLEN. -/
def Sys2Proof.Spec.Egress : Prop := ∀ (s : State) (h p : Nat), receives s p h →
  let x := s.port h
  (x.egq = 0 ∨ x.tx ≠ none ∨ x.egHalt = true → exec (.egressPop h) s = .next s) ∧
  (x.egq ≠ 0 → x.tx = none → x.egHalt = false →
    (∀ c, findQueue s p x.egq (x.egq.getLsbD 41) = .error c → exec (.egressPop h) s = .next (s.setPort h { x with egHalt := true })) ∧
    (∀ q, findQueue s p x.egq (x.egq.getLsbD 41) = .ok q → settledQueue s q → q.stream = false → q.levels.length = 4 →
      (q.levels = [[], [], [], []] ∨ popsHeld s q = true → exec (.egressPop h) s = .next s) ∧
      (∀ l c cs, popsHeld s q = false → l < 4 → q.level l = c :: cs → (∀ m, l < m → m < 4 → q.level m = []) → q.st = .active →
        ((∀ e ∈ x.paused, e.1 = prioOf c.words → e.2 ≤ s.t) → ∃ aged, exec (.egressPop h) s = .next ((s.setQueue
          { q.setLevel l cs with lastPop := s.mesh, agedTo := aged }).setPort h { x with tx := some c.words })) ∧
        ((∃ e ∈ x.paused, e.1 = prioOf c.words ∧ s.t < e.2) → exec (.egressPop h) s = .next s)))) ∧
  (x.tx = none → exec (.egressComplete h) s = .next s) ∧
  (∀ ws, x.tx = some ws → allHome s → tableAligned s p → s.mem.wf = true →
    let len := (ws.getD 3 0).toNat
    let fine := 60 ≤ len ∧ len ≤ 16383
    let from_ : DWord := ws.getD 2 0 ++ ws.getD 1 0
    let rec_ : DWord := ws.getD 5 0 ++ ws.getD 4 0
    let txf := s.mem.readNat (recordOf s p h + 40) 8
    (∀ v : Nat → Byte, fine → x.txData = none → from_.toNat + len ≤ 2 ^ 64 →
      (∀ i, i < len → hwRead s p 0 {} (from_.toNat + i) 1 = .ok (v i).toNat) →
      ∃ t, egressFetch s h = some t ∧ t.port h = { x with txData := some ((List.range len).map v) } ∧ t.mem = s.mem) ∧
    (fine → x.txData = none → exec (.egressComplete h) s = .next s) ∧
    (¬ fine ∨ x.txData ≠ none →
    (rec_ = 0 → ∃ t, exec (.egressComplete h) s = .next t ∧ t.port h = { x with tx := none, txData := none } ∧
      t.mem = (if fine ∧ txf + 1 < 2 ^ 64 then s.mem.writeNat (recordOf s p h + 40) 8 (txf + 1) else s.mem)) ∧
    let s1 := s.setPort h { x with tx := none, txData := none }
    let s2 := if fine ∧ txf + 1 < 2 ^ 64 then paWrite s1 (recordOf s p h + 40) 8 (txf + 1) else s1
    let stamp := if fine ∧ (ws.getD 6 0).getLsbD 0 = true then (x.gt.now s).toNat else 0
    (∀ key, rec_ ≠ 0 → hwKey s2 p 0 {} rec_.toNat .store = .ok key →
      hwKey (paWrite s2 key 8 stamp) p 0 {} (rec_.toNat + 8) .store = .ok (key + 8) →
      ∃ t, exec (.egressComplete h) s = .next t ∧ t.port h = { x with tx := none, txData := none } ∧ t.mem.readNat key 8 = stamp ∧
        t.mem.readNat (key + 8) 8 = (if fine then 0 else 0x1C) + 2 ^ 63)))

/-- R446, R449 to R454: Ethernet port halves. -/
def Obligations.Ports : Prop := Spec.PortHalves ∧ Spec.Egress

/-- R455, R456: the timebase. A send gives every copy the master's value; the first leaves it unsynchronised, a difference above GTGUARD
does so again, and four in a row at or below half of it synchronise it. The time block of the lowest running partition with TMASTER
sets the rate and adds STEP once for a new SEQ, AT taking the master's value before it, APPLIED the SEQ; with none the rate is 0.
Copies count at the master's rate without drift (log 34). -/
def Sys2Proof.Spec.GlobalTime : Prop := ∀ (s : State),
  let now := s.gt.value + gtAdvance s.gt.rate (s.t - s.gt.since)
  (∃ t, exec .gtSyncSend s = .next t ∧ t.mem = s.mem ∧ t.gt = { s.gt with step := 0 } ∧
    let received (y z : GtCopy) (guard : Nat) : Prop :=
      let mine := y.value + gtAdvance s.gt.rate (s.t - y.since) + s.gt.step
      let diff : Nat := if mine.ult now then (now - mine).toNat else (mine - now).toNat
      z.value = now ∧ z.since = s.t ∧ z.first = false ∧
      (y.first = true → z.sync = false ∧ z.good = 0) ∧
      (y.first = false → y.sync = true → z.sync = decide (diff ≤ guard)) ∧
      (y.first = false → y.sync = false → guard / 2 < diff → z.sync = false ∧ z.good = 0) ∧
      (y.first = false → y.sync = false → diff ≤ guard / 2 → (y.good < 3 → z.sync = false ∧ z.good = y.good + 1) ∧
        (3 ≤ y.good → z.sync = true))
    (∀ c, c < 400 → received (s.core c).gt (t.core c).gt (guardOf s (guardPart s c))) ∧
    (∀ p, p < 8 → received (s.part p).gt (t.part p).gt (guardOf s (some p))) ∧
    (∀ h, h < 16 → received (s.port h).gt (t.port h).gt (guardOf s (partOfHalf s h)))) ∧
  (∀ p, guardOf s (some p) = (s.part p).reg.gtguard.toNat * 2 ^ 16) ∧
  (allHome s → s.mem.wf = true →
    let block (p : Nat) : Nat := (s.part p).reg.qtab.toNat + 0x400000
    let claims (e : Nat × Partition) : Bool := e.2.running && bitSet (s.mem.readNat (block e.1) 1) 0
    (s.parts.find? claims = none → ∃ t, exec .timeBlockPoll s = .next t ∧ t.mem = s.mem ∧ t.gt.rate = 0 ∧ masterNow t = now) ∧
    (∀ p y, s.parts.find? claims = some (p, y) → tableAligned s p →
      let a := block p
      let seq := s.mem.readNat (a + 20) 4
      (seq = s.mem.readNat (a + 24) 4 → exec .timeBlockPoll s = .next s) ∧
      (seq ≠ s.mem.readNat (a + 24) 4 → ∃ t, exec .timeBlockPoll s = .next t ∧
        t.gt.rate = (BitVec.ofNat 32 (s.mem.readNat (a + 16) 4)).toInt ∧
        masterNow t = now + BitVec.ofNat 64 (s.mem.readNat (a + 8) 8) ∧ t.gt.step = s.gt.step + BitVec.ofNat 64 (s.mem.readNat (a + 8) 8) ∧
        t.mem = (s.mem.writeNat (a + 32) 8 now.toNat).writeNat (a + 24) 4 seq)))

/-- R448: the host. An access through CXL.mem within the memory's ranges waits its turn, cut at the lines' ends; the first that can cross
from die 0 to its line's home is performed there (01 R15, R24): a store's bytes are in memory, a load's go to the host. A read of BAR0
answers the register, the boot status, or 0; a write takes effect at KLDB and KCTL of a running partition. -/
def Sys2Proof.Spec.Host : Prop := ∀ (s : State),
  (∀ addr w n,
    let len := match w with
      | some bs => bs.length
      | none => n
    (paExists addr = false ∨ paExists (addr + len - 1) = false ∨ 2 ^ 43 ≤ addr → exec (.hostCxlMemAccess addr w n) s = .next s) ∧
    (paExists addr = true → paExists (addr + len - 1) = true → addr < 2 ^ 43 → ∃ rs : List HostReq,
      exec (.hostCxlMemAccess addr w n) s = .next { s with hostReqs := s.hostReqs ++ rs } ∧
      (∀ r ∈ rs, r.count ≠ 0 ∧ r.addr % 128 + r.count ≤ 128 ∧ addr ≤ r.addr ∧ r.addr + r.count ≤ addr + len ∧
        r.write = w.map fun bs => (bs.drop (r.addr - addr)).take r.count) ∧
      (∀ i, i < len → ∃ r ∈ rs, r.addr ≤ addr + i ∧ addr + i < r.addr + r.count))) ∧
  ((∀ r ∈ s.hostReqs, lineReachable s 0 r.addr = false) → dueHost s = none) ∧
  (∀ r rs, s.hostReqs = r :: rs → lineReachable s 0 r.addr = true → ∃ t, dueHost s = some t ∧ t.hostReqs = rs ∧
    (allHome s → s.mem.wf = true → r.addr % 128 + r.count ≤ 128 →
      (∀ bs, r.write = some bs → bs.length = r.count → t.mem = s.mem.writeBytes r.addr bs ∧ t.hostMem = s.hostMem) ∧
      (r.write = none → t.mem = s.mem ∧ t.hostMem = s.hostMem ++ [(r.addr, s.mem.readBytes r.addr r.count)]))) ∧
  (∀ off, let p := off / 0x100
    let y := (s.part p).reg
    exec (.bar0Access off none) s = .next { s with hostBar := s.hostBar ++ [(off,
      if off = 0x1000 then s.bootStatus.toNat
      else if p < 8 ∧ off % 0x100 = 8 then y.klKn.toNat + (if y.klValid then 2 ^ 31 else 0) + y.klRes.toNat * 2 ^ 32
      else if p < 8 ∧ off % 0x100 = 16 then y.kctlKn.toNat
      else 0)] }) ∧
  (∀ off x, let p := off / 0x100
    (8 ≤ p ∨ (s.part p).running = false ∨ (off % 0x100 ≠ 0 ∧ off % 0x100 ≠ 16) → exec (.bar0Access off (some x)) s = .next s) ∧
    (p < 8 → (s.part p).running = true → off % 0x100 = 0 → exec (.bar0Access off (some x)) s = exec (.kldbLaunch p x) s) ∧
    (p < 8 → (s.part p).running = true → off % 0x100 = 16 →
      let s1 := s.setPart p { s.part p with reg := { (s.part p).reg with kctlKn := x.extractLsb' 0 6 } }
      (x.getLsbD 8 = false → exec (.bar0Access off (some x)) s = .next s1) ∧
      (x.getLsbD 8 = true → exec (.bar0Access off (some x)) s = exec (.kctlKill p (x.extractLsb' 0 6).toNat) s1)))

/-- R448, R455 and R456: the timebase and the host. -/
def Obligations.GlobalTimeAndHost : Prop := Spec.GlobalTime ∧ Spec.Host

end Statements
end

