-- ==== Sys2Proof/Laws/Alu.lean ====
section
/-! SUPPORT. Laws of the integer arithmetic: each operation on natural images (05_scalar R123..R126) is the operation on bit
vectors of the width. -/

namespace Sys2Proof.Machine

variable {w : Nat} (ty : BitVec 4) (x y : BitVec w)

theorem imageOf_toInt_lt (z : Int) : imageOf w z = (BitVec.ofInt w z).toNat := by
  simp [imageOf, BitVec.toNat_ofInt]

/-- Val of an image is the bit vector read in the type (R123). -/
theorem val_eq : val ty w x.toNat = if isSigned ty then x.toInt else (x.toNat : Int) := by
  unfold val
  by_cases hs : isSigned ty = true
  · simp only [hs, Bool.true_and, decide_eq_true_eq, if_true]
    rcases Nat.eq_zero_or_pos w with rfl | hw
    · have : x.toNat = 0 := by have := x.isLt; omega
      simp [this, BitVec.toInt_eq_toNat_cond]
    · rw [BitVec.toInt_eq_toNat_cond]
      have h2 : 2 ^ w = 2 * 2 ^ (w - 1) := by
        conv => lhs; rw [show w = (w - 1) + 1 by omega, Nat.pow_succ]
        omega
      by_cases h : 2 ^ (w - 1) ≤ x.toNat
      · rw [if_pos h, if_neg (by omega)]; push_cast; rfl
      · rw [if_neg h, if_pos (by omega)]
  · simp [hs]

theorem valSigned_eq : valSigned w x.toNat = x.toInt := by
  have := val_eq (0 : BitVec 4) x
  simpa [val, valSigned, isSigned] using this

theorem iAdd_eq : iAdd ty w x.toNat y.toNat = (x + y).toNat := by simp [iAdd, BitVec.toNat_add]

theorem iSub_eq : iSub ty w x.toNat y.toNat = (x - y).toNat := by
  rw [iSub, BitVec.toNat_sub, Nat.add_comm]

theorem iMul_eq : iMul ty w x.toNat y.toNat = (x * y).toNat := by simp [iMul, BitVec.toNat_mul]

theorem iAnd_eq : iAnd ty w x.toNat y.toNat = (x &&& y).toNat := by simp [iAnd]

theorem iOr_eq : iOr ty w x.toNat y.toNat = (x ||| y).toNat := by simp [iOr]

theorem iXor_eq : iXor ty w x.toNat y.toNat = (x ^^^ y).toNat := by simp [iXor]

theorem iAndn_eq : iAndn ty w x.toNat y.toNat = (x &&& ~~~y).toNat := by simp [iAndn, BitVec.toNat_not]

theorem iShl_eq : iShl ty w x.toNat y.toNat = (x <<< (y.toNat % w)).toNat := by
  simp [iShl, BitVec.toNat_shiftLeft, Nat.shiftLeft_eq]

theorem iShr_eq : iShr ty w x.toNat y.toNat = (x >>> (y.toNat % w)).toNat := by
  simp [iShr, BitVec.toNat_ushiftRight, Nat.shiftRight_eq_div_pow]

theorem iSra_eq : iSra ty w x.toNat y.toNat = (x.sshiftRight (y.toNat % w)).toNat := by
  rw [iSra, valSigned_eq, imageOf_toInt_lt, BitVec.sshiftRight]
  congr 2
  rw [Int.shiftRight_eq_div_pow]; push_cast; rfl

theorem iMin_eq : iMin ty w x.toNat y.toNat = (if (if isSigned ty then x.slt y else x.ult y) then x else y).toNat := by
  simp only [iMin, val_eq]
  by_cases hs : isSigned ty = true
  · simp only [hs, if_true, BitVec.slt_eq_decide, decide_eq_true_eq]
    by_cases h : x.toInt < y.toInt
    · rw [if_neg (by omega), if_pos h]
    · rw [if_neg h]
      split
      · rfl
      · rw [BitVec.toInt_inj.1 (by omega : x.toInt = y.toInt)]
  · simp only [hs, if_false, BitVec.ult_eq_decide, decide_eq_true_eq, Int.ofNat_lt, Bool.false_eq_true]
    by_cases h : x.toNat < y.toNat
    · rw [if_neg (by omega), if_pos h]
    · rw [if_neg h]
      split
      · rfl
      · omega

theorem iMax_eq : iMax ty w x.toNat y.toNat = (if (if isSigned ty then x.slt y else x.ult y) then y else x).toNat := by
  simp only [iMax, val_eq]
  by_cases hs : isSigned ty = true
  · simp only [hs, if_true, BitVec.slt_eq_decide, decide_eq_true_eq]
    split <;> rfl
  · simp only [hs, if_false, BitVec.ult_eq_decide, decide_eq_true_eq, Int.ofNat_lt, Bool.false_eq_true]
    split <;> rfl

theorem iDiv_zero (a : Nat) : iDiv ty w a 0 = 2 ^ w - 1 := rfl

theorem iRem_zero (a : Nat) : iRem ty w a 0 = a := rfl

theorem iDiv_eq (h : y ≠ 0) : iDiv ty w x.toNat y.toNat = (if isSigned ty then x.sdiv y else x.udiv y).toNat := by
  have hy : ¬ (y.toNat == 0) = true := by
    simp only [beq_iff_eq]; intro e; exact h (BitVec.eq_of_toNat_eq (by simpa using e))
  rw [iDiv, if_neg hy, val_eq, val_eq, imageOf_toInt_lt]
  by_cases hs : isSigned ty = true
  · simp only [hs, if_true]
    congr 1
    apply BitVec.eq_of_toInt_eq
    rw [BitVec.toInt_ofInt, BitVec.toInt_sdiv]
  · simp only [hs, if_false, Bool.false_eq_true]
    rw [← Int.ofNat_tdiv, BitVec.ofInt_natCast, BitVec.toNat_ofNat, BitVec.udiv_eq, BitVec.toNat_udiv]
    exact Nat.mod_eq_of_lt (Nat.lt_of_le_of_lt (Nat.div_le_self _ _) x.isLt)

theorem iRem_eq (h : y ≠ 0) : iRem ty w x.toNat y.toNat = (if isSigned ty then x.srem y else x.umod y).toNat := by
  have hy : ¬ (y.toNat == 0) = true := by
    simp only [beq_iff_eq]; intro e; exact h (BitVec.eq_of_toNat_eq (by simpa using e))
  rw [iRem, if_neg hy, val_eq, val_eq, imageOf_toInt_lt]
  by_cases hs : isSigned ty = true
  · simp only [hs, if_true]
    congr 1
    apply BitVec.eq_of_toInt_eq
    rw [BitVec.toInt_ofInt, ← BitVec.toInt_srem, BitVec.toInt_bmod_cancel]
  · simp only [hs, if_false, Bool.false_eq_true]
    rw [← Int.ofNat_tmod, BitVec.ofInt_natCast, BitVec.toNat_ofNat, BitVec.umod_eq, BitVec.toNat_umod]
    exact Nat.mod_eq_of_lt (Nat.lt_of_le_of_lt (Nat.mod_le _ _) x.isLt)

theorem iRot_eq (hw : 0 < w) : iRot ty w x.toNat y.toNat = (x.rotateRight (y.toNat % w)).toNat := by
  rw [iRot, BitVec.toNat_rotateRight, Nat.mod_mod]
  generalize hk : y.toNat % w = k
  have hlt : k < w := hk ▸ Nat.mod_lt _ hw
  have hx := x.isLt
  have h1 : x.toNat / 2 ^ k < 2 ^ (w - k) := by
    rw [Nat.div_lt_iff_lt_mul (Nat.two_pow_pos k), ← Nat.pow_add]
    rwa [show w - k + k = w by omega]
  rw [Nat.shiftRight_eq_div_pow, Nat.shiftLeft_eq, Nat.or_comm]
  have h2 : x.toNat * 2 ^ (w - k) % 2 ^ w = 2 ^ (w - k) * (x.toNat % 2 ^ k) := by
    rw [show 2 ^ w = 2 ^ k * 2 ^ (w - k) by rw [← Nat.pow_add]; congr 1; omega, Nat.mul_mod_mul_right, Nat.mul_comm]
  rw [h2, ← Nat.two_pow_add_eq_or_of_lt h1, Nat.add_mod, h2]
  have h3 : 2 ^ (w - k) * (x.toNat % 2 ^ k) + x.toNat / 2 ^ k < 2 ^ w := by
    have : x.toNat % 2 ^ k + 1 ≤ 2 ^ k := Nat.mod_lt _ (Nat.two_pow_pos k)
    calc 2 ^ (w - k) * (x.toNat % 2 ^ k) + x.toNat / 2 ^ k
        < 2 ^ (w - k) * (x.toNat % 2 ^ k) + 2 ^ (w - k) := by omega
      _ = 2 ^ (w - k) * (x.toNat % 2 ^ k + 1) := by rw [Nat.mul_add, Nat.mul_one]
      _ ≤ 2 ^ (w - k) * 2 ^ k := Nat.mul_le_mul_left _ this
      _ = 2 ^ w := by rw [← Nat.pow_add]; congr 1; omega
  rw [Nat.mod_eq_of_lt (Nat.lt_of_le_of_lt (Nat.div_le_self _ _) hx), Nat.add_comm, Nat.mod_eq_of_lt h3]

/-- The high half of the exact product (R123). -/
theorem iMulh_eq (hw : 0 < w) : iMulh ty w x.toNat y.toNat =
    (if isSigned ty then (x.signExtend (2 * w) * y.signExtend (2 * w)).extractLsb' w w
      else (x.zeroExtend (2 * w) * y.zeroExtend (2 * w)).extractLsb' w w).toNat := by
  rw [iMulh, val_eq, val_eq]
  have key : ∀ (z : Int) (p : BitVec (2 * w)), p = BitVec.ofInt (2 * w) z → imageOf w (z / 2 ^ w) = (p.extractLsb' w w).toNat := by
    intro z p hp
    rw [BitVec.extractLsb'_toNat, Nat.shiftRight_eq_div_pow, hp, BitVec.toNat_ofInt, imageOf]
    have e2 : ((2 ^ (2 * w) : Nat) : Int) = 2 ^ w * 2 ^ w := by
      push_cast; rw [← Int.pow_add]; congr 1; omega
    have hpos : (0 : Int) < 2 ^ w := Int.pow_pos (by decide)
    have hne : ((2 : Int) ^ w) ≠ 0 := Int.ne_of_gt hpos
    rw [e2]
    have hn : 0 ≤ z % (2 ^ w * 2 ^ w) := Int.emod_nonneg _ (Int.ne_of_gt (Int.mul_pos hpos hpos))
    apply Int.ofNat_inj.1
    rw [Int.toNat_of_nonneg (Int.emod_nonneg _ hne)]
    push_cast
    rw [Int.toNat_of_nonneg hn, Int.emod_def z, Int.mul_assoc, Int.sub_mul_ediv_left _ _ hne, Int.sub_mul_emod_self_left]
  by_cases hs : isSigned ty = true
  · simp only [hs, if_true]
    apply key
    apply BitVec.eq_of_toInt_eq
    rw [BitVec.toInt_mul, BitVec.toInt_ofInt, BitVec.toInt_signExtend_of_le (by omega), BitVec.toInt_signExtend_of_le (by omega)]
  · simp only [hs, if_false, Bool.false_eq_true]
    apply key
    apply BitVec.eq_of_toNat_eq
    rw [← Int.natCast_mul, BitVec.ofInt_natCast, BitVec.toNat_ofNat, BitVec.toNat_mul, BitVec.toNat_setWidth, BitVec.toNat_setWidth]
    simp [Nat.mul_mod]

/-! ### Counts, reversal and fields -/

theorem div_pow_mod_two (i : Nat) : x.toNat / 2 ^ i % 2 = (x.getLsbD i).toNat := by
  rw [BitVec.getLsbD, Nat.testBit_eq_decide_div_mod_eq]
  rcases Nat.mod_two_eq_zero_or_one (x.toNat / 2 ^ i) with h | h <;> simp [h]

/-- `sclz` (R125): the index of the first 1 bit from the top. -/
theorem iClz_spec : (x = 0 → iClz w x.toNat = w) ∧
    (x ≠ 0 → iClz w x.toNat < w ∧ x.getLsbD (w - 1 - iClz w x.toNat) = true ∧
      ∀ j, w - 1 - iClz w x.toNat < j → x.getLsbD j = false) := by
  refine ⟨fun h => by simp [h, iClz], fun h => ?_⟩
  have hx : x.toNat ≠ 0 := fun e => h (BitVec.eq_of_toNat_eq (by simpa using e))
  have hlog : x.toNat.log2 < w := (Nat.log2_lt hx).2 x.isLt
  have e : iClz w x.toNat = w - 1 - x.toNat.log2 := by simp [iClz, hx]
  have e2 : w - 1 - iClz w x.toNat = x.toNat.log2 := by omega
  refine ⟨by omega, ?_, fun j hj => ?_⟩
  · rw [e2, BitVec.getLsbD, Nat.testBit_log2 hx]
  · rw [e2] at hj
    rw [BitVec.getLsbD]
    exact Nat.testBit_lt_two_pow (Nat.lt_of_lt_of_le Nat.lt_log2_self (Nat.pow_le_pow_right (by decide) hj))

/-- `spopc` (R125). -/
theorem iPopc_eq : iPopc w x.toNat = ((List.range w).filter fun i => x.getLsbD i).length := by
  have key : ∀ (l : List Nat) (n : Nat), l.foldl (fun n i => n + x.toNat / 2 ^ i % 2) n =
      n + (l.filter fun i => x.getLsbD i).length := by
    intro l
    induction l with
    | nil => simp
    | cons i l ih =>
      intro n
      rw [List.foldl_cons, ih, div_pow_mod_two, List.filter_cons]
      cases x.getLsbD i <;> simp; omega
  simpa [iPopc] using key (List.range w) 0

/-- `sbrev` (R125). -/
theorem iBrev_testBit {i : Nat} (h : i < w) : (iBrev w x.toNat).testBit i = x.getLsbD (w - 1 - i) := by
  have key : ∀ k, k ≤ w → (∀ i, ((List.range k).foldl (fun n i => n + x.toNat / 2 ^ i % 2 * 2 ^ (w - 1 - i)) 0).testBit i =
      (decide (w - k ≤ i ∧ i < w) && x.getLsbD (w - 1 - i))) ∧
      2 ^ (w - k) ∣ (List.range k).foldl (fun n i => n + x.toNat / 2 ^ i % 2 * 2 ^ (w - 1 - i)) 0 := by
    intro k
    induction k with
    | zero =>
      intro _; refine ⟨fun i => ?_, by simp⟩
      have : ¬ (w - 0 ≤ i ∧ i < w) := by omega
      simp only [List.range_zero, List.foldl_nil, Nat.zero_testBit, decide_eq_false this, Bool.false_and]
    | succ k ih =>
      intro hk
      obtain ⟨ih1, c, hc⟩ := ih (by omega)
      rw [List.range_succ, List.foldl_append]
      simp only [List.foldl_cons, List.foldl_nil]
      rw [div_pow_mod_two]
      have hlt : (x.getLsbD k).toNat * 2 ^ (w - 1 - k) < 2 ^ (w - k) := by
        have : 2 ^ (w - 1 - k) < 2 ^ (w - k) := Nat.pow_lt_pow_right (by decide) (by omega)
        cases x.getLsbD k <;> simp [this, Nat.two_pow_pos]
      refine ⟨fun i => ?_, ?_⟩
      · rw [hc, Nat.two_pow_add_eq_or_of_lt hlt, Nat.testBit_or, ← hc, ih1]
        have hb : ((x.getLsbD k).toNat * 2 ^ (w - 1 - k)).testBit i = (x.getLsbD k && decide (i = w - 1 - k)) := by
          cases x.getLsbD k <;> simp [Nat.testBit_two_pow, eq_comm]
        rw [hb]
        by_cases he : i = w - 1 - k
        · have h1 : ¬ (w - k ≤ i ∧ i < w) := by omega
          have h2 : w - (k + 1) ≤ i ∧ i < w := by omega
          have h3 : w - 1 - i = k := by omega
          rw [decide_eq_false h1, decide_eq_true h2, decide_eq_true he, h3]; simp
        · have h1 : (w - (k + 1) ≤ i ∧ i < w) ↔ (w - k ≤ i ∧ i < w) := by omega
          have h2 : decide (w - (k + 1) ≤ i ∧ i < w) = decide (w - k ≤ i ∧ i < w) := decide_eq_decide.2 h1
          rw [h2, decide_eq_false he]; simp
      · rw [hc]
        refine Nat.dvd_add ?_ ⟨(x.getLsbD k).toNat, by rw [Nat.mul_comm, show w - (k + 1) = w - 1 - k by omega]⟩
        exact Nat.dvd_trans (Nat.pow_dvd_pow 2 (by omega)) ⟨c, rfl⟩
  have := (key w (Nat.le_refl w)).1 i
  simpa [iBrev, h] using this

/-- A bit of a sign extension. -/
theorem testBit_signExt {k z : Nat} (hk : 0 < k) (hkw : k ≤ w) (i : Nat) (hi : i < w) :
    (signExt k w z).testBit i = if i < k then z.testBit i else z.testBit (k - 1) := by
  unfold signExt
  have hlt : z % 2 ^ k < 2 ^ k := Nat.mod_lt _ (Nat.two_pow_pos k)
  have hp : 2 ^ k = 2 * 2 ^ (k - 1) := by
    conv => lhs; rw [show k = (k - 1) + 1 by omega, Nat.pow_succ]
    omega
  have htop : (z % 2 ^ k).testBit (k - 1) = z.testBit (k - 1) := by
    rw [Nat.testBit_mod_two_pow]; simp; omega
  have hmod : ∀ j, j < k → (z % 2 ^ k).testBit j = z.testBit j := by
    intro j hj; rw [Nat.testBit_mod_two_pow]; simp [hj]
  dsimp only
  split
  · rename_i h
    have hs : z.testBit (k - 1) = true := by
      rw [← htop, Nat.testBit_eq_decide_div_mod_eq, decide_eq_true_eq]
      have : z % 2 ^ k / 2 ^ (k - 1) = 1 := Nat.div_eq_of_lt_le (by omega) (by omega)
      rw [this]
    have hw : 2 ^ w = 2 ^ k * 2 ^ (w - k) := by rw [← Nat.pow_add]; congr 1; omega
    have hpos := Nat.two_pow_pos (w - k)
    have e : z % 2 ^ k + 2 ^ w - 2 ^ k = 2 ^ k * (2 ^ (w - k) - 1) + z % 2 ^ k := by
      rw [Nat.mul_sub_one, ← hw]
      have : 2 ^ k ≤ 2 ^ w := Nat.pow_le_pow_right (by decide) hkw
      omega
    rw [e, Nat.two_pow_add_eq_or_of_lt hlt, Nat.testBit_or, Nat.testBit_two_pow_mul, Nat.testBit_two_pow_sub_one]
    by_cases hik : i < k
    · have h1 : ¬ k ≤ i := by omega
      simp [hik, h1, hmod i hik]
    · have h1 : k ≤ i := by omega
      have h2 : i - k < w - k := by omega
      simp [hik, h1, h2, hs]
  · rename_i h
    have hs : z.testBit (k - 1) = false := by
      rw [← htop]; exact Nat.testBit_lt_two_pow (by omega)
    by_cases hik : i < k
    · rw [if_pos hik, hmod i hik]
    · rw [if_neg hik, hs]
      exact Nat.testBit_lt_two_pow (Nat.lt_of_lt_of_le hlt (Nat.pow_le_pow_right (by decide) (by omega)))

/-- `sbfx` (R126), bit by bit. -/
theorem iBfx_testBit (spec i : Nat) (hi : i < w) :
    (iBfx ty w x.toNat spec).testBit i =
      if i < fieldWid w spec then x.getLsbD (fieldPos w spec + i)
      else decide (0 < fieldWid w spec) && isSigned ty && x.getLsbD (fieldPos w spec + fieldWid w spec - 1) := by
  have hw : fieldWid w spec ≤ w := by
    unfold fieldWid; exact Nat.le_trans (Nat.min_le_right _ _) (Nat.sub_le _ _)
  unfold iBfx; dsimp only
  generalize fieldWid w spec = n at hw ⊢
  generalize fieldPos w spec = p
  have hbit : ∀ j, j < n → (x.toNat / 2 ^ p % 2 ^ n).testBit j = x.getLsbD (p + j) := by
    intro j hj
    rw [Nat.testBit_mod_two_pow, Nat.testBit_div_two_pow, BitVec.getLsbD, Nat.add_comm]; simp [hj]
  by_cases h0 : n = 0
  · subst h0; simp
  · rw [if_neg (by simpa using h0)]
    have hp : 0 < n := by omega
    by_cases hs : isSigned ty = true
    · rw [if_pos hs, testBit_signExt hp hw i hi]
      by_cases hin : i < n
      · rw [if_pos hin, if_pos hin, hbit i hin]
      · rw [if_neg hin, if_neg hin, hbit (n - 1) (by omega)]
        simp [hp, hs, show p + (n - 1) = p + n - 1 by omega]
    · rw [if_neg hs]
      by_cases hin : i < n
      · rw [if_pos hin, hbit i hin]
      · rw [if_neg hin, Nat.testBit_mod_two_pow]; simp [hin, hs]

theorem iBfx_lt (a spec : Nat) : iBfx ty w a spec < 2 ^ w := by
  have hw : fieldWid w spec ≤ w := by
    unfold fieldWid; exact Nat.le_trans (Nat.min_le_right _ _) (Nat.sub_le _ _)
  have h1 : 2 ^ fieldWid w spec ≤ 2 ^ w := Nat.pow_le_pow_right (by decide) hw
  have h2 : ∀ z, z % 2 ^ fieldWid w spec < 2 ^ fieldWid w spec := fun z => Nat.mod_lt _ (Nat.two_pow_pos _)
  unfold iBfx; dsimp only
  split
  · exact Nat.two_pow_pos _
  · split
    · unfold signExt; dsimp only
      have h3 := h2 (a / 2 ^ fieldPos w spec)
      rw [Nat.mod_eq_of_lt h3]
      split <;> omega
    · exact Nat.lt_of_lt_of_le (h2 _) h1

/-- `sbfi` (R126), bit by bit. -/
theorem iBfi_testBit (spec i : Nat) :
    (iBfi w x.toNat spec y.toNat).testBit i =
      if fieldPos w spec ≤ i ∧ i < fieldPos w spec + fieldWid w spec then x.getLsbD (i - fieldPos w spec) else y.getLsbD i := by
  unfold iBfi; dsimp only
  generalize fieldWid w spec = n
  generalize fieldPos w spec = p
  have hc : y.toNat = 2 ^ p * (2 ^ n * (y.toNat / 2 ^ p / 2 ^ n) + y.toNat / 2 ^ p % 2 ^ n) + y.toNat % 2 ^ p := by
    rw [Nat.div_add_mod, Nat.div_add_mod]
  have hlow : y.toNat % 2 ^ p < 2 ^ p := Nat.mod_lt _ (Nat.two_pow_pos p)
  have hmid : x.toNat % 2 ^ n < 2 ^ n := Nat.mod_lt _ (Nat.two_pow_pos n)
  have e : y.toNat - y.toNat / 2 ^ p % 2 ^ n * 2 ^ p + x.toNat % 2 ^ n * 2 ^ p =
      2 ^ p * (2 ^ n * (y.toNat / 2 ^ p / 2 ^ n) + x.toNat % 2 ^ n) + y.toNat % 2 ^ p := by
    have h1 : y.toNat / 2 ^ p % 2 ^ n * 2 ^ p ≤ y.toNat := by
      calc _ ≤ y.toNat / 2 ^ p * 2 ^ p := Nat.mul_le_mul_right _ (Nat.mod_le _ _)
        _ ≤ _ := Nat.div_mul_le_self _ _
    rw [Nat.mul_add] at hc ⊢
    rw [Nat.mul_comm (y.toNat / 2 ^ p % 2 ^ n), Nat.mul_comm (x.toNat % 2 ^ n)]
    rw [Nat.mul_comm (y.toNat / 2 ^ p % 2 ^ n)] at h1
    omega
  rw [e, Nat.two_pow_add_eq_or_of_lt hlow, Nat.testBit_or, Nat.testBit_two_pow_mul,
    Nat.two_pow_add_eq_or_of_lt hmid, Nat.testBit_or, Nat.testBit_two_pow_mul, Nat.testBit_mod_two_pow, Nat.testBit_mod_two_pow,
    Nat.testBit_div_two_pow, Nat.testBit_div_two_pow]
  rw [BitVec.getLsbD, BitVec.getLsbD]
  by_cases h1 : p ≤ i
  · by_cases h2 : i < p + n
    · have h3 : ¬ i < p := by omega
      have h4 : ¬ n ≤ i - p := by omega
      have h5 : i - p < n := by omega
      simp [h1, h2, h3, h4, h5]
    · have h3 : ¬ i < p := by omega
      have h4 : n ≤ i - p := by omega
      have h5 : ¬ i - p < n := by omega
      simp [h1, h2, h3, h4, h5]
  · have h3 : i < p := by omega
    simp [h1, h3]

end Sys2Proof.Machine
end

