-- ==== Sys2Proof/Laws/Memory.lean ====
section
/-! SUPPORT. Laws of memory (00_scope R4): a byte read after a write, the canonical form kept by every operation, and equal
memories as equal data. -/

namespace Sys2Proof.Machine

/-- Every address of a memory is above `a`. -/
def Memory.above (a : Nat) : Memory → Bool
  | [] => true
  | (b, _) :: _ => decide (a < b)

theorem Memory.wf_cons (a : Nat) (b : Byte) (m : Memory) :
    Memory.wf ((a, b) :: m) = true ↔ b ≠ blank ∧ Memory.above a m = true ∧ Memory.wf m = true := by
  cases m <;> simp [Memory.wf, Memory.above, and_assoc]

theorem Memory.above_trans {a b : Nat} (h : a ≤ b) {m : Memory} (hm : Memory.above b m = true) :
    Memory.above a m = true := by
  cases m with
  | nil => rfl
  | cons c m => simp only [Memory.above, decide_eq_true_eq] at *; omega

/-! ### Reading -/

theorem Memory.read_below {a : Nat} {m : Memory} (h : Memory.above a m = true) : m.read a = blank := by
  cases m with
  | nil => rfl
  | cons c m =>
    simp only [Memory.above, decide_eq_true_eq] at h
    simp [Memory.read, Nat.ne_of_gt h, h]

/-- A byte reads as it was written (R4). -/
theorem Memory.read_write_same (a : Nat) (b : Byte) (m : Memory) (h : m.wf = true) : (m.write a b).read a = b := by
  induction m with
  | nil => by_cases e : b = blank <;> simp [Memory.write, Memory.read, e]
  | cons c m ih =>
    obtain ⟨x, y⟩ := c
    obtain ⟨hy, hx, hm⟩ := (Memory.wf_cons ..).1 h
    by_cases h1 : a < x
    · by_cases e : b = blank
      · simp [Memory.write, h1, e, Memory.read, Nat.ne_of_gt h1]
      · simp [Memory.write, h1, e, Memory.read]
    · by_cases h2 : x = a
      · subst h2
        by_cases e : b = blank
        · simp [Memory.write, e, Memory.read_below hx]
        · simp [Memory.write, e, Memory.read]
      · simp [Memory.write, h1, h2, Memory.read, ih hm]

/-- A write leaves every other byte (R4). -/
theorem Memory.read_write_other {a c : Nat} (b : Byte) (m : Memory) (h : m.wf = true) (hne : c ≠ a) :
    (m.write a b).read c = m.read c := by
  induction m with
  | nil =>
    by_cases e : b = blank
    · simp [Memory.write, e]
    · simp [Memory.write, Memory.read, e, Ne.symm hne]
  | cons d m ih =>
    obtain ⟨x, y⟩ := d
    obtain ⟨hy, hx, hm⟩ := (Memory.wf_cons ..).1 h
    by_cases h1 : a < x
    · by_cases e : b = blank
      · simp [Memory.write, h1, e]
      · by_cases h3 : c < a
        · have : c < x := by omega
          have : x ≠ c := by omega
          simp [Memory.write, Memory.read, Ne.symm hne, *]
        · simp [Memory.write, h1, e, Memory.read, Ne.symm hne, h3]
    · by_cases h2 : x = a
      · subst h2
        by_cases e : b = blank
        · by_cases h3 : c < x
          · simp [Memory.write, e, Memory.read, Ne.symm hne, h3, Memory.read_below (Memory.above_trans (Nat.le_of_lt h3) hx)]
          · simp [Memory.write, e, Memory.read, Ne.symm hne, h3]
        · simp [Memory.write, e, Memory.read, Ne.symm hne]
      · simp [Memory.write, h1, h2, Memory.read, ih hm]

/-! ### The canonical form -/

theorem Memory.above_write {a c : Nat} (b : Byte) {m : Memory} (hm : Memory.above a m = true) (h : a < c)
    (hw : Memory.wf m = true) : Memory.above a (m.write c b) = true := by
  cases m with
  | nil => by_cases e : b = blank <;> simp [Memory.write, e, Memory.above, h]
  | cons d m =>
    obtain ⟨x, y⟩ := d
    simp only [Memory.above, decide_eq_true_eq] at hm
    obtain ⟨_, hx, _⟩ := (Memory.wf_cons ..).1 hw
    by_cases h1 : c < x
    · by_cases e : b = blank <;> simp [Memory.write, h1, e, Memory.above, h, hm]
    · by_cases h2 : x = c
      · subst h2
        by_cases e : b = blank
        · simpa [Memory.write, e] using Memory.above_trans (Nat.le_of_lt hm) hx
        · simp [Memory.write, e, Memory.above, h]
      · simp [Memory.write, h1, h2, Memory.above, hm]

/-- A write keeps the canonical form. -/
theorem Memory.wf_write (a : Nat) (b : Byte) (m : Memory) (h : m.wf = true) : (m.write a b).wf = true := by
  induction m with
  | nil => by_cases e : b = blank <;> simp [Memory.write, e, Memory.wf]
  | cons c m ih =>
    obtain ⟨x, y⟩ := c
    obtain ⟨hy, hx, hm⟩ := (Memory.wf_cons ..).1 h
    by_cases h1 : a < x
    · by_cases e : b = blank
      · simpa [Memory.write, h1, e] using h
      · simpa [Memory.write, h1, e, Memory.wf_cons, Memory.above] using ⟨hy, hx, hm⟩
    · by_cases h2 : x = a
      · subst h2
        by_cases e : b = blank
        · simpa [Memory.write, e] using hm
        · simpa [Memory.write, e, Memory.wf_cons] using ⟨hx, hm⟩
      · simpa [Memory.write, h1, h2, Memory.wf_cons] using ⟨hy, Memory.above_write b hx (by omega) hm, ih hm⟩

theorem Memory.wf_writeBytes (bs : List Byte) : ∀ (a : Nat) (m : Memory), m.wf = true → (m.writeBytes a bs).wf = true := by
  induction bs with
  | nil => intro a m h; exact h
  | cons b bs ih => intro a m h; exact ih _ _ (Memory.wf_write a b m h)

theorem Memory.wf_writeNat (m : Memory) (a n x : Nat) (h : m.wf = true) : (m.writeNat a n x).wf = true :=
  Memory.wf_writeBytes _ a m h

theorem Memory.above_filter {a : Nat} (p : Host.Cell → Bool) {m : Memory} (hm : Memory.above a m = true)
    (hw : Memory.wf m = true) : Memory.above a (m.filter p) = true := by
  induction m with
  | nil => rfl
  | cons c m ih =>
    obtain ⟨x, y⟩ := c
    obtain ⟨_, hx, hm'⟩ := (Memory.wf_cons ..).1 hw
    simp only [Memory.above, decide_eq_true_eq] at hm
    by_cases e : p (x, y)
    · simpa [List.filter_cons, e, Memory.above] using hm
    · simpa [List.filter_cons, e] using ih (Memory.above_trans (Nat.le_of_lt hm) hx) hm'

/-- Removing cells keeps the canonical form. -/
theorem Memory.wf_filter (p : Host.Cell → Bool) (m : Memory) (h : m.wf = true) : Memory.wf (m.filter p) = true := by
  induction m with
  | nil => rfl
  | cons c m ih =>
    obtain ⟨x, y⟩ := c
    obtain ⟨hy, hx, hm⟩ := (Memory.wf_cons ..).1 h
    by_cases e : p (x, y)
    · simpa [List.filter_cons, e, Memory.wf_cons] using ⟨hy, Memory.above_filter p hx hm, ih hm⟩
    · simpa [List.filter_cons, e] using ih hm

/-! ### Ranges of bytes -/

/-- Bytes outside a written range stay. -/
theorem Memory.read_writeBytes_outside (bs : List Byte) : ∀ (a c : Nat) (m : Memory), m.wf = true →
    (c < a ∨ a + bs.length ≤ c) → (m.writeBytes a bs).read c = m.read c := by
  induction bs with
  | nil => intro a c m _ _; rfl
  | cons b bs ih =>
    intro a c m h hc
    rw [List.length_cons] at hc
    rw [Memory.writeBytes, ih _ _ _ (Memory.wf_write a b m h) (by omega),
      Memory.read_write_other b m h (by omega)]

/-- Byte i of a written range reads as it was written. -/
theorem Memory.read_writeBytes_inside (bs : List Byte) : ∀ (a i : Nat) (m : Memory), m.wf = true → (h : i < bs.length) →
    (m.writeBytes a bs).read (a + i) = bs[i] := by
  induction bs with
  | nil => intro a i m _ h; simp at h
  | cons b bs ih =>
    intro a i m hm h
    cases i with
    | zero =>
      rw [Memory.writeBytes, Memory.read_writeBytes_outside _ _ _ _ (Memory.wf_write a b m hm) (by omega)]
      simpa using Memory.read_write_same a b m hm
    | succ i =>
      have := ih (a + 1) i (m.write a b) (Memory.wf_write a b m hm) (by simpa using h)
      rw [Memory.writeBytes, show a + (i + 1) = a + 1 + i by omega, this, List.getElem_cons_succ]

theorem Memory.length_readBytes (n : Nat) : ∀ (m : Memory) (a : Nat), (m.readBytes a n).length = n := by
  induction n with
  | zero => intro m a; rfl
  | succ n ih => intro m a; simp [Memory.readBytes, ih]

theorem Memory.getElem_readBytes (n : Nat) : ∀ (m : Memory) (a i : Nat) (h : i < (m.readBytes a n).length),
    (m.readBytes a n)[i] = m.read (a + i) := by
  induction n with
  | zero => intro m a i h; simp [Memory.readBytes] at h
  | succ n ih =>
    intro m a i h
    cases i with
    | zero => simp [Memory.readBytes]
    | succ i =>
      simp only [Memory.readBytes, List.getElem_cons_succ]
      rw [ih, show a + (i + 1) = a + 1 + i by omega]

/-- What was written reads back (R4). -/
theorem Memory.readBytes_writeBytes (bs : List Byte) (a : Nat) (m : Memory) (h : m.wf = true) :
    (m.writeBytes a bs).readBytes a bs.length = bs := by
  apply List.ext_getElem
  · exact Memory.length_readBytes ..
  · intro i h1 h2
    rw [Memory.getElem_readBytes, Memory.read_writeBytes_inside bs a i m h h2]

/-- A number reads back modulo its width (R4). -/
theorem Memory.readNat_writeNat (m : Memory) (a n x : Nat) (h : m.wf = true) : (m.writeNat a n x).readNat a n = x % 256 ^ n := by
  have := Memory.readBytes_writeBytes (leBytes n x) a m h
  rw [leBytes_length] at this
  rw [Memory.readNat, Memory.writeNat, this, ofLeBytes_leBytes]

/-- Memories that read alike are equal. -/
theorem Memory.ext_of_wf : ∀ (m n : Memory), m.wf = true → n.wf = true → (∀ a, m.read a = n.read a) → m = n := by
  intro m
  induction m with
  | nil =>
    intro n _ hn h
    cases n with
    | nil => rfl
    | cons c n =>
      obtain ⟨x, y⟩ := c
      have := h x
      simp [Memory.read] at this
      exact absurd this.symm ((Memory.wf_cons ..).1 hn).1
  | cons c m ih =>
    intro n hm hn h
    obtain ⟨x, y⟩ := c
    obtain ⟨hy, hx, hm'⟩ := (Memory.wf_cons ..).1 hm
    cases n with
    | nil =>
      have := h x
      simp [Memory.read] at this
      exact absurd this hy
    | cons d n =>
      obtain ⟨u, v⟩ := d
      obtain ⟨hv, hu, hn'⟩ := (Memory.wf_cons ..).1 hn
      have hxu : x = u := by
        by_cases h1 : x < u
        · have := h x
          simp [Memory.read, Nat.ne_of_gt h1, h1] at this
          exact absurd this hy
        · by_cases h2 : u < x
          · have := h u
            simp [Memory.read, Nat.ne_of_gt h2, h2] at this
            exact absurd this.symm hv
          · omega
      subst hxu
      have hyv : y = v := by simpa [Memory.read] using h x
      subst hyv
      have : m = n := by
        apply ih n hm' hn'
        intro a
        by_cases h1 : a ≤ x
        · rw [Memory.read_below (Memory.above_trans h1 hx), Memory.read_below (Memory.above_trans h1 hu)]
        · have := h a
          have h3 : x ≠ a := by omega
          have h4 : ¬ a < x := by omega
          simpa [Memory.read, h3, h4] using this
      rw [this]

end Sys2Proof.Machine
end

