-- ==== Sys2Proof/Laws/State.lean ====
section
/-! SUPPORT. Laws of the state's accessors: what each update leaves (one lemma per field per update), what is read back after
it, and the tables below them. -/

namespace Sys2Proof.Machine

/-! ### Tables and lists -/

@[simp] theorem tget_tset_same {α : Type} (d x : α) (k : Nat) (t : Table α) : tget d k (tset k x t) = x := by
  induction t with
  | nil => simp [tset, tget]
  | cons e t ih =>
    obtain ⟨j, y⟩ := e
    by_cases h : j = k
    · simp [tset, h, tget]
    · by_cases h2 : k < j <;> simp [tset, h, h2, tget, ih]

theorem tget_tset_other {α : Type} (d x : α) {k j : Nat} (h : j ≠ k) (t : Table α) : tget d j (tset k x t) = tget d j t := by
  induction t with
  | nil => simp [tset, tget, Ne.symm h]
  | cons e t ih =>
    obtain ⟨i, y⟩ := e
    by_cases h1 : i = k
    · subst h1; simp [tset, tget, Ne.symm h]
    · by_cases h2 : k < i
      · simp [tset, h1, h2, tget, Ne.symm h]
      · simp only [tset, beq_iff_eq, h1, if_false, h2, tget, ih]

@[simp] theorem tget?_tset_same {α : Type} (x : α) (k : Nat) (t : Table α) : tget? k (tset k x t) = some x := by
  induction t with
  | nil => simp [tset, tget?]
  | cons e t ih =>
    obtain ⟨j, y⟩ := e
    by_cases h : j = k
    · simp [tset, h, tget?]
    · by_cases h2 : k < j <;> simp [tset, h, h2, tget?, ih]

theorem tget?_tset_other {α : Type} (x : α) {k j : Nat} (h : j ≠ k) (t : Table α) : tget? j (tset k x t) = tget? j t := by
  induction t with
  | nil => simp [tset, tget?, Ne.symm h]
  | cons e t ih =>
    obtain ⟨i, y⟩ := e
    by_cases h1 : i = k
    · subst h1; simp [tset, tget?, Ne.symm h]
    · by_cases h2 : k < i
      · simp [tset, h1, h2, tget?, Ne.symm h]
      · simp only [tset, beq_iff_eq, h1, if_false, h2, tget?, ih]

/-- A replaced element reads back. -/
@[simp] theorem getElem?_lset_same {α : Type} [Inhabited α] (l : List α) (n : Nat) (x : α) : (lset l n x)[n]? = some x := by
  induction n generalizing l with
  | zero => cases l <;> simp [lset]
  | succ n ih =>
    cases l with
    | nil => simpa [lset] using ih []
    | cons y l => simpa [lset] using ih l

theorem getD_lset_same {α : Type} [Inhabited α] (l : List α) (n : Nat) (x d : α) : (lset l n x).getD n d = x := by
  simp

/-- The other elements stay; an element that no list held reads as the default. -/
theorem getD_lset_other {α : Type} [Inhabited α] (l : List α) {n m : Nat} (h : m ≠ n) (x : α) :
    (lset l n x).getD m default = l.getD m default := by
  induction n generalizing l m with
  | zero => cases l <;> cases m <;> simp_all [lset]
  | succ n ih =>
    cases m with
    | zero => cases l <;> simp [lset]
    | succ m =>
      cases l with
      | nil => simpa [lset] using ih [] (by omega : m ≠ n)
      | cons y l => simpa [lset] using ih l (by omega : m ≠ n)

theorem length_lset {α : Type} [Inhabited α] (l : List α) {n : Nat} (x : α) (h : n < l.length) :
    (lset l n x).length = l.length := by
  induction n generalizing l with
  | zero => cases l <;> simp_all [lset]
  | succ n ih =>
    cases l with
    | nil => simp at h
    | cons y l => simpa [lset] using ih l (by simpa using h)

/-! ### What an update leaves -/

namespace State

@[simp] theorem setCore_t (s : State) (c : Nat) (k : Core) : (s.setCore c k).t = s.t := rfl
@[simp] theorem setCore_agenda (s : State) (c : Nat) (k : Core) : (s.setCore c k).agenda = s.agenda := rfl
@[simp] theorem setCore_cur (s : State) (c : Nat) (k : Core) : (s.setCore c k).cur = s.cur := rfl
@[simp] theorem setCore_others (s : State) (c : Nat) (k : Core) : (s.setCore c k).others = s.others := rfl
@[simp] theorem setCore_sys (s : State) (c : Nat) (k : Core) : (s.setCore c k).sys = s.sys := rfl
@[simp] theorem setCore_parts (s : State) (c : Nat) (k : Core) : (s.setCore c k).parts = s.parts := rfl
@[simp] theorem setCore_homes (s : State) (c : Nat) (k : Core) : (s.setCore c k).homes = s.homes := rfl
@[simp] theorem setCore_queues (s : State) (c : Nat) (k : Core) : (s.setCore c k).queues = s.queues := rfl
@[simp] theorem setCore_slots (s : State) (c : Nat) (k : Core) : (s.setCore c k).slots = s.slots := rfl
@[simp] theorem setCore_dies (s : State) (c : Nat) (k : Core) : (s.setCore c k).dies = s.dies := rfl
@[simp] theorem setCore_links (s : State) (c : Nat) (k : Core) : (s.setCore c k).links = s.links := rfl
@[simp] theorem setCore_ports (s : State) (c : Nat) (k : Core) : (s.setCore c k).ports = s.ports := rfl
@[simp] theorem setCore_accs (s : State) (c : Nat) (k : Core) : (s.setCore c k).accs = s.accs := rfl
@[simp] theorem setCore_msgs (s : State) (c : Nat) (k : Core) : (s.setCore c k).msgs = s.msgs := rfl
@[simp] theorem setCore_mem (s : State) (c : Nat) (k : Core) : (s.setCore c k).mem = s.mem := rfl
@[simp] theorem setCore_ecc (s : State) (c : Nat) (k : Core) : (s.setCore c k).ecc = s.ecc := rfl
@[simp] theorem setCore_gt (s : State) (c : Nat) (k : Core) : (s.setCore c k).gt = s.gt := rfl
@[simp] theorem setCore_pstat (s : State) (c : Nat) (k : Core) : (s.setCore c k).pstat = s.pstat := rfl
@[simp] theorem setCore_bootStatus (s : State) (c : Nat) (k : Core) : (s.setCore c k).bootStatus = s.bootStatus := rfl
@[simp] theorem setCore_flashA (s : State) (c : Nat) (k : Core) : (s.setCore c k).flashA = s.flashA := rfl
@[simp] theorem setCore_flashB (s : State) (c : Nat) (k : Core) : (s.setCore c k).flashB = s.flashB := rfl
@[simp] theorem setCore_fuseKey (s : State) (c : Nat) (k : Core) : (s.setCore c k).fuseKey = s.fuseKey := rfl
@[simp] theorem setCore_fuseVersion (s : State) (c : Nat) (k : Core) : (s.setCore c k).fuseVersion = s.fuseVersion := rfl
@[simp] theorem setCore_energy (s : State) (c : Nat) (k : Core) : (s.setCore c k).energy = s.energy := rfl
@[simp] theorem setCore_power (s : State) (c : Nat) (k : Core) : (s.setCore c k).power = s.power := rfl
@[simp] theorem setCore_modulePower (s : State) (c : Nat) (k : Core) : (s.setCore c k).modulePower = s.modulePower := rfl
@[simp] theorem setCore_channels (s : State) (c : Nat) (k : Core) : (s.setCore c k).channels = s.channels := rfl
@[simp] theorem setCore_hostReqs (s : State) (c : Nat) (k : Core) : (s.setCore c k).hostReqs = s.hostReqs := rfl
@[simp] theorem setCore_hostMem (s : State) (c : Nat) (k : Core) : (s.setCore c k).hostMem = s.hostMem := rfl
@[simp] theorem setCore_hostBar (s : State) (c : Nat) (k : Core) : (s.setCore c k).hostBar = s.hostBar := rfl
@[simp] theorem setCore_serial (s : State) (c : Nat) (k : Core) : (s.setCore c k).serial = s.serial := rfl
@[simp] theorem setCore_free (s : State) (c : Nat) (k : Core) : (s.setCore c k).free = s.free := rfl

@[simp] theorem setSysCore_t (s : State) (k : Nat) (c : SysCore) : (s.setSysCore k c).t = s.t := rfl
@[simp] theorem setSysCore_agenda (s : State) (k : Nat) (c : SysCore) : (s.setSysCore k c).agenda = s.agenda := rfl
@[simp] theorem setSysCore_cur (s : State) (k : Nat) (c : SysCore) : (s.setSysCore k c).cur = s.cur := rfl
@[simp] theorem setSysCore_others (s : State) (k : Nat) (c : SysCore) : (s.setSysCore k c).others = s.others := rfl
@[simp] theorem setSysCore_cores (s : State) (k : Nat) (c : SysCore) : (s.setSysCore k c).cores = s.cores := rfl
@[simp] theorem setSysCore_parts (s : State) (k : Nat) (c : SysCore) : (s.setSysCore k c).parts = s.parts := rfl
@[simp] theorem setSysCore_homes (s : State) (k : Nat) (c : SysCore) : (s.setSysCore k c).homes = s.homes := rfl
@[simp] theorem setSysCore_queues (s : State) (k : Nat) (c : SysCore) : (s.setSysCore k c).queues = s.queues := rfl
@[simp] theorem setSysCore_slots (s : State) (k : Nat) (c : SysCore) : (s.setSysCore k c).slots = s.slots := rfl
@[simp] theorem setSysCore_dies (s : State) (k : Nat) (c : SysCore) : (s.setSysCore k c).dies = s.dies := rfl
@[simp] theorem setSysCore_links (s : State) (k : Nat) (c : SysCore) : (s.setSysCore k c).links = s.links := rfl
@[simp] theorem setSysCore_ports (s : State) (k : Nat) (c : SysCore) : (s.setSysCore k c).ports = s.ports := rfl
@[simp] theorem setSysCore_accs (s : State) (k : Nat) (c : SysCore) : (s.setSysCore k c).accs = s.accs := rfl
@[simp] theorem setSysCore_msgs (s : State) (k : Nat) (c : SysCore) : (s.setSysCore k c).msgs = s.msgs := rfl
@[simp] theorem setSysCore_mem (s : State) (k : Nat) (c : SysCore) : (s.setSysCore k c).mem = s.mem := rfl
@[simp] theorem setSysCore_ecc (s : State) (k : Nat) (c : SysCore) : (s.setSysCore k c).ecc = s.ecc := rfl
@[simp] theorem setSysCore_gt (s : State) (k : Nat) (c : SysCore) : (s.setSysCore k c).gt = s.gt := rfl
@[simp] theorem setSysCore_pstat (s : State) (k : Nat) (c : SysCore) : (s.setSysCore k c).pstat = s.pstat := rfl
@[simp] theorem setSysCore_bootStatus (s : State) (k : Nat) (c : SysCore) : (s.setSysCore k c).bootStatus = s.bootStatus := rfl
@[simp] theorem setSysCore_flashA (s : State) (k : Nat) (c : SysCore) : (s.setSysCore k c).flashA = s.flashA := rfl
@[simp] theorem setSysCore_flashB (s : State) (k : Nat) (c : SysCore) : (s.setSysCore k c).flashB = s.flashB := rfl
@[simp] theorem setSysCore_fuseKey (s : State) (k : Nat) (c : SysCore) : (s.setSysCore k c).fuseKey = s.fuseKey := rfl
@[simp] theorem setSysCore_fuseVersion (s : State) (k : Nat) (c : SysCore) : (s.setSysCore k c).fuseVersion = s.fuseVersion := rfl
@[simp] theorem setSysCore_energy (s : State) (k : Nat) (c : SysCore) : (s.setSysCore k c).energy = s.energy := rfl
@[simp] theorem setSysCore_power (s : State) (k : Nat) (c : SysCore) : (s.setSysCore k c).power = s.power := rfl
@[simp] theorem setSysCore_modulePower (s : State) (k : Nat) (c : SysCore) : (s.setSysCore k c).modulePower = s.modulePower := rfl
@[simp] theorem setSysCore_channels (s : State) (k : Nat) (c : SysCore) : (s.setSysCore k c).channels = s.channels := rfl
@[simp] theorem setSysCore_hostReqs (s : State) (k : Nat) (c : SysCore) : (s.setSysCore k c).hostReqs = s.hostReqs := rfl
@[simp] theorem setSysCore_hostMem (s : State) (k : Nat) (c : SysCore) : (s.setSysCore k c).hostMem = s.hostMem := rfl
@[simp] theorem setSysCore_hostBar (s : State) (k : Nat) (c : SysCore) : (s.setSysCore k c).hostBar = s.hostBar := rfl
@[simp] theorem setSysCore_serial (s : State) (k : Nat) (c : SysCore) : (s.setSysCore k c).serial = s.serial := rfl
@[simp] theorem setSysCore_free (s : State) (k : Nat) (c : SysCore) : (s.setSysCore k c).free = s.free := rfl

@[simp] theorem setPart_t (s : State) (p : Nat) (x : Partition) : (s.setPart p x).t = s.t := rfl
@[simp] theorem setPart_agenda (s : State) (p : Nat) (x : Partition) : (s.setPart p x).agenda = s.agenda := rfl
@[simp] theorem setPart_cur (s : State) (p : Nat) (x : Partition) : (s.setPart p x).cur = s.cur := rfl
@[simp] theorem setPart_others (s : State) (p : Nat) (x : Partition) : (s.setPart p x).others = s.others := rfl
@[simp] theorem setPart_cores (s : State) (p : Nat) (x : Partition) : (s.setPart p x).cores = s.cores := rfl
@[simp] theorem setPart_sys (s : State) (p : Nat) (x : Partition) : (s.setPart p x).sys = s.sys := rfl
@[simp] theorem setPart_homes (s : State) (p : Nat) (x : Partition) : (s.setPart p x).homes = s.homes := rfl
@[simp] theorem setPart_queues (s : State) (p : Nat) (x : Partition) : (s.setPart p x).queues = s.queues := rfl
@[simp] theorem setPart_slots (s : State) (p : Nat) (x : Partition) : (s.setPart p x).slots = s.slots := rfl
@[simp] theorem setPart_dies (s : State) (p : Nat) (x : Partition) : (s.setPart p x).dies = s.dies := rfl
@[simp] theorem setPart_links (s : State) (p : Nat) (x : Partition) : (s.setPart p x).links = s.links := rfl
@[simp] theorem setPart_ports (s : State) (p : Nat) (x : Partition) : (s.setPart p x).ports = s.ports := rfl
@[simp] theorem setPart_accs (s : State) (p : Nat) (x : Partition) : (s.setPart p x).accs = s.accs := rfl
@[simp] theorem setPart_msgs (s : State) (p : Nat) (x : Partition) : (s.setPart p x).msgs = s.msgs := rfl
@[simp] theorem setPart_mem (s : State) (p : Nat) (x : Partition) : (s.setPart p x).mem = s.mem := rfl
@[simp] theorem setPart_ecc (s : State) (p : Nat) (x : Partition) : (s.setPart p x).ecc = s.ecc := rfl
@[simp] theorem setPart_gt (s : State) (p : Nat) (x : Partition) : (s.setPart p x).gt = s.gt := rfl
@[simp] theorem setPart_pstat (s : State) (p : Nat) (x : Partition) : (s.setPart p x).pstat = s.pstat := rfl
@[simp] theorem setPart_bootStatus (s : State) (p : Nat) (x : Partition) : (s.setPart p x).bootStatus = s.bootStatus := rfl
@[simp] theorem setPart_flashA (s : State) (p : Nat) (x : Partition) : (s.setPart p x).flashA = s.flashA := rfl
@[simp] theorem setPart_flashB (s : State) (p : Nat) (x : Partition) : (s.setPart p x).flashB = s.flashB := rfl
@[simp] theorem setPart_fuseKey (s : State) (p : Nat) (x : Partition) : (s.setPart p x).fuseKey = s.fuseKey := rfl
@[simp] theorem setPart_fuseVersion (s : State) (p : Nat) (x : Partition) : (s.setPart p x).fuseVersion = s.fuseVersion := rfl
@[simp] theorem setPart_energy (s : State) (p : Nat) (x : Partition) : (s.setPart p x).energy = s.energy := rfl
@[simp] theorem setPart_power (s : State) (p : Nat) (x : Partition) : (s.setPart p x).power = s.power := rfl
@[simp] theorem setPart_modulePower (s : State) (p : Nat) (x : Partition) : (s.setPart p x).modulePower = s.modulePower := rfl
@[simp] theorem setPart_channels (s : State) (p : Nat) (x : Partition) : (s.setPart p x).channels = s.channels := rfl
@[simp] theorem setPart_hostReqs (s : State) (p : Nat) (x : Partition) : (s.setPart p x).hostReqs = s.hostReqs := rfl
@[simp] theorem setPart_hostMem (s : State) (p : Nat) (x : Partition) : (s.setPart p x).hostMem = s.hostMem := rfl
@[simp] theorem setPart_hostBar (s : State) (p : Nat) (x : Partition) : (s.setPart p x).hostBar = s.hostBar := rfl
@[simp] theorem setPart_serial (s : State) (p : Nat) (x : Partition) : (s.setPart p x).serial = s.serial := rfl
@[simp] theorem setPart_free (s : State) (p : Nat) (x : Partition) : (s.setPart p x).free = s.free := rfl

@[simp] theorem setKernel_t (s : State) (p n : Nat) (k : Kernel) : (s.setKernel p n k).t = s.t := rfl
@[simp] theorem setKernel_agenda (s : State) (p n : Nat) (k : Kernel) : (s.setKernel p n k).agenda = s.agenda := rfl
@[simp] theorem setKernel_cur (s : State) (p n : Nat) (k : Kernel) : (s.setKernel p n k).cur = s.cur := rfl
@[simp] theorem setKernel_others (s : State) (p n : Nat) (k : Kernel) : (s.setKernel p n k).others = s.others := rfl
@[simp] theorem setKernel_cores (s : State) (p n : Nat) (k : Kernel) : (s.setKernel p n k).cores = s.cores := rfl
@[simp] theorem setKernel_sys (s : State) (p n : Nat) (k : Kernel) : (s.setKernel p n k).sys = s.sys := rfl
@[simp] theorem setKernel_homes (s : State) (p n : Nat) (k : Kernel) : (s.setKernel p n k).homes = s.homes := rfl
@[simp] theorem setKernel_queues (s : State) (p n : Nat) (k : Kernel) : (s.setKernel p n k).queues = s.queues := rfl
@[simp] theorem setKernel_slots (s : State) (p n : Nat) (k : Kernel) : (s.setKernel p n k).slots = s.slots := rfl
@[simp] theorem setKernel_dies (s : State) (p n : Nat) (k : Kernel) : (s.setKernel p n k).dies = s.dies := rfl
@[simp] theorem setKernel_links (s : State) (p n : Nat) (k : Kernel) : (s.setKernel p n k).links = s.links := rfl
@[simp] theorem setKernel_ports (s : State) (p n : Nat) (k : Kernel) : (s.setKernel p n k).ports = s.ports := rfl
@[simp] theorem setKernel_accs (s : State) (p n : Nat) (k : Kernel) : (s.setKernel p n k).accs = s.accs := rfl
@[simp] theorem setKernel_msgs (s : State) (p n : Nat) (k : Kernel) : (s.setKernel p n k).msgs = s.msgs := rfl
@[simp] theorem setKernel_mem (s : State) (p n : Nat) (k : Kernel) : (s.setKernel p n k).mem = s.mem := rfl
@[simp] theorem setKernel_ecc (s : State) (p n : Nat) (k : Kernel) : (s.setKernel p n k).ecc = s.ecc := rfl
@[simp] theorem setKernel_gt (s : State) (p n : Nat) (k : Kernel) : (s.setKernel p n k).gt = s.gt := rfl
@[simp] theorem setKernel_pstat (s : State) (p n : Nat) (k : Kernel) : (s.setKernel p n k).pstat = s.pstat := rfl
@[simp] theorem setKernel_bootStatus (s : State) (p n : Nat) (k : Kernel) : (s.setKernel p n k).bootStatus = s.bootStatus := rfl
@[simp] theorem setKernel_flashA (s : State) (p n : Nat) (k : Kernel) : (s.setKernel p n k).flashA = s.flashA := rfl
@[simp] theorem setKernel_flashB (s : State) (p n : Nat) (k : Kernel) : (s.setKernel p n k).flashB = s.flashB := rfl
@[simp] theorem setKernel_fuseKey (s : State) (p n : Nat) (k : Kernel) : (s.setKernel p n k).fuseKey = s.fuseKey := rfl
@[simp] theorem setKernel_fuseVersion (s : State) (p n : Nat) (k : Kernel) : (s.setKernel p n k).fuseVersion = s.fuseVersion := rfl
@[simp] theorem setKernel_energy (s : State) (p n : Nat) (k : Kernel) : (s.setKernel p n k).energy = s.energy := rfl
@[simp] theorem setKernel_power (s : State) (p n : Nat) (k : Kernel) : (s.setKernel p n k).power = s.power := rfl
@[simp] theorem setKernel_modulePower (s : State) (p n : Nat) (k : Kernel) : (s.setKernel p n k).modulePower = s.modulePower := rfl
@[simp] theorem setKernel_channels (s : State) (p n : Nat) (k : Kernel) : (s.setKernel p n k).channels = s.channels := rfl
@[simp] theorem setKernel_hostReqs (s : State) (p n : Nat) (k : Kernel) : (s.setKernel p n k).hostReqs = s.hostReqs := rfl
@[simp] theorem setKernel_hostMem (s : State) (p n : Nat) (k : Kernel) : (s.setKernel p n k).hostMem = s.hostMem := rfl
@[simp] theorem setKernel_hostBar (s : State) (p n : Nat) (k : Kernel) : (s.setKernel p n k).hostBar = s.hostBar := rfl
@[simp] theorem setKernel_serial (s : State) (p n : Nat) (k : Kernel) : (s.setKernel p n k).serial = s.serial := rfl
@[simp] theorem setKernel_free (s : State) (p n : Nat) (k : Kernel) : (s.setKernel p n k).free = s.free := rfl

@[simp] theorem setHome_t (s : State) (h : Nat) (x : Home) : (s.setHome h x).t = s.t := rfl
@[simp] theorem setHome_agenda (s : State) (h : Nat) (x : Home) : (s.setHome h x).agenda = s.agenda := rfl
@[simp] theorem setHome_cur (s : State) (h : Nat) (x : Home) : (s.setHome h x).cur = s.cur := rfl
@[simp] theorem setHome_others (s : State) (h : Nat) (x : Home) : (s.setHome h x).others = s.others := rfl
@[simp] theorem setHome_cores (s : State) (h : Nat) (x : Home) : (s.setHome h x).cores = s.cores := rfl
@[simp] theorem setHome_sys (s : State) (h : Nat) (x : Home) : (s.setHome h x).sys = s.sys := rfl
@[simp] theorem setHome_parts (s : State) (h : Nat) (x : Home) : (s.setHome h x).parts = s.parts := rfl
@[simp] theorem setHome_queues (s : State) (h : Nat) (x : Home) : (s.setHome h x).queues = s.queues := rfl
@[simp] theorem setHome_slots (s : State) (h : Nat) (x : Home) : (s.setHome h x).slots = s.slots := rfl
@[simp] theorem setHome_dies (s : State) (h : Nat) (x : Home) : (s.setHome h x).dies = s.dies := rfl
@[simp] theorem setHome_links (s : State) (h : Nat) (x : Home) : (s.setHome h x).links = s.links := rfl
@[simp] theorem setHome_ports (s : State) (h : Nat) (x : Home) : (s.setHome h x).ports = s.ports := rfl
@[simp] theorem setHome_accs (s : State) (h : Nat) (x : Home) : (s.setHome h x).accs = s.accs := rfl
@[simp] theorem setHome_msgs (s : State) (h : Nat) (x : Home) : (s.setHome h x).msgs = s.msgs := rfl
@[simp] theorem setHome_mem (s : State) (h : Nat) (x : Home) : (s.setHome h x).mem = s.mem := rfl
@[simp] theorem setHome_ecc (s : State) (h : Nat) (x : Home) : (s.setHome h x).ecc = s.ecc := rfl
@[simp] theorem setHome_gt (s : State) (h : Nat) (x : Home) : (s.setHome h x).gt = s.gt := rfl
@[simp] theorem setHome_pstat (s : State) (h : Nat) (x : Home) : (s.setHome h x).pstat = s.pstat := rfl
@[simp] theorem setHome_bootStatus (s : State) (h : Nat) (x : Home) : (s.setHome h x).bootStatus = s.bootStatus := rfl
@[simp] theorem setHome_flashA (s : State) (h : Nat) (x : Home) : (s.setHome h x).flashA = s.flashA := rfl
@[simp] theorem setHome_flashB (s : State) (h : Nat) (x : Home) : (s.setHome h x).flashB = s.flashB := rfl
@[simp] theorem setHome_fuseKey (s : State) (h : Nat) (x : Home) : (s.setHome h x).fuseKey = s.fuseKey := rfl
@[simp] theorem setHome_fuseVersion (s : State) (h : Nat) (x : Home) : (s.setHome h x).fuseVersion = s.fuseVersion := rfl
@[simp] theorem setHome_energy (s : State) (h : Nat) (x : Home) : (s.setHome h x).energy = s.energy := rfl
@[simp] theorem setHome_power (s : State) (h : Nat) (x : Home) : (s.setHome h x).power = s.power := rfl
@[simp] theorem setHome_modulePower (s : State) (h : Nat) (x : Home) : (s.setHome h x).modulePower = s.modulePower := rfl
@[simp] theorem setHome_channels (s : State) (h : Nat) (x : Home) : (s.setHome h x).channels = s.channels := rfl
@[simp] theorem setHome_hostReqs (s : State) (h : Nat) (x : Home) : (s.setHome h x).hostReqs = s.hostReqs := rfl
@[simp] theorem setHome_hostMem (s : State) (h : Nat) (x : Home) : (s.setHome h x).hostMem = s.hostMem := rfl
@[simp] theorem setHome_hostBar (s : State) (h : Nat) (x : Home) : (s.setHome h x).hostBar = s.hostBar := rfl
@[simp] theorem setHome_serial (s : State) (h : Nat) (x : Home) : (s.setHome h x).serial = s.serial := rfl
@[simp] theorem setHome_free (s : State) (h : Nat) (x : Home) : (s.setHome h x).free = s.free := rfl

@[simp] theorem setSlot_t (s : State) (k : Nat) (x : Slot) : (s.setSlot k x).t = s.t := rfl
@[simp] theorem setSlot_agenda (s : State) (k : Nat) (x : Slot) : (s.setSlot k x).agenda = s.agenda := rfl
@[simp] theorem setSlot_cur (s : State) (k : Nat) (x : Slot) : (s.setSlot k x).cur = s.cur := rfl
@[simp] theorem setSlot_others (s : State) (k : Nat) (x : Slot) : (s.setSlot k x).others = s.others := rfl
@[simp] theorem setSlot_cores (s : State) (k : Nat) (x : Slot) : (s.setSlot k x).cores = s.cores := rfl
@[simp] theorem setSlot_sys (s : State) (k : Nat) (x : Slot) : (s.setSlot k x).sys = s.sys := rfl
@[simp] theorem setSlot_parts (s : State) (k : Nat) (x : Slot) : (s.setSlot k x).parts = s.parts := rfl
@[simp] theorem setSlot_homes (s : State) (k : Nat) (x : Slot) : (s.setSlot k x).homes = s.homes := rfl
@[simp] theorem setSlot_queues (s : State) (k : Nat) (x : Slot) : (s.setSlot k x).queues = s.queues := rfl
@[simp] theorem setSlot_dies (s : State) (k : Nat) (x : Slot) : (s.setSlot k x).dies = s.dies := rfl
@[simp] theorem setSlot_links (s : State) (k : Nat) (x : Slot) : (s.setSlot k x).links = s.links := rfl
@[simp] theorem setSlot_ports (s : State) (k : Nat) (x : Slot) : (s.setSlot k x).ports = s.ports := rfl
@[simp] theorem setSlot_accs (s : State) (k : Nat) (x : Slot) : (s.setSlot k x).accs = s.accs := rfl
@[simp] theorem setSlot_msgs (s : State) (k : Nat) (x : Slot) : (s.setSlot k x).msgs = s.msgs := rfl
@[simp] theorem setSlot_mem (s : State) (k : Nat) (x : Slot) : (s.setSlot k x).mem = s.mem := rfl
@[simp] theorem setSlot_ecc (s : State) (k : Nat) (x : Slot) : (s.setSlot k x).ecc = s.ecc := rfl
@[simp] theorem setSlot_gt (s : State) (k : Nat) (x : Slot) : (s.setSlot k x).gt = s.gt := rfl
@[simp] theorem setSlot_pstat (s : State) (k : Nat) (x : Slot) : (s.setSlot k x).pstat = s.pstat := rfl
@[simp] theorem setSlot_bootStatus (s : State) (k : Nat) (x : Slot) : (s.setSlot k x).bootStatus = s.bootStatus := rfl
@[simp] theorem setSlot_flashA (s : State) (k : Nat) (x : Slot) : (s.setSlot k x).flashA = s.flashA := rfl
@[simp] theorem setSlot_flashB (s : State) (k : Nat) (x : Slot) : (s.setSlot k x).flashB = s.flashB := rfl
@[simp] theorem setSlot_fuseKey (s : State) (k : Nat) (x : Slot) : (s.setSlot k x).fuseKey = s.fuseKey := rfl
@[simp] theorem setSlot_fuseVersion (s : State) (k : Nat) (x : Slot) : (s.setSlot k x).fuseVersion = s.fuseVersion := rfl
@[simp] theorem setSlot_energy (s : State) (k : Nat) (x : Slot) : (s.setSlot k x).energy = s.energy := rfl
@[simp] theorem setSlot_power (s : State) (k : Nat) (x : Slot) : (s.setSlot k x).power = s.power := rfl
@[simp] theorem setSlot_modulePower (s : State) (k : Nat) (x : Slot) : (s.setSlot k x).modulePower = s.modulePower := rfl
@[simp] theorem setSlot_channels (s : State) (k : Nat) (x : Slot) : (s.setSlot k x).channels = s.channels := rfl
@[simp] theorem setSlot_hostReqs (s : State) (k : Nat) (x : Slot) : (s.setSlot k x).hostReqs = s.hostReqs := rfl
@[simp] theorem setSlot_hostMem (s : State) (k : Nat) (x : Slot) : (s.setSlot k x).hostMem = s.hostMem := rfl
@[simp] theorem setSlot_hostBar (s : State) (k : Nat) (x : Slot) : (s.setSlot k x).hostBar = s.hostBar := rfl
@[simp] theorem setSlot_serial (s : State) (k : Nat) (x : Slot) : (s.setSlot k x).serial = s.serial := rfl
@[simp] theorem setSlot_free (s : State) (k : Nat) (x : Slot) : (s.setSlot k x).free = s.free := rfl

@[simp] theorem setDie_t (s : State) (d : Nat) (x : Die) : (s.setDie d x).t = s.t := rfl
@[simp] theorem setDie_agenda (s : State) (d : Nat) (x : Die) : (s.setDie d x).agenda = s.agenda := rfl
@[simp] theorem setDie_cur (s : State) (d : Nat) (x : Die) : (s.setDie d x).cur = s.cur := rfl
@[simp] theorem setDie_others (s : State) (d : Nat) (x : Die) : (s.setDie d x).others = s.others := rfl
@[simp] theorem setDie_cores (s : State) (d : Nat) (x : Die) : (s.setDie d x).cores = s.cores := rfl
@[simp] theorem setDie_sys (s : State) (d : Nat) (x : Die) : (s.setDie d x).sys = s.sys := rfl
@[simp] theorem setDie_parts (s : State) (d : Nat) (x : Die) : (s.setDie d x).parts = s.parts := rfl
@[simp] theorem setDie_homes (s : State) (d : Nat) (x : Die) : (s.setDie d x).homes = s.homes := rfl
@[simp] theorem setDie_queues (s : State) (d : Nat) (x : Die) : (s.setDie d x).queues = s.queues := rfl
@[simp] theorem setDie_slots (s : State) (d : Nat) (x : Die) : (s.setDie d x).slots = s.slots := rfl
@[simp] theorem setDie_links (s : State) (d : Nat) (x : Die) : (s.setDie d x).links = s.links := rfl
@[simp] theorem setDie_ports (s : State) (d : Nat) (x : Die) : (s.setDie d x).ports = s.ports := rfl
@[simp] theorem setDie_accs (s : State) (d : Nat) (x : Die) : (s.setDie d x).accs = s.accs := rfl
@[simp] theorem setDie_msgs (s : State) (d : Nat) (x : Die) : (s.setDie d x).msgs = s.msgs := rfl
@[simp] theorem setDie_mem (s : State) (d : Nat) (x : Die) : (s.setDie d x).mem = s.mem := rfl
@[simp] theorem setDie_ecc (s : State) (d : Nat) (x : Die) : (s.setDie d x).ecc = s.ecc := rfl
@[simp] theorem setDie_gt (s : State) (d : Nat) (x : Die) : (s.setDie d x).gt = s.gt := rfl
@[simp] theorem setDie_pstat (s : State) (d : Nat) (x : Die) : (s.setDie d x).pstat = s.pstat := rfl
@[simp] theorem setDie_bootStatus (s : State) (d : Nat) (x : Die) : (s.setDie d x).bootStatus = s.bootStatus := rfl
@[simp] theorem setDie_flashA (s : State) (d : Nat) (x : Die) : (s.setDie d x).flashA = s.flashA := rfl
@[simp] theorem setDie_flashB (s : State) (d : Nat) (x : Die) : (s.setDie d x).flashB = s.flashB := rfl
@[simp] theorem setDie_fuseKey (s : State) (d : Nat) (x : Die) : (s.setDie d x).fuseKey = s.fuseKey := rfl
@[simp] theorem setDie_fuseVersion (s : State) (d : Nat) (x : Die) : (s.setDie d x).fuseVersion = s.fuseVersion := rfl
@[simp] theorem setDie_energy (s : State) (d : Nat) (x : Die) : (s.setDie d x).energy = s.energy := rfl
@[simp] theorem setDie_power (s : State) (d : Nat) (x : Die) : (s.setDie d x).power = s.power := rfl
@[simp] theorem setDie_modulePower (s : State) (d : Nat) (x : Die) : (s.setDie d x).modulePower = s.modulePower := rfl
@[simp] theorem setDie_channels (s : State) (d : Nat) (x : Die) : (s.setDie d x).channels = s.channels := rfl
@[simp] theorem setDie_hostReqs (s : State) (d : Nat) (x : Die) : (s.setDie d x).hostReqs = s.hostReqs := rfl
@[simp] theorem setDie_hostMem (s : State) (d : Nat) (x : Die) : (s.setDie d x).hostMem = s.hostMem := rfl
@[simp] theorem setDie_hostBar (s : State) (d : Nat) (x : Die) : (s.setDie d x).hostBar = s.hostBar := rfl
@[simp] theorem setDie_serial (s : State) (d : Nat) (x : Die) : (s.setDie d x).serial = s.serial := rfl
@[simp] theorem setDie_free (s : State) (d : Nat) (x : Die) : (s.setDie d x).free = s.free := rfl

@[simp] theorem setPort_t (s : State) (h : Nat) (x : Port) : (s.setPort h x).t = s.t := rfl
@[simp] theorem setPort_agenda (s : State) (h : Nat) (x : Port) : (s.setPort h x).agenda = s.agenda := rfl
@[simp] theorem setPort_cur (s : State) (h : Nat) (x : Port) : (s.setPort h x).cur = s.cur := rfl
@[simp] theorem setPort_others (s : State) (h : Nat) (x : Port) : (s.setPort h x).others = s.others := rfl
@[simp] theorem setPort_cores (s : State) (h : Nat) (x : Port) : (s.setPort h x).cores = s.cores := rfl
@[simp] theorem setPort_sys (s : State) (h : Nat) (x : Port) : (s.setPort h x).sys = s.sys := rfl
@[simp] theorem setPort_parts (s : State) (h : Nat) (x : Port) : (s.setPort h x).parts = s.parts := rfl
@[simp] theorem setPort_homes (s : State) (h : Nat) (x : Port) : (s.setPort h x).homes = s.homes := rfl
@[simp] theorem setPort_queues (s : State) (h : Nat) (x : Port) : (s.setPort h x).queues = s.queues := rfl
@[simp] theorem setPort_slots (s : State) (h : Nat) (x : Port) : (s.setPort h x).slots = s.slots := rfl
@[simp] theorem setPort_dies (s : State) (h : Nat) (x : Port) : (s.setPort h x).dies = s.dies := rfl
@[simp] theorem setPort_links (s : State) (h : Nat) (x : Port) : (s.setPort h x).links = s.links := rfl
@[simp] theorem setPort_accs (s : State) (h : Nat) (x : Port) : (s.setPort h x).accs = s.accs := rfl
@[simp] theorem setPort_msgs (s : State) (h : Nat) (x : Port) : (s.setPort h x).msgs = s.msgs := rfl
@[simp] theorem setPort_mem (s : State) (h : Nat) (x : Port) : (s.setPort h x).mem = s.mem := rfl
@[simp] theorem setPort_ecc (s : State) (h : Nat) (x : Port) : (s.setPort h x).ecc = s.ecc := rfl
@[simp] theorem setPort_gt (s : State) (h : Nat) (x : Port) : (s.setPort h x).gt = s.gt := rfl
@[simp] theorem setPort_pstat (s : State) (h : Nat) (x : Port) : (s.setPort h x).pstat = s.pstat := rfl
@[simp] theorem setPort_bootStatus (s : State) (h : Nat) (x : Port) : (s.setPort h x).bootStatus = s.bootStatus := rfl
@[simp] theorem setPort_flashA (s : State) (h : Nat) (x : Port) : (s.setPort h x).flashA = s.flashA := rfl
@[simp] theorem setPort_flashB (s : State) (h : Nat) (x : Port) : (s.setPort h x).flashB = s.flashB := rfl
@[simp] theorem setPort_fuseKey (s : State) (h : Nat) (x : Port) : (s.setPort h x).fuseKey = s.fuseKey := rfl
@[simp] theorem setPort_fuseVersion (s : State) (h : Nat) (x : Port) : (s.setPort h x).fuseVersion = s.fuseVersion := rfl
@[simp] theorem setPort_energy (s : State) (h : Nat) (x : Port) : (s.setPort h x).energy = s.energy := rfl
@[simp] theorem setPort_power (s : State) (h : Nat) (x : Port) : (s.setPort h x).power = s.power := rfl
@[simp] theorem setPort_modulePower (s : State) (h : Nat) (x : Port) : (s.setPort h x).modulePower = s.modulePower := rfl
@[simp] theorem setPort_channels (s : State) (h : Nat) (x : Port) : (s.setPort h x).channels = s.channels := rfl
@[simp] theorem setPort_hostReqs (s : State) (h : Nat) (x : Port) : (s.setPort h x).hostReqs = s.hostReqs := rfl
@[simp] theorem setPort_hostMem (s : State) (h : Nat) (x : Port) : (s.setPort h x).hostMem = s.hostMem := rfl
@[simp] theorem setPort_hostBar (s : State) (h : Nat) (x : Port) : (s.setPort h x).hostBar = s.hostBar := rfl
@[simp] theorem setPort_serial (s : State) (h : Nat) (x : Port) : (s.setPort h x).serial = s.serial := rfl
@[simp] theorem setPort_free (s : State) (h : Nat) (x : Port) : (s.setPort h x).free = s.free := rfl

@[simp] theorem push_t (s : State) (i : Instr) : (s.push i).t = s.t := rfl
@[simp] theorem push_cur (s : State) (i : Instr) : (s.push i).cur = s.cur := rfl
@[simp] theorem push_others (s : State) (i : Instr) : (s.push i).others = s.others := rfl
@[simp] theorem push_cores (s : State) (i : Instr) : (s.push i).cores = s.cores := rfl
@[simp] theorem push_sys (s : State) (i : Instr) : (s.push i).sys = s.sys := rfl
@[simp] theorem push_parts (s : State) (i : Instr) : (s.push i).parts = s.parts := rfl
@[simp] theorem push_homes (s : State) (i : Instr) : (s.push i).homes = s.homes := rfl
@[simp] theorem push_queues (s : State) (i : Instr) : (s.push i).queues = s.queues := rfl
@[simp] theorem push_slots (s : State) (i : Instr) : (s.push i).slots = s.slots := rfl
@[simp] theorem push_dies (s : State) (i : Instr) : (s.push i).dies = s.dies := rfl
@[simp] theorem push_links (s : State) (i : Instr) : (s.push i).links = s.links := rfl
@[simp] theorem push_ports (s : State) (i : Instr) : (s.push i).ports = s.ports := rfl
@[simp] theorem push_accs (s : State) (i : Instr) : (s.push i).accs = s.accs := rfl
@[simp] theorem push_msgs (s : State) (i : Instr) : (s.push i).msgs = s.msgs := rfl
@[simp] theorem push_mem (s : State) (i : Instr) : (s.push i).mem = s.mem := rfl
@[simp] theorem push_ecc (s : State) (i : Instr) : (s.push i).ecc = s.ecc := rfl
@[simp] theorem push_gt (s : State) (i : Instr) : (s.push i).gt = s.gt := rfl
@[simp] theorem push_pstat (s : State) (i : Instr) : (s.push i).pstat = s.pstat := rfl
@[simp] theorem push_bootStatus (s : State) (i : Instr) : (s.push i).bootStatus = s.bootStatus := rfl
@[simp] theorem push_flashA (s : State) (i : Instr) : (s.push i).flashA = s.flashA := rfl
@[simp] theorem push_flashB (s : State) (i : Instr) : (s.push i).flashB = s.flashB := rfl
@[simp] theorem push_fuseKey (s : State) (i : Instr) : (s.push i).fuseKey = s.fuseKey := rfl
@[simp] theorem push_fuseVersion (s : State) (i : Instr) : (s.push i).fuseVersion = s.fuseVersion := rfl
@[simp] theorem push_energy (s : State) (i : Instr) : (s.push i).energy = s.energy := rfl
@[simp] theorem push_power (s : State) (i : Instr) : (s.push i).power = s.power := rfl
@[simp] theorem push_modulePower (s : State) (i : Instr) : (s.push i).modulePower = s.modulePower := rfl
@[simp] theorem push_channels (s : State) (i : Instr) : (s.push i).channels = s.channels := rfl
@[simp] theorem push_hostReqs (s : State) (i : Instr) : (s.push i).hostReqs = s.hostReqs := rfl
@[simp] theorem push_hostMem (s : State) (i : Instr) : (s.push i).hostMem = s.hostMem := rfl
@[simp] theorem push_hostBar (s : State) (i : Instr) : (s.push i).hostBar = s.hostBar := rfl
@[simp] theorem push_serial (s : State) (i : Instr) : (s.push i).serial = s.serial := rfl
@[simp] theorem push_free (s : State) (i : Instr) : (s.push i).free = s.free := rfl

@[simp] theorem pushAll_t (s : State) (is : List Instr) : (s.pushAll is).t = s.t := rfl
@[simp] theorem pushAll_cur (s : State) (is : List Instr) : (s.pushAll is).cur = s.cur := rfl
@[simp] theorem pushAll_others (s : State) (is : List Instr) : (s.pushAll is).others = s.others := rfl
@[simp] theorem pushAll_cores (s : State) (is : List Instr) : (s.pushAll is).cores = s.cores := rfl
@[simp] theorem pushAll_sys (s : State) (is : List Instr) : (s.pushAll is).sys = s.sys := rfl
@[simp] theorem pushAll_parts (s : State) (is : List Instr) : (s.pushAll is).parts = s.parts := rfl
@[simp] theorem pushAll_homes (s : State) (is : List Instr) : (s.pushAll is).homes = s.homes := rfl
@[simp] theorem pushAll_queues (s : State) (is : List Instr) : (s.pushAll is).queues = s.queues := rfl
@[simp] theorem pushAll_slots (s : State) (is : List Instr) : (s.pushAll is).slots = s.slots := rfl
@[simp] theorem pushAll_dies (s : State) (is : List Instr) : (s.pushAll is).dies = s.dies := rfl
@[simp] theorem pushAll_links (s : State) (is : List Instr) : (s.pushAll is).links = s.links := rfl
@[simp] theorem pushAll_ports (s : State) (is : List Instr) : (s.pushAll is).ports = s.ports := rfl
@[simp] theorem pushAll_accs (s : State) (is : List Instr) : (s.pushAll is).accs = s.accs := rfl
@[simp] theorem pushAll_msgs (s : State) (is : List Instr) : (s.pushAll is).msgs = s.msgs := rfl
@[simp] theorem pushAll_mem (s : State) (is : List Instr) : (s.pushAll is).mem = s.mem := rfl
@[simp] theorem pushAll_ecc (s : State) (is : List Instr) : (s.pushAll is).ecc = s.ecc := rfl
@[simp] theorem pushAll_gt (s : State) (is : List Instr) : (s.pushAll is).gt = s.gt := rfl
@[simp] theorem pushAll_pstat (s : State) (is : List Instr) : (s.pushAll is).pstat = s.pstat := rfl
@[simp] theorem pushAll_bootStatus (s : State) (is : List Instr) : (s.pushAll is).bootStatus = s.bootStatus := rfl
@[simp] theorem pushAll_flashA (s : State) (is : List Instr) : (s.pushAll is).flashA = s.flashA := rfl
@[simp] theorem pushAll_flashB (s : State) (is : List Instr) : (s.pushAll is).flashB = s.flashB := rfl
@[simp] theorem pushAll_fuseKey (s : State) (is : List Instr) : (s.pushAll is).fuseKey = s.fuseKey := rfl
@[simp] theorem pushAll_fuseVersion (s : State) (is : List Instr) : (s.pushAll is).fuseVersion = s.fuseVersion := rfl
@[simp] theorem pushAll_energy (s : State) (is : List Instr) : (s.pushAll is).energy = s.energy := rfl
@[simp] theorem pushAll_power (s : State) (is : List Instr) : (s.pushAll is).power = s.power := rfl
@[simp] theorem pushAll_modulePower (s : State) (is : List Instr) : (s.pushAll is).modulePower = s.modulePower := rfl
@[simp] theorem pushAll_channels (s : State) (is : List Instr) : (s.pushAll is).channels = s.channels := rfl
@[simp] theorem pushAll_hostReqs (s : State) (is : List Instr) : (s.pushAll is).hostReqs = s.hostReqs := rfl
@[simp] theorem pushAll_hostMem (s : State) (is : List Instr) : (s.pushAll is).hostMem = s.hostMem := rfl
@[simp] theorem pushAll_hostBar (s : State) (is : List Instr) : (s.pushAll is).hostBar = s.hostBar := rfl
@[simp] theorem pushAll_serial (s : State) (is : List Instr) : (s.pushAll is).serial = s.serial := rfl
@[simp] theorem pushAll_free (s : State) (is : List Instr) : (s.pushAll is).free = s.free := rfl

@[simp] theorem setAcc_t (s : State) (a : Access) : (s.setAcc a).t = s.t := rfl
@[simp] theorem setAcc_agenda (s : State) (a : Access) : (s.setAcc a).agenda = s.agenda := rfl
@[simp] theorem setAcc_cur (s : State) (a : Access) : (s.setAcc a).cur = s.cur := rfl
@[simp] theorem setAcc_others (s : State) (a : Access) : (s.setAcc a).others = s.others := rfl
@[simp] theorem setAcc_cores (s : State) (a : Access) : (s.setAcc a).cores = s.cores := rfl
@[simp] theorem setAcc_sys (s : State) (a : Access) : (s.setAcc a).sys = s.sys := rfl
@[simp] theorem setAcc_parts (s : State) (a : Access) : (s.setAcc a).parts = s.parts := rfl
@[simp] theorem setAcc_homes (s : State) (a : Access) : (s.setAcc a).homes = s.homes := rfl
@[simp] theorem setAcc_queues (s : State) (a : Access) : (s.setAcc a).queues = s.queues := rfl
@[simp] theorem setAcc_slots (s : State) (a : Access) : (s.setAcc a).slots = s.slots := rfl
@[simp] theorem setAcc_dies (s : State) (a : Access) : (s.setAcc a).dies = s.dies := rfl
@[simp] theorem setAcc_links (s : State) (a : Access) : (s.setAcc a).links = s.links := rfl
@[simp] theorem setAcc_ports (s : State) (a : Access) : (s.setAcc a).ports = s.ports := rfl
@[simp] theorem setAcc_msgs (s : State) (a : Access) : (s.setAcc a).msgs = s.msgs := rfl
@[simp] theorem setAcc_mem (s : State) (a : Access) : (s.setAcc a).mem = s.mem := rfl
@[simp] theorem setAcc_ecc (s : State) (a : Access) : (s.setAcc a).ecc = s.ecc := rfl
@[simp] theorem setAcc_gt (s : State) (a : Access) : (s.setAcc a).gt = s.gt := rfl
@[simp] theorem setAcc_pstat (s : State) (a : Access) : (s.setAcc a).pstat = s.pstat := rfl
@[simp] theorem setAcc_bootStatus (s : State) (a : Access) : (s.setAcc a).bootStatus = s.bootStatus := rfl
@[simp] theorem setAcc_flashA (s : State) (a : Access) : (s.setAcc a).flashA = s.flashA := rfl
@[simp] theorem setAcc_flashB (s : State) (a : Access) : (s.setAcc a).flashB = s.flashB := rfl
@[simp] theorem setAcc_fuseKey (s : State) (a : Access) : (s.setAcc a).fuseKey = s.fuseKey := rfl
@[simp] theorem setAcc_fuseVersion (s : State) (a : Access) : (s.setAcc a).fuseVersion = s.fuseVersion := rfl
@[simp] theorem setAcc_energy (s : State) (a : Access) : (s.setAcc a).energy = s.energy := rfl
@[simp] theorem setAcc_power (s : State) (a : Access) : (s.setAcc a).power = s.power := rfl
@[simp] theorem setAcc_modulePower (s : State) (a : Access) : (s.setAcc a).modulePower = s.modulePower := rfl
@[simp] theorem setAcc_channels (s : State) (a : Access) : (s.setAcc a).channels = s.channels := rfl
@[simp] theorem setAcc_hostReqs (s : State) (a : Access) : (s.setAcc a).hostReqs = s.hostReqs := rfl
@[simp] theorem setAcc_hostMem (s : State) (a : Access) : (s.setAcc a).hostMem = s.hostMem := rfl
@[simp] theorem setAcc_hostBar (s : State) (a : Access) : (s.setAcc a).hostBar = s.hostBar := rfl
@[simp] theorem setAcc_serial (s : State) (a : Access) : (s.setAcc a).serial = s.serial := rfl
@[simp] theorem setAcc_free (s : State) (a : Access) : (s.setAcc a).free = s.free := rfl

@[simp] theorem dropAcc_t (s : State) (id : Nat) : (s.dropAcc id).t = s.t := rfl
@[simp] theorem dropAcc_agenda (s : State) (id : Nat) : (s.dropAcc id).agenda = s.agenda := rfl
@[simp] theorem dropAcc_cur (s : State) (id : Nat) : (s.dropAcc id).cur = s.cur := rfl
@[simp] theorem dropAcc_others (s : State) (id : Nat) : (s.dropAcc id).others = s.others := rfl
@[simp] theorem dropAcc_cores (s : State) (id : Nat) : (s.dropAcc id).cores = s.cores := rfl
@[simp] theorem dropAcc_sys (s : State) (id : Nat) : (s.dropAcc id).sys = s.sys := rfl
@[simp] theorem dropAcc_parts (s : State) (id : Nat) : (s.dropAcc id).parts = s.parts := rfl
@[simp] theorem dropAcc_homes (s : State) (id : Nat) : (s.dropAcc id).homes = s.homes := rfl
@[simp] theorem dropAcc_queues (s : State) (id : Nat) : (s.dropAcc id).queues = s.queues := rfl
@[simp] theorem dropAcc_slots (s : State) (id : Nat) : (s.dropAcc id).slots = s.slots := rfl
@[simp] theorem dropAcc_dies (s : State) (id : Nat) : (s.dropAcc id).dies = s.dies := rfl
@[simp] theorem dropAcc_links (s : State) (id : Nat) : (s.dropAcc id).links = s.links := rfl
@[simp] theorem dropAcc_ports (s : State) (id : Nat) : (s.dropAcc id).ports = s.ports := rfl
@[simp] theorem dropAcc_msgs (s : State) (id : Nat) : (s.dropAcc id).msgs = s.msgs := rfl
@[simp] theorem dropAcc_mem (s : State) (id : Nat) : (s.dropAcc id).mem = s.mem := rfl
@[simp] theorem dropAcc_ecc (s : State) (id : Nat) : (s.dropAcc id).ecc = s.ecc := rfl
@[simp] theorem dropAcc_gt (s : State) (id : Nat) : (s.dropAcc id).gt = s.gt := rfl
@[simp] theorem dropAcc_pstat (s : State) (id : Nat) : (s.dropAcc id).pstat = s.pstat := rfl
@[simp] theorem dropAcc_bootStatus (s : State) (id : Nat) : (s.dropAcc id).bootStatus = s.bootStatus := rfl
@[simp] theorem dropAcc_flashA (s : State) (id : Nat) : (s.dropAcc id).flashA = s.flashA := rfl
@[simp] theorem dropAcc_flashB (s : State) (id : Nat) : (s.dropAcc id).flashB = s.flashB := rfl
@[simp] theorem dropAcc_fuseKey (s : State) (id : Nat) : (s.dropAcc id).fuseKey = s.fuseKey := rfl
@[simp] theorem dropAcc_fuseVersion (s : State) (id : Nat) : (s.dropAcc id).fuseVersion = s.fuseVersion := rfl
@[simp] theorem dropAcc_energy (s : State) (id : Nat) : (s.dropAcc id).energy = s.energy := rfl
@[simp] theorem dropAcc_power (s : State) (id : Nat) : (s.dropAcc id).power = s.power := rfl
@[simp] theorem dropAcc_modulePower (s : State) (id : Nat) : (s.dropAcc id).modulePower = s.modulePower := rfl
@[simp] theorem dropAcc_channels (s : State) (id : Nat) : (s.dropAcc id).channels = s.channels := rfl
@[simp] theorem dropAcc_hostReqs (s : State) (id : Nat) : (s.dropAcc id).hostReqs = s.hostReqs := rfl
@[simp] theorem dropAcc_hostMem (s : State) (id : Nat) : (s.dropAcc id).hostMem = s.hostMem := rfl
@[simp] theorem dropAcc_hostBar (s : State) (id : Nat) : (s.dropAcc id).hostBar = s.hostBar := rfl
@[simp] theorem dropAcc_serial (s : State) (id : Nat) : (s.dropAcc id).serial = s.serial := rfl
@[simp] theorem dropAcc_free (s : State) (id : Nat) : (s.dropAcc id).free = s.free := rfl

@[simp] theorem mapThreads_t (s : State) (f : Thread → Thread) : (s.mapThreads f).t = s.t := rfl
@[simp] theorem mapThreads_agenda (s : State) (f : Thread → Thread) : (s.mapThreads f).agenda = s.agenda := rfl
@[simp] theorem mapThreads_cores (s : State) (f : Thread → Thread) : (s.mapThreads f).cores = s.cores := rfl
@[simp] theorem mapThreads_sys (s : State) (f : Thread → Thread) : (s.mapThreads f).sys = s.sys := rfl
@[simp] theorem mapThreads_parts (s : State) (f : Thread → Thread) : (s.mapThreads f).parts = s.parts := rfl
@[simp] theorem mapThreads_homes (s : State) (f : Thread → Thread) : (s.mapThreads f).homes = s.homes := rfl
@[simp] theorem mapThreads_queues (s : State) (f : Thread → Thread) : (s.mapThreads f).queues = s.queues := rfl
@[simp] theorem mapThreads_slots (s : State) (f : Thread → Thread) : (s.mapThreads f).slots = s.slots := rfl
@[simp] theorem mapThreads_dies (s : State) (f : Thread → Thread) : (s.mapThreads f).dies = s.dies := rfl
@[simp] theorem mapThreads_links (s : State) (f : Thread → Thread) : (s.mapThreads f).links = s.links := rfl
@[simp] theorem mapThreads_ports (s : State) (f : Thread → Thread) : (s.mapThreads f).ports = s.ports := rfl
@[simp] theorem mapThreads_accs (s : State) (f : Thread → Thread) : (s.mapThreads f).accs = s.accs := rfl
@[simp] theorem mapThreads_msgs (s : State) (f : Thread → Thread) : (s.mapThreads f).msgs = s.msgs := rfl
@[simp] theorem mapThreads_mem (s : State) (f : Thread → Thread) : (s.mapThreads f).mem = s.mem := rfl
@[simp] theorem mapThreads_ecc (s : State) (f : Thread → Thread) : (s.mapThreads f).ecc = s.ecc := rfl
@[simp] theorem mapThreads_gt (s : State) (f : Thread → Thread) : (s.mapThreads f).gt = s.gt := rfl
@[simp] theorem mapThreads_pstat (s : State) (f : Thread → Thread) : (s.mapThreads f).pstat = s.pstat := rfl
@[simp] theorem mapThreads_bootStatus (s : State) (f : Thread → Thread) : (s.mapThreads f).bootStatus = s.bootStatus := rfl
@[simp] theorem mapThreads_flashA (s : State) (f : Thread → Thread) : (s.mapThreads f).flashA = s.flashA := rfl
@[simp] theorem mapThreads_flashB (s : State) (f : Thread → Thread) : (s.mapThreads f).flashB = s.flashB := rfl
@[simp] theorem mapThreads_fuseKey (s : State) (f : Thread → Thread) : (s.mapThreads f).fuseKey = s.fuseKey := rfl
@[simp] theorem mapThreads_fuseVersion (s : State) (f : Thread → Thread) : (s.mapThreads f).fuseVersion = s.fuseVersion := rfl
@[simp] theorem mapThreads_energy (s : State) (f : Thread → Thread) : (s.mapThreads f).energy = s.energy := rfl
@[simp] theorem mapThreads_power (s : State) (f : Thread → Thread) : (s.mapThreads f).power = s.power := rfl
@[simp] theorem mapThreads_modulePower (s : State) (f : Thread → Thread) : (s.mapThreads f).modulePower = s.modulePower := rfl
@[simp] theorem mapThreads_channels (s : State) (f : Thread → Thread) : (s.mapThreads f).channels = s.channels := rfl
@[simp] theorem mapThreads_hostReqs (s : State) (f : Thread → Thread) : (s.mapThreads f).hostReqs = s.hostReqs := rfl
@[simp] theorem mapThreads_hostMem (s : State) (f : Thread → Thread) : (s.mapThreads f).hostMem = s.hostMem := rfl
@[simp] theorem mapThreads_hostBar (s : State) (f : Thread → Thread) : (s.mapThreads f).hostBar = s.hostBar := rfl
@[simp] theorem mapThreads_serial (s : State) (f : Thread → Thread) : (s.mapThreads f).serial = s.serial := rfl
@[simp] theorem mapThreads_free (s : State) (f : Thread → Thread) : (s.mapThreads f).free = s.free := rfl

@[simp] theorem setThread_t (s : State) (th : Thread) : (s.setThread th).t = s.t := by unfold setThread; split <;> rfl
@[simp] theorem setThread_agenda (s : State) (th : Thread) : (s.setThread th).agenda = s.agenda := by unfold setThread; split <;> rfl
@[simp] theorem setThread_cores (s : State) (th : Thread) : (s.setThread th).cores = s.cores := by unfold setThread; split <;> rfl
@[simp] theorem setThread_sys (s : State) (th : Thread) : (s.setThread th).sys = s.sys := by unfold setThread; split <;> rfl
@[simp] theorem setThread_parts (s : State) (th : Thread) : (s.setThread th).parts = s.parts := by unfold setThread; split <;> rfl
@[simp] theorem setThread_homes (s : State) (th : Thread) : (s.setThread th).homes = s.homes := by unfold setThread; split <;> rfl
@[simp] theorem setThread_queues (s : State) (th : Thread) : (s.setThread th).queues = s.queues := by unfold setThread; split <;> rfl
@[simp] theorem setThread_slots (s : State) (th : Thread) : (s.setThread th).slots = s.slots := by unfold setThread; split <;> rfl
@[simp] theorem setThread_dies (s : State) (th : Thread) : (s.setThread th).dies = s.dies := by unfold setThread; split <;> rfl
@[simp] theorem setThread_links (s : State) (th : Thread) : (s.setThread th).links = s.links := by unfold setThread; split <;> rfl
@[simp] theorem setThread_ports (s : State) (th : Thread) : (s.setThread th).ports = s.ports := by unfold setThread; split <;> rfl
@[simp] theorem setThread_accs (s : State) (th : Thread) : (s.setThread th).accs = s.accs := by unfold setThread; split <;> rfl
@[simp] theorem setThread_msgs (s : State) (th : Thread) : (s.setThread th).msgs = s.msgs := by unfold setThread; split <;> rfl
@[simp] theorem setThread_mem (s : State) (th : Thread) : (s.setThread th).mem = s.mem := by unfold setThread; split <;> rfl
@[simp] theorem setThread_ecc (s : State) (th : Thread) : (s.setThread th).ecc = s.ecc := by unfold setThread; split <;> rfl
@[simp] theorem setThread_gt (s : State) (th : Thread) : (s.setThread th).gt = s.gt := by unfold setThread; split <;> rfl
@[simp] theorem setThread_pstat (s : State) (th : Thread) : (s.setThread th).pstat = s.pstat := by unfold setThread; split <;> rfl
@[simp] theorem setThread_bootStatus (s : State) (th : Thread) : (s.setThread th).bootStatus = s.bootStatus := by unfold setThread; split <;> rfl
@[simp] theorem setThread_flashA (s : State) (th : Thread) : (s.setThread th).flashA = s.flashA := by unfold setThread; split <;> rfl
@[simp] theorem setThread_flashB (s : State) (th : Thread) : (s.setThread th).flashB = s.flashB := by unfold setThread; split <;> rfl
@[simp] theorem setThread_fuseKey (s : State) (th : Thread) : (s.setThread th).fuseKey = s.fuseKey := by unfold setThread; split <;> rfl
@[simp] theorem setThread_fuseVersion (s : State) (th : Thread) : (s.setThread th).fuseVersion = s.fuseVersion := by unfold setThread; split <;> rfl
@[simp] theorem setThread_energy (s : State) (th : Thread) : (s.setThread th).energy = s.energy := by unfold setThread; split <;> rfl
@[simp] theorem setThread_power (s : State) (th : Thread) : (s.setThread th).power = s.power := by unfold setThread; split <;> rfl
@[simp] theorem setThread_modulePower (s : State) (th : Thread) : (s.setThread th).modulePower = s.modulePower := by unfold setThread; split <;> rfl
@[simp] theorem setThread_channels (s : State) (th : Thread) : (s.setThread th).channels = s.channels := by unfold setThread; split <;> rfl
@[simp] theorem setThread_hostReqs (s : State) (th : Thread) : (s.setThread th).hostReqs = s.hostReqs := by unfold setThread; split <;> rfl
@[simp] theorem setThread_hostMem (s : State) (th : Thread) : (s.setThread th).hostMem = s.hostMem := by unfold setThread; split <;> rfl
@[simp] theorem setThread_hostBar (s : State) (th : Thread) : (s.setThread th).hostBar = s.hostBar := by unfold setThread; split <;> rfl
@[simp] theorem setThread_serial (s : State) (th : Thread) : (s.setThread th).serial = s.serial := by unfold setThread; split <;> rfl
@[simp] theorem setThread_free (s : State) (th : Thread) : (s.setThread th).free = s.free := by unfold setThread; split <;> rfl

@[simp] theorem onThread_t (s : State) (id : ThreadId) (f : Thread → Thread) : (s.onThread id f).t = s.t := by unfold onThread; split <;> simp
@[simp] theorem onThread_agenda (s : State) (id : ThreadId) (f : Thread → Thread) : (s.onThread id f).agenda = s.agenda := by unfold onThread; split <;> simp
@[simp] theorem onThread_cores (s : State) (id : ThreadId) (f : Thread → Thread) : (s.onThread id f).cores = s.cores := by unfold onThread; split <;> simp
@[simp] theorem onThread_sys (s : State) (id : ThreadId) (f : Thread → Thread) : (s.onThread id f).sys = s.sys := by unfold onThread; split <;> simp
@[simp] theorem onThread_parts (s : State) (id : ThreadId) (f : Thread → Thread) : (s.onThread id f).parts = s.parts := by unfold onThread; split <;> simp
@[simp] theorem onThread_homes (s : State) (id : ThreadId) (f : Thread → Thread) : (s.onThread id f).homes = s.homes := by unfold onThread; split <;> simp
@[simp] theorem onThread_queues (s : State) (id : ThreadId) (f : Thread → Thread) : (s.onThread id f).queues = s.queues := by unfold onThread; split <;> simp
@[simp] theorem onThread_slots (s : State) (id : ThreadId) (f : Thread → Thread) : (s.onThread id f).slots = s.slots := by unfold onThread; split <;> simp
@[simp] theorem onThread_dies (s : State) (id : ThreadId) (f : Thread → Thread) : (s.onThread id f).dies = s.dies := by unfold onThread; split <;> simp
@[simp] theorem onThread_links (s : State) (id : ThreadId) (f : Thread → Thread) : (s.onThread id f).links = s.links := by unfold onThread; split <;> simp
@[simp] theorem onThread_ports (s : State) (id : ThreadId) (f : Thread → Thread) : (s.onThread id f).ports = s.ports := by unfold onThread; split <;> simp
@[simp] theorem onThread_accs (s : State) (id : ThreadId) (f : Thread → Thread) : (s.onThread id f).accs = s.accs := by unfold onThread; split <;> simp
@[simp] theorem onThread_msgs (s : State) (id : ThreadId) (f : Thread → Thread) : (s.onThread id f).msgs = s.msgs := by unfold onThread; split <;> simp
@[simp] theorem onThread_mem (s : State) (id : ThreadId) (f : Thread → Thread) : (s.onThread id f).mem = s.mem := by unfold onThread; split <;> simp
@[simp] theorem onThread_ecc (s : State) (id : ThreadId) (f : Thread → Thread) : (s.onThread id f).ecc = s.ecc := by unfold onThread; split <;> simp
@[simp] theorem onThread_gt (s : State) (id : ThreadId) (f : Thread → Thread) : (s.onThread id f).gt = s.gt := by unfold onThread; split <;> simp
@[simp] theorem onThread_pstat (s : State) (id : ThreadId) (f : Thread → Thread) : (s.onThread id f).pstat = s.pstat := by unfold onThread; split <;> simp
@[simp] theorem onThread_bootStatus (s : State) (id : ThreadId) (f : Thread → Thread) : (s.onThread id f).bootStatus = s.bootStatus := by unfold onThread; split <;> simp
@[simp] theorem onThread_flashA (s : State) (id : ThreadId) (f : Thread → Thread) : (s.onThread id f).flashA = s.flashA := by unfold onThread; split <;> simp
@[simp] theorem onThread_flashB (s : State) (id : ThreadId) (f : Thread → Thread) : (s.onThread id f).flashB = s.flashB := by unfold onThread; split <;> simp
@[simp] theorem onThread_fuseKey (s : State) (id : ThreadId) (f : Thread → Thread) : (s.onThread id f).fuseKey = s.fuseKey := by unfold onThread; split <;> simp
@[simp] theorem onThread_fuseVersion (s : State) (id : ThreadId) (f : Thread → Thread) : (s.onThread id f).fuseVersion = s.fuseVersion := by unfold onThread; split <;> simp
@[simp] theorem onThread_energy (s : State) (id : ThreadId) (f : Thread → Thread) : (s.onThread id f).energy = s.energy := by unfold onThread; split <;> simp
@[simp] theorem onThread_power (s : State) (id : ThreadId) (f : Thread → Thread) : (s.onThread id f).power = s.power := by unfold onThread; split <;> simp
@[simp] theorem onThread_modulePower (s : State) (id : ThreadId) (f : Thread → Thread) : (s.onThread id f).modulePower = s.modulePower := by unfold onThread; split <;> simp
@[simp] theorem onThread_channels (s : State) (id : ThreadId) (f : Thread → Thread) : (s.onThread id f).channels = s.channels := by unfold onThread; split <;> simp
@[simp] theorem onThread_hostReqs (s : State) (id : ThreadId) (f : Thread → Thread) : (s.onThread id f).hostReqs = s.hostReqs := by unfold onThread; split <;> simp
@[simp] theorem onThread_hostMem (s : State) (id : ThreadId) (f : Thread → Thread) : (s.onThread id f).hostMem = s.hostMem := by unfold onThread; split <;> simp
@[simp] theorem onThread_hostBar (s : State) (id : ThreadId) (f : Thread → Thread) : (s.onThread id f).hostBar = s.hostBar := by unfold onThread; split <;> simp
@[simp] theorem onThread_serial (s : State) (id : ThreadId) (f : Thread → Thread) : (s.onThread id f).serial = s.serial := by unfold onThread; split <;> simp
@[simp] theorem onThread_free (s : State) (id : ThreadId) (f : Thread → Thread) : (s.onThread id f).free = s.free := by unfold onThread; split <;> simp

@[simp] theorem setQueue_t (s : State) (q : Queue) : (s.setQueue q).t = s.t := by unfold setQueue; split <;> rfl
@[simp] theorem setQueue_agenda (s : State) (q : Queue) : (s.setQueue q).agenda = s.agenda := by unfold setQueue; split <;> rfl
@[simp] theorem setQueue_cur (s : State) (q : Queue) : (s.setQueue q).cur = s.cur := by unfold setQueue; split <;> rfl
@[simp] theorem setQueue_others (s : State) (q : Queue) : (s.setQueue q).others = s.others := by unfold setQueue; split <;> rfl
@[simp] theorem setQueue_cores (s : State) (q : Queue) : (s.setQueue q).cores = s.cores := by unfold setQueue; split <;> rfl
@[simp] theorem setQueue_sys (s : State) (q : Queue) : (s.setQueue q).sys = s.sys := by unfold setQueue; split <;> rfl
@[simp] theorem setQueue_parts (s : State) (q : Queue) : (s.setQueue q).parts = s.parts := by unfold setQueue; split <;> rfl
@[simp] theorem setQueue_homes (s : State) (q : Queue) : (s.setQueue q).homes = s.homes := by unfold setQueue; split <;> rfl
@[simp] theorem setQueue_slots (s : State) (q : Queue) : (s.setQueue q).slots = s.slots := by unfold setQueue; split <;> rfl
@[simp] theorem setQueue_dies (s : State) (q : Queue) : (s.setQueue q).dies = s.dies := by unfold setQueue; split <;> rfl
@[simp] theorem setQueue_links (s : State) (q : Queue) : (s.setQueue q).links = s.links := by unfold setQueue; split <;> rfl
@[simp] theorem setQueue_ports (s : State) (q : Queue) : (s.setQueue q).ports = s.ports := by unfold setQueue; split <;> rfl
@[simp] theorem setQueue_accs (s : State) (q : Queue) : (s.setQueue q).accs = s.accs := by unfold setQueue; split <;> rfl
@[simp] theorem setQueue_msgs (s : State) (q : Queue) : (s.setQueue q).msgs = s.msgs := by unfold setQueue; split <;> rfl
@[simp] theorem setQueue_mem (s : State) (q : Queue) : (s.setQueue q).mem = s.mem := by unfold setQueue; split <;> rfl
@[simp] theorem setQueue_ecc (s : State) (q : Queue) : (s.setQueue q).ecc = s.ecc := by unfold setQueue; split <;> rfl
@[simp] theorem setQueue_gt (s : State) (q : Queue) : (s.setQueue q).gt = s.gt := by unfold setQueue; split <;> rfl
@[simp] theorem setQueue_pstat (s : State) (q : Queue) : (s.setQueue q).pstat = s.pstat := by unfold setQueue; split <;> rfl
@[simp] theorem setQueue_bootStatus (s : State) (q : Queue) : (s.setQueue q).bootStatus = s.bootStatus := by unfold setQueue; split <;> rfl
@[simp] theorem setQueue_flashA (s : State) (q : Queue) : (s.setQueue q).flashA = s.flashA := by unfold setQueue; split <;> rfl
@[simp] theorem setQueue_flashB (s : State) (q : Queue) : (s.setQueue q).flashB = s.flashB := by unfold setQueue; split <;> rfl
@[simp] theorem setQueue_fuseKey (s : State) (q : Queue) : (s.setQueue q).fuseKey = s.fuseKey := by unfold setQueue; split <;> rfl
@[simp] theorem setQueue_fuseVersion (s : State) (q : Queue) : (s.setQueue q).fuseVersion = s.fuseVersion := by unfold setQueue; split <;> rfl
@[simp] theorem setQueue_energy (s : State) (q : Queue) : (s.setQueue q).energy = s.energy := by unfold setQueue; split <;> rfl
@[simp] theorem setQueue_power (s : State) (q : Queue) : (s.setQueue q).power = s.power := by unfold setQueue; split <;> rfl
@[simp] theorem setQueue_modulePower (s : State) (q : Queue) : (s.setQueue q).modulePower = s.modulePower := by unfold setQueue; split <;> rfl
@[simp] theorem setQueue_channels (s : State) (q : Queue) : (s.setQueue q).channels = s.channels := by unfold setQueue; split <;> rfl
@[simp] theorem setQueue_hostReqs (s : State) (q : Queue) : (s.setQueue q).hostReqs = s.hostReqs := by unfold setQueue; split <;> rfl
@[simp] theorem setQueue_hostMem (s : State) (q : Queue) : (s.setQueue q).hostMem = s.hostMem := by unfold setQueue; split <;> rfl
@[simp] theorem setQueue_hostBar (s : State) (q : Queue) : (s.setQueue q).hostBar = s.hostBar := by unfold setQueue; split <;> rfl
@[simp] theorem setQueue_serial (s : State) (q : Queue) : (s.setQueue q).serial = s.serial := by unfold setQueue; split <;> rfl
@[simp] theorem setQueue_free (s : State) (q : Queue) : (s.setQueue q).free = s.free := by unfold setQueue; split <;> rfl

@[simp] theorem setLink_t (s : State) (l : LinkId) (x : Link) : (s.setLink l x).t = s.t := by unfold setLink; split <;> rfl
@[simp] theorem setLink_agenda (s : State) (l : LinkId) (x : Link) : (s.setLink l x).agenda = s.agenda := by unfold setLink; split <;> rfl
@[simp] theorem setLink_cur (s : State) (l : LinkId) (x : Link) : (s.setLink l x).cur = s.cur := by unfold setLink; split <;> rfl
@[simp] theorem setLink_others (s : State) (l : LinkId) (x : Link) : (s.setLink l x).others = s.others := by unfold setLink; split <;> rfl
@[simp] theorem setLink_cores (s : State) (l : LinkId) (x : Link) : (s.setLink l x).cores = s.cores := by unfold setLink; split <;> rfl
@[simp] theorem setLink_sys (s : State) (l : LinkId) (x : Link) : (s.setLink l x).sys = s.sys := by unfold setLink; split <;> rfl
@[simp] theorem setLink_parts (s : State) (l : LinkId) (x : Link) : (s.setLink l x).parts = s.parts := by unfold setLink; split <;> rfl
@[simp] theorem setLink_homes (s : State) (l : LinkId) (x : Link) : (s.setLink l x).homes = s.homes := by unfold setLink; split <;> rfl
@[simp] theorem setLink_queues (s : State) (l : LinkId) (x : Link) : (s.setLink l x).queues = s.queues := by unfold setLink; split <;> rfl
@[simp] theorem setLink_slots (s : State) (l : LinkId) (x : Link) : (s.setLink l x).slots = s.slots := by unfold setLink; split <;> rfl
@[simp] theorem setLink_dies (s : State) (l : LinkId) (x : Link) : (s.setLink l x).dies = s.dies := by unfold setLink; split <;> rfl
@[simp] theorem setLink_ports (s : State) (l : LinkId) (x : Link) : (s.setLink l x).ports = s.ports := by unfold setLink; split <;> rfl
@[simp] theorem setLink_accs (s : State) (l : LinkId) (x : Link) : (s.setLink l x).accs = s.accs := by unfold setLink; split <;> rfl
@[simp] theorem setLink_msgs (s : State) (l : LinkId) (x : Link) : (s.setLink l x).msgs = s.msgs := by unfold setLink; split <;> rfl
@[simp] theorem setLink_mem (s : State) (l : LinkId) (x : Link) : (s.setLink l x).mem = s.mem := by unfold setLink; split <;> rfl
@[simp] theorem setLink_ecc (s : State) (l : LinkId) (x : Link) : (s.setLink l x).ecc = s.ecc := by unfold setLink; split <;> rfl
@[simp] theorem setLink_gt (s : State) (l : LinkId) (x : Link) : (s.setLink l x).gt = s.gt := by unfold setLink; split <;> rfl
@[simp] theorem setLink_pstat (s : State) (l : LinkId) (x : Link) : (s.setLink l x).pstat = s.pstat := by unfold setLink; split <;> rfl
@[simp] theorem setLink_bootStatus (s : State) (l : LinkId) (x : Link) : (s.setLink l x).bootStatus = s.bootStatus := by unfold setLink; split <;> rfl
@[simp] theorem setLink_flashA (s : State) (l : LinkId) (x : Link) : (s.setLink l x).flashA = s.flashA := by unfold setLink; split <;> rfl
@[simp] theorem setLink_flashB (s : State) (l : LinkId) (x : Link) : (s.setLink l x).flashB = s.flashB := by unfold setLink; split <;> rfl
@[simp] theorem setLink_fuseKey (s : State) (l : LinkId) (x : Link) : (s.setLink l x).fuseKey = s.fuseKey := by unfold setLink; split <;> rfl
@[simp] theorem setLink_fuseVersion (s : State) (l : LinkId) (x : Link) : (s.setLink l x).fuseVersion = s.fuseVersion := by unfold setLink; split <;> rfl
@[simp] theorem setLink_energy (s : State) (l : LinkId) (x : Link) : (s.setLink l x).energy = s.energy := by unfold setLink; split <;> rfl
@[simp] theorem setLink_power (s : State) (l : LinkId) (x : Link) : (s.setLink l x).power = s.power := by unfold setLink; split <;> rfl
@[simp] theorem setLink_modulePower (s : State) (l : LinkId) (x : Link) : (s.setLink l x).modulePower = s.modulePower := by unfold setLink; split <;> rfl
@[simp] theorem setLink_channels (s : State) (l : LinkId) (x : Link) : (s.setLink l x).channels = s.channels := by unfold setLink; split <;> rfl
@[simp] theorem setLink_hostReqs (s : State) (l : LinkId) (x : Link) : (s.setLink l x).hostReqs = s.hostReqs := by unfold setLink; split <;> rfl
@[simp] theorem setLink_hostMem (s : State) (l : LinkId) (x : Link) : (s.setLink l x).hostMem = s.hostMem := by unfold setLink; split <;> rfl
@[simp] theorem setLink_hostBar (s : State) (l : LinkId) (x : Link) : (s.setLink l x).hostBar = s.hostBar := by unfold setLink; split <;> rfl
@[simp] theorem setLink_serial (s : State) (l : LinkId) (x : Link) : (s.setLink l x).serial = s.serial := by unfold setLink; split <;> rfl
@[simp] theorem setLink_free (s : State) (l : LinkId) (x : Link) : (s.setLink l x).free = s.free := by unfold setLink; split <;> rfl

/-! ### What is read back -/

@[simp] theorem core_setCore (s : State) (k : Nat) (x : Core) : (s.setCore k x).core k = x := tget_tset_same ..
theorem core_setCore_other (s : State) {k j : Nat} (h : j ≠ k) (x : Core) : (s.setCore k x).core j = s.core j := tget_tset_other _ _ h _
@[simp] theorem part_setPart (s : State) (k : Nat) (x : Partition) : (s.setPart k x).part k = x := tget_tset_same ..
theorem part_setPart_other (s : State) {k j : Nat} (h : j ≠ k) (x : Partition) : (s.setPart k x).part j = s.part j := tget_tset_other _ _ h _
@[simp] theorem home_setHome (s : State) (k : Nat) (x : Home) : (s.setHome k x).home k = x := tget_tset_same ..
theorem home_setHome_other (s : State) {k j : Nat} (h : j ≠ k) (x : Home) : (s.setHome k x).home j = s.home j := tget_tset_other _ _ h _
@[simp] theorem slot_setSlot (s : State) (k : Nat) (x : Slot) : (s.setSlot k x).slot k = x := tget_tset_same ..
theorem slot_setSlot_other (s : State) {k j : Nat} (h : j ≠ k) (x : Slot) : (s.setSlot k x).slot j = s.slot j := tget_tset_other _ _ h _
@[simp] theorem die_setDie (s : State) (k : Nat) (x : Die) : (s.setDie k x).die k = x := tget_tset_same ..
theorem die_setDie_other (s : State) {k j : Nat} (h : j ≠ k) (x : Die) : (s.setDie k x).die j = s.die j := tget_tset_other _ _ h _
@[simp] theorem port_setPort (s : State) (k : Nat) (x : Port) : (s.setPort k x).port k = x := tget_tset_same ..
theorem port_setPort_other (s : State) {k j : Nat} (h : j ≠ k) (x : Port) : (s.setPort k x).port j = s.port j := tget_tset_other _ _ h _
@[simp] theorem sysCore_setSysCore (s : State) (k : Nat) (x : SysCore) : (s.setSysCore k x).sysCore k = x := tget_tset_same ..
theorem sysCore_setSysCore_other (s : State) {k j : Nat} (h : j ≠ k) (x : SysCore) : (s.setSysCore k x).sysCore j = s.sysCore j := tget_tset_other _ _ h _

/-- Putting back the issuing thread replaces it. -/
theorem setThread_cur (s : State) (th : Thread) (h : s.cur.id = th.id) : s.setThread th = { s with cur := th } := by
  simp [setThread, h]

@[simp] theorem thread?_cur (s : State) : s.thread? s.cur.id = some s.cur := by simp [thread?]

theorem onThread_cur (s : State) (f : Thread → Thread) (h : (f s.cur).id = s.cur.id) :
    s.onThread s.cur.id f = { s with cur := f s.cur } := by
  simp [onThread, setThread, h]

end State

end Sys2Proof.Machine
end

