-- ==== Sys2Proof/Laws/Canon.lean ====
section
/-! SUPPORT. Every operation of the machine keeps the canonical form of the memory of 00_scope R4: one lemma per function,
from the writes of single bytes up to the effect of every instruction. A function that answers a state, an option or a
result keeps it in every state that it answers. -/

namespace Sys2Proof.Machine

open State

set_option maxRecDepth 4000

theorem foldl_memWf {α : Type} (f : State → α → State) (l : List α) (hf : ∀ s x, s.mem.wf = true → (f s x).mem.wf = true)
    (s : State) (h : s.mem.wf = true) : (l.foldl f s).mem.wf = true := by
  induction l generalizing s with
  | nil => exact h
  | cons x l ih => exact ih _ (hf s x h)

/-- Every state that an answer carries has canonical memory. -/
def KeepsRes (r : Res State) : Prop :=
  (∀ t, r = .ok t → t.mem.wf = true) ∧ (∀ d a u t, r = .error (.park d a u t) → t.mem.wf = true) ∧
  (∀ t, r = .error (.parkWait t) → t.mem.wf = true)

/-- The answer carries no state of its own. -/
def Plain {α : Type} (r : Res α) : Prop :=
  (∀ d a u t, r ≠ .error (.park d a u t)) ∧ (∀ t, r ≠ .error (.parkWait t))

theorem check_plain (i : Instr) (f : Fields) (s : State) (th : Thread) : Plain (check i f s th) := by
  unfold check; (repeat' split) <;> simp [Plain, trap]

theorem preCheck_plain (s : State) (th : Thread) (b : BaseReg) (n : Need) (l : List (Nat × Nat)) :
    Plain (preCheck s th b n l) := by
  unfold preCheck; dsimp only; (repeat' split) <;> simp [Plain]

theorem engineCheck_plain (k : Kernel) (o : EngOpRec) : Plain (engineCheck k o) := by
  unfold engineCheck; dsimp only; (repeat' split) <;> simp [Plain]

theorem needTag_plain (b : Bool) : Plain (needTag b) := by grind [Plain, needTag, trap]

theorem needVar_plain (th : Thread) (bad : Nat → Bool) : Plain (needVar th bad) := by grind [Plain, needVar, trap]

theorem trap_plain {α : Type} (c : Nat) : Plain (trap c : Res α) := by grind [Plain, trap]

theorem momentBody_plain (f : Fields) (th : Thread) (srcs : List MReg) (g : Nat → Nat × Nat) :
    Plain (momentBody f th srcs g) := by
  unfold momentBody; grind [Plain, trap, needTag_plain, needVar_plain]

theorem floatBody1_plain (f : Fields) (tag : Tag) (op : Nat → Nat → Nat) (th : Thread) :
    Plain (floatBody1 f tag op th) := by
  unfold floatBody1; grind [Plain, trap, needTag_plain, needVar_plain]

theorem matrixOp_plain (op : EngOp) (pair : Bool) (packedA packedB : Nat) (f : Fields) (th : Thread) :
    Plain (matrixOp op pair packedA packedB f th) := by
  unfold matrixOp; grind [Plain, trap, needTag_plain, needVar_plain]

theorem okOr_memWf {e : Type} {r : Except e State} {s : State} (h : ∀ t,
    r = .ok t → t.mem.wf = true) (hs : s.mem.wf = true) :
    (match r with
      | .ok t => t
      | .error _ => s).mem.wf = true := by
  cases r with
  | ok t => exact h t rfl
  | error _ => exact hs

theorem foldl_keeps {α : Type} (f : State → α → State) (l : List α)
    (hf : ∀ s x, s.mem.wf = true → ∃ t, t = f s x ∧ t.mem.wf = true) (s : State) (h : s.mem.wf = true) :
    (l.foldl f s).mem.wf = true :=
  foldl_memWf f l (fun s x h => by obtain ⟨t, rfl, ht⟩ := hf s x h; exact ht) s h

theorem keeps_ok {s : State} (h : s.mem.wf = true) : KeepsRes (.ok s) := ⟨by rintro _ ⟨⟩; exact h, by simp, by simp⟩

theorem keeps_park {d a : Nat} {u : Mask} {s : State} (h : s.mem.wf = true) : KeepsRes (.error (.park d a u s)) :=
  ⟨by simp, by rintro _ _ _ _ ⟨⟩; exact h, by simp⟩

theorem keeps_wait (c : Cond) : KeepsRes (.error (.wait c)) := by simp [KeepsRes]

theorem keeps_trap (c d a : Nat) (u : Mask) : KeepsRes (.error (.trap c d a u)) := by simp [KeepsRes]

theorem keeps_error {α : Type} {e : Stop} (h : Plain (.error e : Res α)) : KeepsRes (.error e) :=
  ⟨by simp, by rintro d a u t ⟨⟩; exact absurd rfl (h.1 d a u t), by rintro t ⟨⟩; exact absurd rfl (h.2 t)⟩

theorem keeps_of_error {e : Stop} (h : KeepsRes (.error e)) : KeepsRes (.error e) := h

theorem keeps_ite {c : Prop} [Decidable c] {a b : Res State} (ha : KeepsRes a) (hb : KeepsRes b) :
    KeepsRes (if c then a else b) := by
  split <;> assumption

theorem of_ite_error {ε α : Type} {c : Prop} [Decidable c] {e : ε} {b : Except ε α} {x : α}
    (h : (if c then .error e else b) = .ok x) : b = .ok x := by
  split at h
  · cases h
  · exact h

theorem ite_memWf {c : Prop} [Decidable c] {a b : State} (ha : a.mem.wf = true) (hb : b.mem.wf = true) :
    (if c then a else b).mem.wf = true := by
  split <;> assumption

theorem foldl_fst_memWf {α β : Type} (f : State × β → α → State × β) (l : List α)
    (hf : ∀ r x, r.1.mem.wf = true → (f r x).1.mem.wf = true) (r : State × β) (h : r.1.mem.wf = true) :
    (l.foldl f r).1.mem.wf = true := by
  induction l generalizing r with
  | nil => exact h
  | cons x l ih => exact ih _ (hf r x h)

theorem setCore_memWf (s : State) (c : Nat) (k : Core) (hs : s.mem.wf = true) :
    (State.setCore s c k).mem.wf = true := by
  simp [State.setCore, *]

theorem lookup_memWf (s : State) (core : Nat) (p : Nat) (ctx : Nat) (va : Nat) (hs : s.mem.wf = true) :
    (lookup s core p ctx va).2.mem.wf = true := by
  grind [lookup, setCore_memWf]

theorem lookupFor_memWf (s : State) (th : Thread) (va : Nat) (hs : s.mem.wf = true) :
    (lookupFor s th va).2.mem.wf = true := by
  grind [lookupFor, lookup_memWf]

theorem translateFor_memWf (s : State) (th : Thread) (va : Nat) (perm : Perm) (hs : s.mem.wf = true) :
    (translateFor s th va perm).2.mem.wf = true := by
  grind [translateFor, lookupFor_memWf]

theorem locate_memWf (s : State) (th : Thread) (b : BaseReg) (n : Need) (pol : Nat) (lane : Nat) (off : Nat)
    (hs : s.mem.wf = true) :
    (locate s th b n pol lane off).2.mem.wf = true := by
  grind [locate, translateFor_memWf]

theorem locateAll_memWf (th : Thread) (b : BaseReg) (n : Need) (pol : Nat) (x4 : List (Nat × Nat)) (x5 : State)
    (x6 : List LaneAcc) (hx5 : x5.mem.wf = true) :
    (locateAll th b n pol x4 x5 x6).2.2.mem.wf = true := by
  fun_induction locateAll th b n pol x4 x5 x6 <;> grind [locate_memWf]

theorem resolve_memWf (s : State) (th : Thread) (b : BaseReg) (n : Need) (pol : Nat) (scalar : Bool)
    (lanes : List (Nat × Nat)) (h : s.mem.wf = true) (r : Resolved)
    (hr : resolve s th b n pol scalar lanes = .ok r) :
    r.st.mem.wf = true := by
  grind [resolve, locateAll_memWf, preCheck_plain]

theorem resolve_plain (s : State) (th : Thread) (b : BaseReg) (n : Need) (pol : Nat) (scalar : Bool)
    (lanes : List (Nat × Nat)) :
    Plain (resolve s th b n pol scalar lanes) := by
  grind [resolve, preCheck_plain, Plain]

theorem setThread_memWf (s : State) (th : Thread) (hs : s.mem.wf = true) :
    (State.setThread s th).mem.wf = true := by
  grind [State.setThread]

theorem onThread_memWf (s : State) (id : ThreadId) (f : Thread → Thread) (hs : s.mem.wf = true) :
    (State.onThread s id f).mem.wf = true := by
  grind [State.onThread, setThread_memWf]

theorem noteRead_memWf (s : State) (id : ThreadId) (wts : BitVec 16) (hs : s.mem.wf = true) :
    (noteRead s id wts).mem.wf = true := by
  simp [noteRead, *]

theorem setResv_memWf (s : State) (a : Access) (l : LaneAcc) (hs : s.mem.wf = true) :
    (setResv s a l).mem.wf = true := by
  grind [setResv, onThread_memWf]

theorem setAcc_memWf (s : State) (a : Access) (hs : s.mem.wf = true) : (State.setAcc s a).mem.wf = true := by
  simp [State.setAcc, *]

theorem stepLocal_memWf (s : State) (a : Access) (l : LaneAcc) (hs : s.mem.wf = true) :
    (stepLocal s a l).mem.wf = true := by
  grind [stepLocal, setAcc_memWf, setResv_memWf, setThread_memWf]

theorem readCopy_memWf (s : State) (a : Access) (y : Copy) (kept : Bool) (hs : s.mem.wf = true) :
    (readCopy s a y kept).mem.wf = true := by
  grind [readCopy, noteRead_memWf, setAcc_memWf, setResv_memWf]

theorem mapThreads_memWf (s : State) (f : Thread → Thread) (hs : s.mem.wf = true) :
    (State.mapThreads s f).mem.wf = true := by
  simp [State.mapThreads, *]

theorem breakResv_memWf (s : State) (c : Nat) (ln : Nat) (keep : Option ThreadId) (hs : s.mem.wf = true) :
    (breakResv s c ln keep).mem.wf = true := by
  simp [breakResv, *]

theorem putCopy_memWf (s : State) (c : Nat) (y : Copy) (hs : s.mem.wf = true) : (putCopy s c y).mem.wf = true := by
  simp [putCopy, *]

theorem breakHomeResv_memWf (s : State) (ln : Nat) (keep : Option ThreadId) (hs : s.mem.wf = true) :
    (breakHomeResv s ln keep).mem.wf = true := by
  simp [breakHomeResv, *]

theorem writeOwn_memWf (s : State) (a : Access) (l : LaneAcc) (y : Copy) (hs : s.mem.wf = true) :
    (writeOwn s a l y).mem.wf = true := by
  grind [writeOwn, breakResv_memWf, onThread_memWf, noteRead_memWf, setAcc_memWf, putCopy_memWf, breakHomeResv_memWf]

theorem push_memWf (s : State) (i : Instr) (hs : s.mem.wf = true) : (State.push s i).mem.wf = true := by
  simp [State.push, *]

theorem stepLoad_memWf (s : State) (a : Access) (l : LaneAcc) (hs : s.mem.wf = true) :
    (stepLoad s a l).1.mem.wf = true := by
  grind [stepLoad, readCopy_memWf, push_memWf]

theorem dropCopy_memWf (s : State) (c : Nat) (ln : Nat) (hs : s.mem.wf = true) :
    (dropCopy s c ln).mem.wf = true := by
  simp [dropCopy, *]

theorem dropLease_memWf (s : State) (c : Nat) (ln : Nat) (hs : s.mem.wf = true) :
    (dropLease s c ln).mem.wf = true := by
  grind [dropLease, dropCopy_memWf]

theorem stepWrite_memWf (s : State) (a : Access) (l : LaneAcc) (hs : s.mem.wf = true) :
    (stepWrite s a l).1.mem.wf = true := by
  grind [stepWrite, writeOwn_memWf, dropLease_memWf, onThread_memWf, setAcc_memWf, push_memWf]

theorem fresh_memWf (s : State) (hs : s.mem.wf = true) : (State.fresh s).2.mem.wf = true := by
  simp [State.fresh, *]

theorem sendHome_memWf (s : State) (c : Nat) (ln : Nat) (hs : s.mem.wf = true) :
    (sendHome s c ln).mem.wf = true := by
  grind [sendHome, breakResv_memWf, fresh_memWf, dropCopy_memWf]

theorem setHome_memWf (s : State) (h : Nat) (x : Home) (hs : s.mem.wf = true) :
    (State.setHome s h x).mem.wf = true := by
  simp [State.setHome, *]

theorem absorb_memWf (s : State) (ln : Nat) (core : Nat) (tokens : Nat) (data : Option (List Byte))
    (clock : BitVec 16) (hs : s.mem.wf = true) :
    (absorb s ln core tokens data clock).mem.wf = true := by
  unfold absorb; cases data <;> dsimp only <;> split <;> simp [hs, Memory.wf_writeBytes]

theorem stepMaintain_memWf (s : State) (a : Access) (l : LaneAcc) (hs : s.mem.wf = true) :
    (stepMaintain s a l).mem.wf = true := by
  grind [stepMaintain, setAcc_memWf, putCopy_memWf, sendHome_memWf, absorb_memWf]

theorem stepLine_memWf (s : State) (a : Access) (l : LaneAcc) (hs : s.mem.wf = true) :
    (stepLine s a l).1.mem.wf = true := by
  grind [stepLine, dropLease_memWf, stepWrite_memWf, stepMaintain_memWf, stepLoad_memWf, push_memWf]

theorem setLink_memWf (s : State) (l : LinkId) (x : Link) (hs : s.mem.wf = true) :
    (State.setLink s l x).mem.wf = true := by
  grind [State.setLink]

theorem sendFlit_memWf (s : State) (l : LinkId) (hs : s.mem.wf = true) : (sendFlit s l).mem.wf = true := by
  simp [sendFlit, *]

theorem sendCrossing_memWf (s : State) (d : Nat) (key : Nat) (hs : s.mem.wf = true) :
    (sendCrossing s d key).mem.wf = true := by
  unfold sendCrossing; (try dsimp only); (repeat' (first
    | assumption | split | (with_reducible refine foldl_memWf _ _ ?_ _ ?_; intro s x h)
    | with_reducible refine foldl_memWf _ _ ?_ _ ?_ | with_reducible apply sendFlit_memWf )) <;> grind [KeepsRes,
    sendFlit_memWf]

theorem stepLane_memWf (s : State) (a : Access) (l : LaneAcc) (hs : s.mem.wf = true) :
    (stepLane s a l).1.mem.wf = true := by
  grind [stepLane, sendCrossing_memWf, stepLocal_memWf, stepLine_memWf]

theorem setClock_memWf (s : State) (c : Nat) (x : BitVec 16) (hs : s.mem.wf = true) :
    (setClock s c x).mem.wf = true := by
  simp [setClock, *]

theorem raiseClock_memWf (s : State) (c : Nat) (x : BitVec 16) (hs : s.mem.wf = true) :
    (raiseClock s c x).mem.wf = true := by
  grind [raiseClock, setClock_memWf]

theorem jumpDone_memWf (s : State) (a : Access) (hs : s.mem.wf = true) : (jumpDone s a).mem.wf = true := by
  grind [jumpDone, raiseClock_memWf]

theorem discardLeases_memWf (s : State) (c : Nat) (keep : List Nat) (hs : s.mem.wf = true) :
    (discardLeases s c keep).mem.wf = true := by
  simp [discardLeases, *]

theorem acquireDone_memWf (s : State) (a : Access) (hs : s.mem.wf = true) : (acquireDone s a).mem.wf = true := by
  grind [acquireDone, onThread_memWf, raiseClock_memWf, discardLeases_memWf]

theorem dropAcc_memWf (s : State) (id : Nat) (hs : s.mem.wf = true) : (State.dropAcc s id).mem.wf = true := by
  simp [State.dropAcc, *]

theorem giveTokens_memWf (s : State) (c : Nat) (ln : Nat) (n : Nat) (hs : s.mem.wf = true) :
    (giveTokens s c ln n).mem.wf = true := by
  grind [giveTokens, breakResv_memWf, putCopy_memWf, dropCopy_memWf, absorb_memWf]

theorem gatherAll_memWf (s : State) (ln : Nat) (hs : s.mem.wf = true) : (gatherAll s ln).mem.wf = true := by
  unfold gatherAll; (try dsimp only); (repeat' (first
    | assumption | split | (with_reducible refine foldl_memWf _ _ ?_ _ ?_; intro s x h)
    | with_reducible refine foldl_memWf _ _ ?_ _ ?_ | with_reducible apply giveTokens_memWf )) <;> grind [KeepsRes,
    giveTokens_memWf]

theorem mergeAt_memWf (s : State) (c : Nat) (ln : Nat) (o : Nat) (bs : List Byte) (hs : s.mem.wf = true) :
    (mergeAt s c ln o bs).mem.wf = true := by
  grind [mergeAt, breakResv_memWf, putCopy_memWf, breakHomeResv_memWf]

theorem settle_memWf (s : State) (ln : Nat) (hs : s.mem.wf = true) : (settle s ln).mem.wf = true := by
  unfold settle; (try dsimp only); (repeat' (first
    | assumption | split | (with_reducible refine foldl_memWf _ _ ?_ _ ?_; intro s x h)
    | with_reducible refine foldl_memWf _ _ ?_ _ ?_ | with_reducible apply absorb_memWf )) <;> grind [KeepsRes,
    absorb_memWf]

theorem recallLine_memWf (s : State) (ln : Nat) (hs : s.mem.wf = true) : (recallLine s ln).mem.wf = true := by
  grind [recallLine, gatherAll_memWf, settle_memWf, setHome_memWf, breakHomeResv_memWf]

theorem ensureEntry_memWf (s : State) (ln : Nat) (hs : s.mem.wf = true) : (ensureEntry s ln).mem.wf = true := by
  grind [ensureEntry, recallLine_memWf, setHome_memWf]

theorem onEntry_memWf (s : State) (ln : Nat) (f : DirEntry → DirEntry) (hs : s.mem.wf = true) :
    (onEntry s ln f).mem.wf = true := by
  grind [onEntry, ensureEntry_memWf, setHome_memWf]

theorem opHome_memWf (s : State) (key : Nat) (n : Nat) (clock : Option (BitVec 16)) (keep : Option ThreadId)
    (f : Nat → Nat) (hs : s.mem.wf = true) :
    (opHome s key n clock keep f).1.mem.wf = true := by
  unfold opHome; dsimp only
  have h1 := breakHomeResv_memWf _ (key / 128) keep (ensureEntry_memWf _ (key / 128) (settle_memWf s (key / 128) hs))
  split
  · exact mergeAt_memWf _ _ _ _ _ (onEntry_memWf _ _ _ h1)
  · exact Memory.wf_writeNat _ _ _ _ (onEntry_memWf _ _ _ (gatherAll_memWf _ _ h1))

theorem writeHome_memWf (s : State) (key : Nat) (bs : List Byte) (clock : Option (BitVec 16))
    (hs : s.mem.wf = true) :
    (writeHome s key bs clock).1.mem.wf = true := by
  grind [writeHome, opHome_memWf]

theorem paWrite_memWf (s : State) (pa : Nat) (n : Nat) (x : Nat) (hs : s.mem.wf = true) :
    (paWrite s pa n x).mem.wf = true := by
  grind [paWrite, writeHome_memWf]

theorem writeCoupling_memWf (s : State) (k : Nat) (hs : s.mem.wf = true) : (writeCoupling s k).mem.wf = true := by
  grind [writeCoupling, paWrite_memWf]

theorem setLinkState_memWf (s : State) (l : LinkId) (st : LinkState) (g : Link → Link) (hs : s.mem.wf = true) :
    (setLinkState s l st g).mem.wf = true := by
  unfold setLinkState; (try dsimp only); (repeat' (first
    | assumption | split | (with_reducible refine foldl_memWf _ _ ?_ _ ?_; intro s x h)
    | with_reducible refine foldl_memWf _ _ ?_ _ ?_ | with_reducible apply writeCoupling_memWf
    | with_reducible apply setLink_memWf )) <;> grind [KeepsRes, writeCoupling_memWf, setLink_memWf]

theorem couplingEnable_memWf (s : State) (k : Nat) (hs : s.mem.wf = true) : (couplingEnable s k).mem.wf = true := by
  grind [couplingEnable, setLinkState_memWf]

theorem enableAgain_memWf (s : State) (key : Nat) (b : Byte) (hs : s.mem.wf = true) :
    (enableAgain s key b).mem.wf = true := by
  grind [enableAgain, couplingEnable_memWf]

theorem enableAgains_memWf (s : State) (key : Nat) (bs : List Byte) (hs : s.mem.wf = true) :
    (enableAgains s key bs).mem.wf = true := by
  unfold enableAgains; (try dsimp only); (repeat' (first
    | assumption | split | (with_reducible refine foldl_memWf _ _ ?_ _ ?_; intro s x h)
    | with_reducible refine foldl_memWf _ _ ?_ _ ?_ | with_reducible apply enableAgain_memWf )) <;> grind [KeepsRes,
    enableAgain_memWf]

theorem completeAccess_memWf (s0 : State) (a : Access) (hs0 : s0.mem.wf = true) :
    (completeAccess s0 a).mem.wf = true := by
  unfold completeAccess; (try dsimp only); (repeat' (first
    | assumption | split | (with_reducible refine foldl_memWf _ _ ?_ _ ?_; intro s x h)
    | with_reducible refine foldl_memWf _ _ ?_ _ ?_ | with_reducible apply dropAcc_memWf
    | with_reducible apply acquireDone_memWf | with_reducible apply enableAgains_memWf
    | with_reducible apply jumpDone_memWf | with_reducible apply push_memWf )) <;> grind [KeepsRes, dropAcc_memWf,
    acquireDone_memWf, enableAgains_memWf, jumpDone_memWf, push_memWf]

theorem runAccess_memWf (x0 : Nat) (x1 : State) (x2 : Nat) (hx1 : x1.mem.wf = true) :
    (runAccess x0 x1 x2).mem.wf = true := by
  fun_induction runAccess x0 x1 x2 <;> grind [completeAccess_memWf, stepLane_memWf]

theorem startFutures_memWf (s : State) (a : Access) (hs : s.mem.wf = true) : (startFutures s a).mem.wf = true := by
  unfold startFutures; (try dsimp only); (repeat' (first
    | assumption | split | (with_reducible refine foldl_memWf _ _ ?_ _ ?_; intro s x h)
    | with_reducible refine foldl_memWf _ _ ?_ _ ?_ | with_reducible apply sendCrossing_memWf
    | with_reducible apply runAccess_memWf | with_reducible apply completeAccess_memWf
    | with_reducible apply push_memWf )) <;> grind [KeepsRes, sendCrossing_memWf, runAccess_memWf,
    completeAccess_memWf, push_memWf]

theorem goOnFuture_memWf (s : State) (a : Access) (hs : s.mem.wf = true) : (goOnFuture s a).mem.wf = true := by
  grind [goOnFuture, completeAccess_memWf, startFutures_memWf]

theorem pumpList_memWf (id : ThreadId) (x1 : List Nat) (x2 : State) (hx2 : x2.mem.wf = true) :
    (pumpList id x1 x2).mem.wf = true := by
  fun_induction pumpList id x1 x2 <;> grind [runAccess_memWf, setAcc_memWf, startFutures_memWf]

theorem wakeTicket_memWf (s : State) (id : ThreadId) (hs : s.mem.wf = true) : (wakeTicket s id).mem.wf = true := by
  unfold wakeTicket; (try dsimp only); (repeat' (first
    | assumption | split | (with_reducible refine foldl_memWf _ _ ?_ _ ?_; intro s x h)
    | with_reducible refine foldl_memWf _ _ ?_ _ ?_ | with_reducible apply push_memWf )) <;> grind [KeepsRes, push_memWf]

theorem pump_memWf (s : State) (id : ThreadId) (hs : s.mem.wf = true) : (pump s id).mem.wf = true := by
  grind [pump, pumpList_memWf, wakeTicket_memWf]

theorem pushAll_memWf (s : State) (is : List Instr) (hs : s.mem.wf = true) :
    (State.pushAll s is).mem.wf = true := by
  simp [State.pushAll, *]

theorem resumeAll_memWf (s : State) (hs : s.mem.wf = true) : (resumeAll s).mem.wf = true := by
  unfold resumeAll; (try dsimp only); (repeat' (first
    | assumption | split | (with_reducible refine foldl_memWf _ _ ?_ _ ?_; intro s x h)
    | with_reducible refine foldl_memWf _ _ ?_ _ ?_ | with_reducible apply runAccess_memWf
    | with_reducible apply startFutures_memWf | with_reducible apply pushAll_memWf )) <;> grind [KeepsRes,
    runAccess_memWf, startFutures_memWf, pushAll_memWf]

theorem setDie_memWf (s : State) (d : Nat) (x : Die) (hs : s.mem.wf = true) :
    (State.setDie s d x).mem.wf = true := by
  simp [State.setDie, *]

theorem addShare_memWf (s : State) (c : Nat) (e : Nat) (n : Nat) (hs : s.mem.wf = true) :
    (addShare s c e n).mem.wf = true := by
  grind [addShare, setDie_memWf]

theorem countShares_memWf (s : State) (a : Access) (hs : s.mem.wf = true) : (countShares s a).mem.wf = true := by
  unfold countShares; (try dsimp only); (repeat' (first
    | assumption | split | (with_reducible refine foldl_memWf _ _ ?_ _ ?_; intro s x h)
    | with_reducible refine foldl_memWf _ _ ?_ _ ?_ | with_reducible apply addShare_memWf )) <;> grind [KeepsRes,
    addShare_memWf]

theorem enlist_memWf (s : State) (a0 : Access) (pend : List PReg) (hs : s.mem.wf = true) :
    (enlist s a0 pend).mem.wf = true := by
  grind [enlist, onThread_memWf, countShares_memWf]

theorem setPart_memWf (s : State) (p : Nat) (x : Partition) (hs : s.mem.wf = true) :
    (State.setPart s p x).mem.wf = true := by
  simp [State.setPart, *]

theorem setKernel_memWf (s : State) (p : Nat) (n : Nat) (k : Kernel) (hs : s.mem.wf = true) :
    (State.setKernel s p n k).mem.wf = true := by
  simp [State.setKernel, *]

theorem setTeam_memWf (s : State) (p : Nat) (kn : Nat) (t : Team) (hs : s.mem.wf = true) :
    (setTeam s p kn t).mem.wf = true := by
  grind [setTeam, setKernel_memWf]

theorem releaseIfFull_memWf (s : State) (p : Nat) (kn : Nat) (t : Team) (hs : s.mem.wf = true) :
    (releaseIfFull s p kn t).mem.wf = true := by
  grind [releaseIfFull, push_memWf, setTeam_memWf]

theorem setQueue_memWf (s : State) (q : Queue) (hs : s.mem.wf = true) : (State.setQueue s q).mem.wf = true := by
  grind [State.setQueue]

theorem hwWrite_memWf (s : State) (p : Nat) (ctx : Nat) (k : Kernel) (va : Nat) (n : Nat) (x : Nat)
    (hs : s.mem.wf = true) :
    ∀ σ, hwWrite s p ctx k va n x = .ok σ → σ.mem.wf = true := by
  grind [hwWrite, writeHome_memWf]

theorem hwWriteList_memWf (s : State) (p : Nat) (ctx : Nat) (k : Kernel) (va : Nat) (n : Nat) (x6 : List Nat)
    (hs : s.mem.wf = true) :
    ∀ σ, hwWriteList s p ctx k va n x6 = .ok σ → σ.mem.wf = true := by
  fun_induction hwWriteList s p ctx k va n x6 <;> grind [hwWrite_memWf]

theorem hwPut_memWf (s : State) (p : Nat) (a : Nat) (n : Nat) (vs : List Nat) (hs : s.mem.wf = true) :
    (hwPut s p a n vs).mem.wf = true := by
  grind [hwPut, hwWriteList_memWf]

theorem swapOut_memWf (s : State) (q0 : Queue) (hs : s.mem.wf = true) : (swapOut s q0).mem.wf = true := by
  unfold swapOut; extract_lets q; split
  · exact hs
  · rw [setQueue_mem]
    exact foldl_memWf _ _ (fun s l h => hwPut_memWf _ _ _ _ _ (hwPut_memWf _ _ _ _ _ h)) _
      (foldl_memWf _ _ (fun s l h => paWrite_memWf _ _ _ _ (paWrite_memWf _ _ _ _ h)) _ hs)

theorem storeQueue_memWf (s : State) (q : Queue) (hs : s.mem.wf = true) : (storeQueue s q).mem.wf = true := by
  grind [storeQueue, setQueue_memWf, swapOut_memWf]

theorem makeRoom_memWf (s : State) (u : Nat) (hs : s.mem.wf = true) :
    ∀ σ, makeRoom s u = some σ → σ.mem.wf = true := by
  grind [makeRoom, swapOut_memWf]

theorem unswapFor_memWf (s : State) (q : Queue) (hs : s.mem.wf = true) : (unswapFor s q).1.mem.wf = true := by
  grind [unswapFor, setQueue_memWf, makeRoom_memWf]

theorem acquireSide_memWf (s : State) (id : ThreadId) (hs : s.mem.wf = true) :
    (acquireSide s id).mem.wf = true := by
  grind [acquireSide, discardLeases_memWf]

theorem deliver_memWf (s : State) (q : Queue) (id : ThreadId) (d : Nat) (ws : List Word) (hs : s.mem.wf = true) :
    (deliver s q id d ws).mem.wf = true := by
  grind [deliver, onThread_memWf, storeQueue_memWf, acquireSide_memWf]

theorem serveWaiters_memWf (x0 : Nat) (x1 : State) (x2 : QueueId) (hx1 : x1.mem.wf = true) :
    (serveWaiters x0 x1 x2).mem.wf = true := by
  fun_induction serveWaiters x0 x1 x2 <;> grind [onThread_memWf, unswapFor_memWf, deliver_memWf]

theorem answerAll_memWf (s : State) (q : Queue) (code : Nat) (hs : s.mem.wf = true) :
    (answerAll s q code).mem.wf = true := by
  unfold answerAll; (try dsimp only); (repeat' (first
    | assumption | split | (with_reducible refine foldl_memWf _ _ ?_ _ ?_; intro s x h)
    | with_reducible refine foldl_memWf _ _ ?_ _ ?_ | with_reducible apply setQueue_memWf
    | with_reducible apply onThread_memWf )) <;> grind [KeepsRes, setQueue_memWf, onThread_memWf]

theorem drainCheck_memWf (s : State) (id : QueueId) (hs : s.mem.wf = true) : (drainCheck s id).mem.wf = true := by
  grind [drainCheck, setQueue_memWf, answerAll_memWf]

theorem serve_memWf (s : State) (id : QueueId) (hs : s.mem.wf = true) : (serve s id).mem.wf = true := by
  grind [serve, serveWaiters_memWf, drainCheck_memWf]

theorem pushCart_memWf (s : State) (q0 : Queue) (ws : List Word) (level : Nat) (hs : s.mem.wf = true) :
    (pushCart s q0 ws level).2.mem.wf = true := by
  grind [pushCart, storeQueue_memWf, serve_memWf]

theorem offerTrapCart_memWf (s : State) (p : Nat) (ctx : Nat) (ws : List Word) (hs : s.mem.wf = true) :
    ∀ σ, offerTrapCart s p ctx ws = some σ → σ.mem.wf = true := by
  grind [offerTrapCart, pushCart_memWf]

theorem sendTrapCart_memWf (s : State) (id : ThreadId) (ws : List Word) (hs : s.mem.wf = true) :
    (sendTrapCart s id ws).mem.wf = true := by
  intros; unfold sendTrapCart at *; (try dsimp only at *); (repeat' split at *) <;> grind [KeepsRes,
    offerTrapCart_memWf, setThread_memWf]

theorem raiseCart_memWf (s : State) (id : ThreadId) (object : TrapObject) (head : Nat) (code : Nat)
    (detail : Nat) (iaddr : Nat) (daddr : Nat) (lanes : Nat) (hs : s.mem.wf = true) :
    (raiseCart s id object head code detail iaddr daddr lanes).mem.wf = true := by
  grind [raiseCart, sendTrapCart_memWf, setThread_memWf]

theorem breakOwnResv_memWf (s : State) (id : ThreadId) (hs : s.mem.wf = true) :
    (breakOwnResv s id).mem.wf = true := by
  simp [breakOwnResv, *]

theorem setSysCore_memWf (s : State) (k : Nat) (c : SysCore) (hs : s.mem.wf = true) :
    (State.setSysCore s k c).mem.wf = true := by
  simp [State.setSysCore, *]

theorem enterTrap_memWf (s : State) (k : Nat) (code : Nat) (detail : Nat) (daddr : Nat) (epc : DWord)
    (call : Bool) (hs : s.mem.wf = true) :
    (enterTrap s k code detail daddr epc call).mem.wf = true := by
  grind [enterTrap, onThread_memWf, breakOwnResv_memWf, setSysCore_memWf]

theorem takeTrap_memWf (s : State) (id : ThreadId) (code : Nat) (detail : Nat) (daddr : Nat) (lanes : Mask)
    (hs : s.mem.wf = true) :
    (takeTrap s id code detail daddr lanes).mem.wf = true := by
  unfold takeTrap; (try dsimp only); (repeat' (first
    | assumption | split | (with_reducible refine foldl_memWf _ _ ?_ _ ?_; intro s x h)
    | with_reducible refine foldl_memWf _ _ ?_ _ ?_ | with_reducible apply raiseCart_memWf
    | with_reducible apply enterTrap_memWf | with_reducible apply breakOwnResv_memWf
    | with_reducible apply setThread_memWf )) <;> grind [KeepsRes, raiseCart_memWf, enterTrap_memWf,
    breakOwnResv_memWf, setThread_memWf]

theorem arriveAt_memWf (s : State) (id : ThreadId) (n : Nat) (hs : s.mem.wf = true) :
    (arriveAt s id n).mem.wf = true := by
  unfold arriveAt; (try dsimp only); (repeat' (first
    | assumption | split | (with_reducible refine foldl_memWf _ _ ?_ _ ?_; intro s x h)
    | with_reducible refine foldl_memWf _ _ ?_ _ ?_ | with_reducible apply takeTrap_memWf
    | with_reducible apply releaseIfFull_memWf | with_reducible apply setThread_memWf )) <;> grind [KeepsRes,
    takeTrap_memWf, releaseIfFull_memWf, setThread_memWf]

theorem retireAt_memWf (s : State) (id : ThreadId) (n : Nat) (hs : s.mem.wf = true) :
    (retireAt s id n).mem.wf = true := by
  unfold retireAt; (try dsimp only); (repeat' (first
    | assumption | split | (with_reducible refine foldl_memWf _ _ ?_ _ ?_; intro s x h)
    | with_reducible refine foldl_memWf _ _ ?_ _ ?_ | with_reducible apply releaseIfFull_memWf )) <;> grind [KeepsRes,
    releaseIfFull_memWf]

theorem leave_memWf (s : State) (id : ThreadId) (n : Nat) (hs : s.mem.wf = true) :
    (leave s id n).mem.wf = true := by
  grind [leave, setThread_memWf, acquireSide_memWf]

theorem leaveAll_memWf (s : State) (p : Nat) (kn : Nat) (n : Nat) (hs : s.mem.wf = true) :
    (leaveAll s p kn n).mem.wf = true := by
  unfold leaveAll; (try dsimp only); (repeat' (first
    | assumption | split | (with_reducible refine foldl_memWf _ _ ?_ _ ?_; intro s x h)
    | with_reducible refine foldl_memWf _ _ ?_ _ ?_ | with_reducible apply leave_memWf
    | with_reducible apply setTeam_memWf )) <;> grind [KeepsRes, leave_memWf, setTeam_memWf]

theorem execBarrierArrival_memWf (th : ThreadId) (team : Nat) (s : State) (hs : s.mem.wf = true) :
    ∀ σ, execBarrierArrival th team s = .next σ → σ.mem.wf = true := by
  grind [execBarrierArrival, arriveAt_memWf]

theorem execBarrierRetirement_memWf (th : ThreadId) (team : Nat) (s : State) (hs : s.mem.wf = true) :
    ∀ σ, execBarrierRetirement th team s = .next σ → σ.mem.wf = true := by
  grind [execBarrierRetirement, retireAt_memWf]

theorem execBarrierLeave_memWf (part : Nat) (kern : Nat) (team : Nat) (s : State) (hs : s.mem.wf = true) :
    ∀ σ, execBarrierLeave part kern team s = .next σ → σ.mem.wf = true := by
  grind [execBarrierLeave, leaveAll_memWf]

theorem takePark_memWf (s : State) (id : ThreadId) (detail : Nat) (daddr : Nat) (u : Mask)
    (hs : s.mem.wf = true) :
    (takePark s id detail daddr u).mem.wf = true := by
  unfold takePark; (try dsimp only); (repeat' (first
    | assumption | split | (with_reducible refine foldl_memWf _ _ ?_ _ ?_; intro s x h)
    | with_reducible refine foldl_memWf _ _ ?_ _ ?_ | with_reducible apply raiseCart_memWf
    | with_reducible apply takeTrap_memWf | with_reducible apply breakOwnResv_memWf
    | with_reducible apply setThread_memWf )) <;> grind [KeepsRes, raiseCart_memWf, takeTrap_memWf, breakOwnResv_memWf,
    setThread_memWf]

theorem stall_memWf (s : State) (id : ThreadId) (c : Cond) (hs : s.mem.wf = true) :
    (stall s id c).mem.wf = true := by
  simp [stall, *]

theorem conclude_memWf (s : State) (id : ThreadId) (r : Res State) (hs : s.mem.wf = true) (hr : KeepsRes r) :
    ∀ σ, conclude s id r = .next σ → σ.mem.wf = true := by
  unfold conclude; (try dsimp only); (repeat' (first
    | assumption | split | (with_reducible refine foldl_memWf _ _ ?_ _ ?_; intro s x h)
    | with_reducible refine foldl_memWf _ _ ?_ _ ?_ | with_reducible apply takeTrap_memWf
    | with_reducible apply takePark_memWf | with_reducible apply stall_memWf )) <;> grind [KeepsRes, takeTrap_memWf,
    takePark_memWf, stall_memWf]

theorem control_memWf (i : Instr) (f : Fields) (body : State → Thread → Res State) (s : State)
    (hbody : ∀ t th, t.mem.wf = true → KeepsRes (body t th)) (hs : s.mem.wf = true) :
    ∀ σ, control i f body s = .next σ → σ.mem.wf = true := by
  unfold control; refine conclude_memWf _ _ _ hs ?_
  have := check_plain i f s s.cur
  have := hbody s s.cur.opened hs
  split
  · rename_i e he; exact ⟨by simp, by grind [Plain], by grind [Plain]⟩
  · assumption

theorem arrival_memWf (i : Instr) (f : Fields) (wait : Bool) (s : State) (hs : s.mem.wf = true) :
    ∀ σ, arrival i f wait s = .next σ → σ.mem.wf = true := by
  unfold arrival; (try dsimp only); (repeat' (first
    | assumption | split | (with_reducible refine foldl_memWf _ _ ?_ _ ?_; intro s x h)
    | with_reducible refine foldl_memWf _ _ ?_ _ ?_ | with_reducible apply push_memWf
    | with_reducible apply setThread_memWf | with_reducible apply control_memWf )) <;> grind [KeepsRes, push_memWf,
    setThread_memWf, control_memWf]

theorem execBar_memWf (f : Fields) (s : State) (hs : s.mem.wf = true) :
    ∀ σ, execBar f s = .next σ → σ.mem.wf = true := by
  grind [execBar, arrival_memWf]

theorem execBarv_memWf (f : Fields) (s : State) (hs : s.mem.wf = true) :
    ∀ σ, execBarv f s = .next σ → σ.mem.wf = true := by
  grind [execBarv, arrival_memWf]

theorem finish_memWf (s : State) (th : Thread) (before : Thread) (f : Fields) (v : Value) (hs : s.mem.wf = true) :
    (finish s th before f v).mem.wf = true := by
  simp [finish, *]

theorem execBarw_memWf (f : Fields) (s : State) (hs : s.mem.wf = true) :
    ∀ σ, execBarw f s = .next σ → σ.mem.wf = true := by
  unfold execBarw; (try dsimp only); (repeat' (first
    | assumption | split | (with_reducible refine foldl_memWf _ _ ?_ _ ?_; intro s x h)
    | with_reducible refine foldl_memWf _ _ ?_ _ ?_ | with_reducible apply leave_memWf
    | with_reducible apply onThread_memWf | with_reducible apply finish_memWf | with_reducible apply setTeam_memWf
    | with_reducible apply control_memWf )) <;> grind [KeepsRes, leave_memWf, onThread_memWf, finish_memWf,
    setTeam_memWf, control_memWf]

theorem execTmq_memWf (f : Fields) (s : State) (hs : s.mem.wf = true) :
    ∀ σ, execTmq f s = .next σ → σ.mem.wf = true := by
  unfold execTmq; (try dsimp only); (repeat' (first
    | assumption | split | (with_reducible refine foldl_memWf _ _ ?_ _ ?_; intro s x h)
    | with_reducible refine foldl_memWf _ _ ?_ _ ?_ | with_reducible apply finish_memWf
    | with_reducible apply control_memWf )) <;> grind [KeepsRes, finish_memWf, control_memWf]

theorem setPort_memWf (s : State) (h : Nat) (x : Port) (hs : s.mem.wf = true) :
    (State.setPort s h x).mem.wf = true := by
  simp [State.setPort, *]

theorem onCopies_memWf (s : State) (g : Option Nat → GtCopy → GtCopy) (hs : s.mem.wf = true) :
    (onCopies s g).mem.wf = true := by
  unfold onCopies; dsimp only
  repeat refine foldl_memWf _ _ (fun s x h => by simpa using h) _ ?_
  exact hs

theorem gtSyncSend_memWf (s : State) (hs : s.mem.wf = true) : (gtSyncSend s).mem.wf = true := by
  grind [gtSyncSend, onCopies_memWf]

theorem execGtSyncSend_memWf (s : State) (hs : s.mem.wf = true) :
    ∀ σ, execGtSyncSend s = .next σ → σ.mem.wf = true := by
  grind [execGtSyncSend, gtSyncSend_memWf]

theorem setRate_memWf (s : State) (rate : Int) (hs : s.mem.wf = true) : (setRate s rate).mem.wf = true := by
  grind [setRate, onCopies_memWf]

theorem timeBlockPoll_memWf (s : State) (hs : s.mem.wf = true) : (timeBlockPoll s).mem.wf = true := by
  intros; unfold timeBlockPoll at *; (try dsimp only at *); (repeat' split at *) <;> grind [KeepsRes, paWrite_memWf,
    setRate_memWf]

theorem execTimeBlockPoll_memWf (s : State) (hs : s.mem.wf = true) :
    ∀ σ, execTimeBlockPoll s = .next σ → σ.mem.wf = true := by
  grind [execTimeBlockPoll, timeBlockPoll_memWf]

theorem recallRange_memWf (s : State) (key : Nat) (n : Nat) (hs : s.mem.wf = true) :
    (recallRange s key n).mem.wf = true := by
  unfold recallRange; (try dsimp only); (repeat' (first
    | assumption | split | (with_reducible refine foldl_memWf _ _ ?_ _ ?_; intro s x h)
    | with_reducible refine foldl_memWf _ _ ?_ _ ?_ | with_reducible apply recallLine_memWf )) <;> grind [KeepsRes,
    recallLine_memWf]

theorem poolWrite_memWf (s : State) (key : Nat) (bs : List Byte) (hs : s.mem.wf = true) :
    (poolWrite s key bs).mem.wf = true := by
  exact Memory.wf_writeBytes _ _ _ (recallRange_memWf _ _ _ hs)

theorem stagedWrite_memWf (s : State) (id : ThreadId) (e : Staged) (old : Nat) (hs : s.mem.wf = true) :
    (stagedWrite s id e old).mem.wf = true := by
  grind [stagedWrite, poolWrite_memWf, setThread_memWf]

theorem discardStaged_memWf (s : State) (p : Nat) (kn : Nat) (gid : Nat) (since : Nat) (hs : s.mem.wf = true) :
    (discardStaged s p kn gid since).mem.wf = true := by
  unfold discardStaged; (try dsimp only); (repeat' (first
    | assumption | split | (with_reducible refine foldl_memWf _ _ ?_ _ ?_; intro s x h)
    | with_reducible refine foldl_memWf _ _ ?_ _ ?_ | with_reducible apply stagedWrite_memWf
    | with_reducible apply setKernel_memWf )) <;> grind [KeepsRes, stagedWrite_memWf, setKernel_memWf]

theorem withdrawPops_memWf (s : State) (id : ThreadId) (hs : s.mem.wf = true) :
    (withdrawPops s id).mem.wf = true := by
  simp [withdrawPops, *]

theorem releaseStream_memWf (s : State) (id : ThreadId) (hs : s.mem.wf = true) :
    (releaseStream s id).mem.wf = true := by
  grind [releaseStream, setQueue_memWf, serve_memWf, setThread_memWf]

theorem setService_memWf (s : State) (ln : Nat) (v : Option Service) (hs : s.mem.wf = true) :
    (setService s ln v).mem.wf = true := by
  simp [setService, *]

theorem endService_memWf (s : State) (ln : Nat) (hs : s.mem.wf = true) : (endService s ln).mem.wf = true := by
  grind [endService, setService_memWf]

theorem endServiceOf_memWf (s : State) (acc : Nat) (hs : s.mem.wf = true) : (endServiceOf s acc).mem.wf = true := by
  unfold endServiceOf; (try dsimp only); (repeat' (first
    | assumption | split | (with_reducible refine foldl_memWf _ _ ?_ _ ?_; intro s x h)
    | with_reducible refine foldl_memWf _ _ ?_ _ ?_ | with_reducible apply endService_memWf )) <;> grind [KeepsRes,
    endService_memWf]

theorem discardWaiting_memWf (s : State) (id : ThreadId) (hs : s.mem.wf = true) :
    (discardWaiting s id).mem.wf = true := by
  unfold discardWaiting; (try dsimp only); (repeat' (first
    | assumption | split | (with_reducible refine foldl_memWf _ _ ?_ _ ?_; intro s x h)
    | with_reducible refine foldl_memWf _ _ ?_ _ ?_ | with_reducible apply pump_memWf
    | with_reducible apply endServiceOf_memWf )) <;> grind [KeepsRes, pump_memWf, endServiceOf_memWf]

theorem withdrawFutures_memWf (s : State) (id : ThreadId) (hs : s.mem.wf = true) :
    (withdrawFutures s id).mem.wf = true := by
  unfold withdrawFutures; (try dsimp only); (repeat' (first
    | assumption | split | (with_reducible refine foldl_memWf _ _ ?_ _ ?_; intro s x h)
    | with_reducible refine foldl_memWf _ _ ?_ _ ?_ | with_reducible apply setAcc_memWf
    | with_reducible apply completeAccess_memWf )) <;> grind [KeepsRes, setAcc_memWf, completeAccess_memWf]

theorem closeBlock_memWf (s : State) (th : Thread) (hs : s.mem.wf = true) : (closeBlock s th).mem.wf = true := by
  grind [closeBlock, onThread_memWf, setKernel_memWf]

theorem endCheck_memWf (s : State) (p : Nat) (kn : Nat) (hs : s.mem.wf = true) :
    (endCheck s p kn).mem.wf = true := by
  grind [endCheck, push_memWf]

theorem noticeRetirement_memWf (s : State) (id : ThreadId) (hs : s.mem.wf = true) :
    (noticeRetirement s id).mem.wf = true := by
  unfold noticeRetirement; (try dsimp only); (repeat' (first
    | assumption | split | (with_reducible refine foldl_memWf _ _ ?_ _ ?_; intro s x h)
    | with_reducible refine foldl_memWf _ _ ?_ _ ?_ | with_reducible apply pushAll_memWf )) <;> grind [KeepsRes,
    pushAll_memWf]

theorem advanceCt_memWf (s : State) (p : Nat) (kn : Nat) (hs : s.mem.wf = true) :
    (advanceCt s p kn).mem.wf = true := by
  grind [advanceCt, setKernel_memWf, push_memWf]

theorem afterRetirement_memWf (s : State) (id : ThreadId) (hs : s.mem.wf = true) :
    (afterRetirement s id).mem.wf = true := by
  unfold afterRetirement; (try dsimp only); (repeat' (first
    | assumption | split | (with_reducible refine foldl_memWf _ _ ?_ _ ?_; intro s x h)
    | with_reducible refine foldl_memWf _ _ ?_ _ ?_ | with_reducible apply endCheck_memWf
    | with_reducible apply noticeRetirement_memWf | with_reducible apply advanceCt_memWf )) <;> grind [KeepsRes,
    endCheck_memWf, noticeRetirement_memWf, advanceCt_memWf]

theorem cancelEngines_memWf (s : State) (th : Thread) (hs : s.mem.wf = true) :
    (cancelEngines s th).mem.wf = true := by
  simp [cancelEngines, *]

theorem becomeRetired_memWf (s : State) (id : ThreadId) (hs : s.mem.wf = true) :
    (becomeRetired s id).mem.wf = true := by
  simp [becomeRetired, *]

theorem killGroup_memWf (s : State) (id : ThreadId) (hs : s.mem.wf = true) : (killGroup s id).mem.wf = true := by
  grind [killGroup, discardStaged_memWf, withdrawPops_memWf, onThread_memWf, releaseStream_memWf, discardWaiting_memWf,
    withdrawFutures_memWf, closeBlock_memWf, afterRetirement_memWf, cancelEngines_memWf, becomeRetired_memWf]

theorem answerGroup_memWf (s : State) (th : Thread) (r : TrapRec) (act : Answer) (hs : s.mem.wf = true) :
    ∀ σ, answerGroup s th r act = some σ → σ.mem.wf = true := by
  grind [answerGroup, setThread_memWf, killGroup_memWf]

theorem setEngOp_memWf (s : State) (core : Nat) (e : EngineSel) (o : EngOpRec) (hs : s.mem.wf = true) :
    (setEngOp s core e o).mem.wf = true := by
  simp [setEngOp, *]

theorem answerEngine_memWf (s : State) (th : Thread) (r : TrapRec) (n : Nat) (act : Answer)
    (hs : s.mem.wf = true) :
    ∀ σ, answerEngine s th r n act = some σ → σ.mem.wf = true := by
  grind [answerEngine, push_memWf, setThread_memWf, setEngOp_memWf, killGroup_memWf]

theorem dropStaged_memWf (s : State) (p : Nat) (kn : Nat) (serial : Nat) (hs : s.mem.wf = true) :
    (dropStaged s p kn serial).mem.wf = true := by
  grind [dropStaged, setKernel_memWf]

theorem answerStaged_memWf (s : State) (th : Thread) (p : Nat) (kn : Nat) (r : TrapRec) (n : Nat) (act : Answer)
    (hs : s.mem.wf = true) :
    ∀ σ, answerStaged s th p kn r n act = some σ → σ.mem.wf = true := by
  unfold answerStaged; (try dsimp only); (repeat' (first
    | assumption | split | (with_reducible refine foldl_memWf _ _ ?_ _ ?_; intro s x h)
    | with_reducible refine foldl_memWf _ _ ?_ _ ?_ | with_reducible apply discardStaged_memWf
    | with_reducible apply stagedWrite_memWf | with_reducible apply dropStaged_memWf
    | with_reducible apply pump_memWf | with_reducible apply setKernel_memWf | with_reducible apply endCheck_memWf
    | with_reducible apply push_memWf | with_reducible apply advanceCt_memWf | with_reducible apply setThread_memWf
    | with_reducible apply killGroup_memWf )) <;> grind [KeepsRes, discardStaged_memWf, stagedWrite_memWf,
    dropStaged_memWf, pump_memWf, setKernel_memWf, endCheck_memWf, push_memWf, advanceCt_memWf, setThread_memWf,
    killGroup_memWf]

theorem answerTrap_memWf (s : State) (p : Nat) (ticket : Nat) (act : Answer) (hs : s.mem.wf = true) :
    (answerTrap s p ticket act).2.mem.wf = true := by
  grind [answerTrap, answerGroup_memWf, answerEngine_memWf, answerStaged_memWf]

theorem syscAnswer_memWf (i : Instr) (f : Fields) (act : Answer) (s : State) (hs : s.mem.wf = true) :
    ∀ σ, syscAnswer i f act s = .next σ → σ.mem.wf = true := by
  unfold syscAnswer; (try dsimp only); (repeat' (first
    | assumption | split | (with_reducible refine foldl_memWf _ _ ?_ _ ?_; intro s x h)
    | with_reducible refine foldl_memWf _ _ ?_ _ ?_ | with_reducible apply finish_memWf
    | with_reducible apply answerTrap_memWf | with_reducible apply control_memWf )) <;> grind [KeepsRes, finish_memWf,
    answerTrap_memWf, control_memWf]

theorem execSyscResume_memWf (f : Fields) (s : State) (hs : s.mem.wf = true) :
    ∀ σ, execSyscResume f s = .next σ → σ.mem.wf = true := by
  grind [execSyscResume, syscAnswer_memWf]

theorem execSyscSkip_memWf (f : Fields) (s : State) (hs : s.mem.wf = true) :
    ∀ σ, execSyscSkip f s = .next σ → σ.mem.wf = true := by
  grind [execSyscSkip, syscAnswer_memWf]

theorem execSyscAbandon_memWf (f : Fields) (s : State) (hs : s.mem.wf = true) :
    ∀ σ, execSyscAbandon f s = .next σ → σ.mem.wf = true := by
  grind [execSyscAbandon, syscAnswer_memWf]

theorem execSyscCall_memWf (f : Fields) (s : State) (hs : s.mem.wf = true) :
    ∀ σ, execSyscCall f s = .next σ → σ.mem.wf = true := by
  grind [execSyscCall, Plain, KeepsRes, check_plain, preCheck_plain, engineCheck_plain, needTag_plain, needVar_plain,
    momentBody_plain, floatBody1_plain, matrixOp_plain, trap, enterTrap_memWf, control_memWf]

theorem returnFromTrap_memWf (s : State) (k : Nat) (hs : s.mem.wf = true) : KeepsRes (returnFromTrap s k) := by
  grind [returnFromTrap, Plain, KeepsRes, check_plain, preCheck_plain, engineCheck_plain, needTag_plain, needVar_plain,
    momentBody_plain, floatBody1_plain, matrixOp_plain, trap, onThread_memWf, setSysCore_memWf]

theorem execEret_memWf (f : Fields) (s : State) (hs : s.mem.wf = true) :
    ∀ σ, execEret f s = .next σ → σ.mem.wf = true := by
  grind [execEret, Plain, KeepsRes, check_plain, preCheck_plain, engineCheck_plain, needTag_plain, needVar_plain,
    momentBody_plain, floatBody1_plain, matrixOp_plain, trap, returnFromTrap_memWf, onThread_memWf, control_memWf]

theorem requestPreempt_memWf (s : State) (id : ThreadId) (hs : s.mem.wf = true) :
    (requestPreempt s id).mem.wf = true := by
  grind [requestPreempt, withdrawPops_memWf, withdrawFutures_memWf, breakOwnResv_memWf, setThread_memWf]

theorem writeSaveArea_memWf (s : State) (th : Thread) (hs : s.mem.wf = true) :
    (writeSaveArea s th).mem.wf = true := by
  unfold writeSaveArea; (try dsimp only); (repeat' (first
    | assumption | split | (with_reducible refine foldl_memWf _ _ ?_ _ ?_; intro s x h)
    | with_reducible refine foldl_memWf _ _ ?_ _ ?_ | with_reducible apply poolWrite_memWf )) <;> grind [KeepsRes,
    poolWrite_memWf]

theorem saveGroup_memWf (s : State) (th : Thread) (hs : s.mem.wf = true) : (saveGroup s th).mem.wf = true := by
  grind [saveGroup, writeSaveArea_memWf, setThread_memWf]

theorem answerCtxs_memWf (s : State) (target : ThreadId) (code : Nat) (hs : s.mem.wf = true) :
    (answerCtxs s target code).mem.wf = true := by
  grind [answerCtxs, mapThreads_memWf]

theorem enterRestored_memWf (s : State) (th : Thread) (hs : s.mem.wf = true) :
    (enterRestored s th).mem.wf = true := by
  grind [enterRestored, setQueue_memWf, setThread_memWf]

theorem drawCode_memWf (s : State) (prev : BitVec 24) (hs : s.mem.wf = true) :
    (State.drawCode s prev).2.mem.wf = true := by
  simp [State.drawCode, *]

theorem redrawTeams_memWf (g : Nat) (x1 : List Team) (x2 : State) (hx2 : x2.mem.wf = true) :
    (redrawTeams g x1 x2).2.mem.wf = true := by
  fun_induction redrawTeams g x1 x2 <;> grind [drawCode_memWf]

theorem notePromoted_memWf (s : State) (p : Nat) (hs : s.mem.wf = true) : (notePromoted s p).mem.wf = true := by
  simp [notePromoted, *]

theorem reloadSaveArea_memWf (s : State) (th : Thread) (hs : s.mem.wf = true) :
    (reloadSaveArea s th).1.mem.wf = true := by
  unfold reloadSaveArea; (try dsimp only); (repeat' (first
    | assumption | split | (with_reducible refine foldl_memWf _ _ ?_ _ ?_; intro s x h)
    | with_reducible refine foldl_memWf _ _ ?_ _ ?_ | with_reducible apply recallRange_memWf )) <;> grind [KeepsRes,
    recallRange_memWf]

theorem rerunCancelled_memWf (s : State) (id : ThreadId) (hs : s.mem.wf = true) :
    (rerunCancelled s id).mem.wf = true := by
  grind [rerunCancelled, setCore_memWf, setThread_memWf]

theorem restoreGroup_memWf (s : State) (p : Nat) (kn : Nat) (g : Nat) (core : Nat) (hs : s.mem.wf = true) :
    ∀ σ, restoreGroup s p kn g core = some σ → σ.mem.wf = true := by
  grind [restoreGroup, notePromoted_memWf, enterRestored_memWf, reloadSaveArea_memWf, setKernel_memWf,
    rerunCancelled_memWf, redrawTeams_memWf, discardLeases_memWf, setThread_memWf, acquireSide_memWf]

theorem restoreOn_memWf (s : State) (p : Nat) (kn : Nat) (g : Nat) (x4 : List Nat) (hs : s.mem.wf = true) :
    (restoreOn s p kn g x4).mem.wf = true := by
  fun_induction restoreOn s p kn g x4 <;> grind [restoreGroup_memWf]

theorem preemptSave_memWf (s : State) (id : ThreadId) (hs : s.mem.wf = true) :
    (preemptSave s id).mem.wf = true := by
  unfold preemptSave; (try dsimp only); (repeat' (first
    | assumption | split | (with_reducible refine foldl_memWf _ _ ?_ _ ?_; intro s x h)
    | with_reducible refine foldl_memWf _ _ ?_ _ ?_ | with_reducible apply answerCtxs_memWf
    | with_reducible apply saveGroup_memWf | with_reducible apply restoreOn_memWf )) <;> grind [KeepsRes,
    answerCtxs_memWf, saveGroup_memWf, restoreOn_memWf]

theorem execPreemptSave_memWf (th : ThreadId) (s : State) (hs : s.mem.wf = true) :
    ∀ σ, execPreemptSave th s = .next σ → σ.mem.wf = true := by
  grind [execPreemptSave, preemptSave_memWf]

theorem bankroleWrite_memWf (s : State) (p : Nat) (value : DWord) (by_ : Option ThreadId) (hs : s.mem.wf = true) :
    (bankroleWrite s p value by_).mem.wf = true := by
  unfold bankroleWrite; (try dsimp only); (repeat' (first
    | assumption | split | (with_reducible refine foldl_memWf _ _ ?_ _ ?_; intro s x h)
    | with_reducible refine foldl_memWf _ _ ?_ _ ?_ | with_reducible apply setPart_memWf
    | with_reducible apply requestPreempt_memWf )) <;> grind [KeepsRes, setPart_memWf, requestPreempt_memWf]

theorem zeroReserve_memWf (s : State) (p : Nat) (core : Nat) (changed : List Nat) (hs : s.mem.wf = true) :
    (zeroReserve s p core changed).mem.wf = true := by
  unfold zeroReserve; dsimp only
  (repeat' split) <;> first
    | exact hs
    | exact Memory.wf_filter _ _ (foldl_memWf _ _ (fun s x h => recallLine_memWf s x h) _ hs)

theorem sendAllHome_memWf (s : State) (c : Nat) (hs : s.mem.wf = true) : (sendAllHome s c).mem.wf = true := by
  unfold sendAllHome; (try dsimp only); (repeat' (first
    | assumption | split | (with_reducible refine foldl_memWf _ _ ?_ _ ?_; intro s x h)
    | with_reducible refine foldl_memWf _ _ ?_ _ ?_ | with_reducible apply sendHome_memWf )) <;> grind [KeepsRes,
    sendHome_memWf]

theorem bankroleEffect_memWf (s : State) (p : Nat) (hs : s.mem.wf = true) : (bankroleEffect s p).mem.wf = true := by
  unfold bankroleEffect; (try dsimp only); (repeat' (first
    | assumption | split | (with_reducible refine foldl_memWf _ _ ?_ _ ?_; intro s x h)
    | with_reducible refine foldl_memWf _ _ ?_ _ ?_ | with_reducible apply setPart_memWf
    | with_reducible apply onThread_memWf | with_reducible apply zeroReserve_memWf
    | with_reducible apply pushAll_memWf | with_reducible apply sendAllHome_memWf
    | with_reducible apply restoreOn_memWf )) <;> grind [KeepsRes, setPart_memWf, onThread_memWf, zeroReserve_memWf,
    pushAll_memWf, sendAllHome_memWf, restoreOn_memWf]

theorem execBankroleWrite_memWf (part : Nat) (value : DWord) (s : State) (hs : s.mem.wf = true) :
    ∀ σ, execBankroleWrite part value s = .next σ → σ.mem.wf = true := by
  grind [execBankroleWrite, bankroleWrite_memWf]

theorem execBankroleEffect_memWf (part : Nat) (s : State) (hs : s.mem.wf = true) :
    ∀ σ, execBankroleEffect part s = .next σ → σ.mem.wf = true := by
  grind [execBankroleEffect, bankroleEffect_memWf]

theorem lclkperWrite_memWf (s : State) (p : Nat) (value : Word) (hs : s.mem.wf = true) :
    (lclkperWrite s p value).mem.wf = true := by
  simp [lclkperWrite, *]

theorem execLclkperWrite_memWf (part : Nat) (value : Word) (s : State) (hs : s.mem.wf = true) :
    ∀ σ, execLclkperWrite part value s = .next σ → σ.mem.wf = true := by
  grind [execLclkperWrite, lclkperWrite_memWf]

theorem updHoldWrite_memWf (s : State) (p : Nat) (hold : Bool) (hs : s.mem.wf = true) :
    (updHoldWrite s p hold).mem.wf = true := by
  unfold updHoldWrite; (try dsimp only); (repeat' (first
    | assumption | split | (with_reducible refine foldl_memWf _ _ ?_ _ ?_; intro s x h)
    | with_reducible refine foldl_memWf _ _ ?_ _ ?_ | with_reducible apply setPart_memWf
    | with_reducible apply serve_memWf )) <;> grind [KeepsRes, setPart_memWf, serve_memWf]

theorem execUpdHoldWrite_memWf (part : Nat) (hold : Bool) (s : State) (hs : s.mem.wf = true) :
    ∀ σ, execUpdHoldWrite part hold s = .next σ → σ.mem.wf = true := by
  grind [execUpdHoldWrite, updHoldWrite_memWf]

theorem jump_memWf (i : Instr) (f : Fields) (body : Thread → Res (Thread × Value × DWord)) (s : State)
    (hbody : ∀ th, Plain (body th)) (hs : s.mem.wf = true) :
    ∀ σ, jump i f body s = .next σ → σ.mem.wf = true := by
  grind [jump, Plain, KeepsRes, check_plain, preCheck_plain, engineCheck_plain, needTag_plain, needVar_plain,
    momentBody_plain, floatBody1_plain, matrixOp_plain, trap, control_memWf]

theorem branch_memWf (i : Instr) (f : Fields) (taken : Thread → Bool) (s : State) (hs : s.mem.wf = true) :
    ∀ σ, branch i f taken s = .next σ → σ.mem.wf = true := by
  grind [branch, Plain, KeepsRes, check_plain, preCheck_plain, engineCheck_plain, needTag_plain, needVar_plain,
    momentBody_plain, floatBody1_plain, matrixOp_plain, trap, jump_memWf]

theorem jumpTo_memWf (i : Instr) (f : Fields) (link : Bool) (target : Thread → DWord) (s : State)
    (hs : s.mem.wf = true) :
    ∀ σ, jumpTo i f link target s = .next σ → σ.mem.wf = true := by
  grind [jumpTo, Plain, KeepsRes, check_plain, preCheck_plain, engineCheck_plain, needTag_plain, needVar_plain,
    momentBody_plain, floatBody1_plain, matrixOp_plain, trap, jump_memWf]

theorem compute_memWf (i : Instr) (f : Fields) (body : Thread → Res (Thread × Value)) (s : State)
    (hbody : ∀ th, Plain (body th)) (hs : s.mem.wf = true) :
    ∀ σ, compute i f body s = .next σ → σ.mem.wf = true := by
  unfold compute; refine conclude_memWf _ _ _ hs ?_
  have := check_plain i f s s.cur
  have := hbody s.cur.opened
  split
  · exact ⟨by simp, by grind [Plain], by grind [Plain]⟩
  · split
    · exact ⟨by simp, by grind [Plain], by grind [Plain]⟩
    · exact ⟨by grind, by simp, by simp⟩

theorem computeV_memWf (i : Instr) (f : Fields) (body : Thread → Res Value) (s : State)
    (hbody : ∀ th, Plain (body th)) (hs : s.mem.wf = true) :
    ∀ σ, computeV i f body s = .next σ → σ.mem.wf = true := by
  grind [computeV, Plain, KeepsRes, check_plain, preCheck_plain, engineCheck_plain, needTag_plain, needVar_plain,
    momentBody_plain, floatBody1_plain, matrixOp_plain, trap, compute_memWf]

theorem execNop_memWf (f : Fields) (s : State) (hs : s.mem.wf = true) :
    ∀ σ, execNop f s = .next σ → σ.mem.wf = true := by
  grind [execNop, Plain, KeepsRes, check_plain, preCheck_plain, engineCheck_plain, needTag_plain, needVar_plain,
    momentBody_plain, floatBody1_plain, matrixOp_plain, trap, computeV_memWf]

theorem execBr_memWf (f : Fields) (s : State) (hs : s.mem.wf = true) :
    ∀ σ, execBr f s = .next σ → σ.mem.wf = true := by
  grind [execBr, branch_memWf]

theorem execBz_memWf (f : Fields) (s : State) (hs : s.mem.wf = true) :
    ∀ σ, execBz f s = .next σ → σ.mem.wf = true := by
  grind [execBz, branch_memWf]

theorem execBnz_memWf (f : Fields) (s : State) (hs : s.mem.wf = true) :
    ∀ σ, execBnz f s = .next σ → σ.mem.wf = true := by
  grind [execBnz, branch_memWf]

theorem execBc_memWf (f : Fields) (s : State) (hs : s.mem.wf = true) :
    ∀ σ, execBc f s = .next σ → σ.mem.wf = true := by
  grind [execBc, branch_memWf]

theorem execCall_memWf (f : Fields) (s : State) (hs : s.mem.wf = true) :
    ∀ σ, execCall f s = .next σ → σ.mem.wf = true := by
  grind [execCall, jumpTo_memWf]

theorem execCallReg_memWf (f : Fields) (s : State) (hs : s.mem.wf = true) :
    ∀ σ, execCallReg f s = .next σ → σ.mem.wf = true := by
  grind [execCallReg, jumpTo_memWf]

theorem execRet_memWf (f : Fields) (s : State) (hs : s.mem.wf = true) :
    ∀ σ, execRet f s = .next σ → σ.mem.wf = true := by
  grind [execRet, jumpTo_memWf]

theorem execJmpi_memWf (f : Fields) (s : State) (hs : s.mem.wf = true) :
    ∀ σ, execJmpi f s = .next σ → σ.mem.wf = true := by
  grind [execJmpi, jumpTo_memWf]

theorem execBmz_memWf (f : Fields) (s : State) (hs : s.mem.wf = true) :
    ∀ σ, execBmz f s = .next σ → σ.mem.wf = true := by
  grind [execBmz, branch_memWf]

theorem execBmnz_memWf (f : Fields) (s : State) (hs : s.mem.wf = true) :
    ∀ σ, execBmnz f s = .next σ → σ.mem.wf = true := by
  grind [execBmnz, branch_memWf]

theorem maskOp_memWf (i : Instr) (f : Fields) (body : Thread → Res Thread) (s : State)
    (hbody : ∀ th, Plain (body th)) (hs : s.mem.wf = true) :
    ∀ σ, maskOp i f body s = .next σ → σ.mem.wf = true := by
  grind [maskOp, Plain, KeepsRes, check_plain, preCheck_plain, engineCheck_plain, needTag_plain, needVar_plain,
    momentBody_plain, floatBody1_plain, matrixOp_plain, trap, compute_memWf]

theorem execMif_memWf (f : Fields) (s : State) (hs : s.mem.wf = true) :
    ∀ σ, execMif f s = .next σ → σ.mem.wf = true := by
  grind [execMif, Plain, KeepsRes, check_plain, preCheck_plain, engineCheck_plain, needTag_plain, needVar_plain,
    momentBody_plain, floatBody1_plain, matrixOp_plain, trap, maskOp_memWf]

theorem execMelse_memWf (f : Fields) (s : State) (hs : s.mem.wf = true) :
    ∀ σ, execMelse f s = .next σ → σ.mem.wf = true := by
  grind [execMelse, Plain, KeepsRes, check_plain, preCheck_plain, engineCheck_plain, needTag_plain, needVar_plain,
    momentBody_plain, floatBody1_plain, matrixOp_plain, trap, maskOp_memWf]

theorem execMend_memWf (f : Fields) (s : State) (hs : s.mem.wf = true) :
    ∀ σ, execMend f s = .next σ → σ.mem.wf = true := by
  grind [execMend, Plain, KeepsRes, check_plain, preCheck_plain, engineCheck_plain, needTag_plain, needVar_plain,
    momentBody_plain, floatBody1_plain, matrixOp_plain, trap, jump_memWf]

theorem execMloop_memWf (f : Fields) (s : State) (hs : s.mem.wf = true) :
    ∀ σ, execMloop f s = .next σ → σ.mem.wf = true := by
  grind [execMloop, Plain, KeepsRes, check_plain, preCheck_plain, engineCheck_plain, needTag_plain, needVar_plain,
    momentBody_plain, floatBody1_plain, matrixOp_plain, trap, maskOp_memWf]

theorem breakOp_memWf (i : Instr) (f : Fields) (again : Bool) (s : State) (hs : s.mem.wf = true) :
    ∀ σ, breakOp i f again s = .next σ → σ.mem.wf = true := by
  grind [breakOp, Plain, KeepsRes, check_plain, preCheck_plain, engineCheck_plain, needTag_plain, needVar_plain,
    momentBody_plain, floatBody1_plain, matrixOp_plain, trap, maskOp_memWf]

theorem execMbrk_memWf (f : Fields) (s : State) (hs : s.mem.wf = true) :
    ∀ σ, execMbrk f s = .next σ → σ.mem.wf = true := by
  grind [execMbrk, breakOp_memWf]

theorem execMcont_memWf (f : Fields) (s : State) (hs : s.mem.wf = true) :
    ∀ σ, execMcont f s = .next σ → σ.mem.wf = true := by
  grind [execMcont, breakOp_memWf]

theorem execMpush_memWf (f : Fields) (s : State) (hs : s.mem.wf = true) :
    ∀ σ, execMpush f s = .next σ → σ.mem.wf = true := by
  grind [execMpush, Plain, KeepsRes, check_plain, preCheck_plain, engineCheck_plain, needTag_plain, needVar_plain,
    momentBody_plain, floatBody1_plain, matrixOp_plain, trap, maskOp_memWf]

theorem execMpop_memWf (f : Fields) (s : State) (hs : s.mem.wf = true) :
    ∀ σ, execMpop f s = .next σ → σ.mem.wf = true := by
  grind [execMpop, Plain, KeepsRes, check_plain, preCheck_plain, engineCheck_plain, needTag_plain, needVar_plain,
    momentBody_plain, floatBody1_plain, matrixOp_plain, trap, maskOp_memWf]

theorem execWaitc_memWf (f : Fields) (s : State) (hs : s.mem.wf = true) :
    ∀ σ, execWaitc f s = .next σ → σ.mem.wf = true := by
  grind [execWaitc, Plain, KeepsRes, check_plain, preCheck_plain, engineCheck_plain, needTag_plain, needVar_plain,
    momentBody_plain, floatBody1_plain, matrixOp_plain, trap, computeV_memWf]

theorem execYield_memWf (f : Fields) (s : State) (hs : s.mem.wf = true) :
    ∀ σ, execYield f s = .next σ → σ.mem.wf = true := by
  grind [execYield, Plain, KeepsRes, check_plain, preCheck_plain, engineCheck_plain, needTag_plain, needVar_plain,
    momentBody_plain, floatBody1_plain, matrixOp_plain, trap, computeV_memWf]

theorem execSleep_memWf (f : Fields) (s : State) (hs : s.mem.wf = true) :
    ∀ σ, execSleep f s = .next σ → σ.mem.wf = true := by
  unfold execSleep; (try dsimp only); (repeat' (first
    | assumption | split | (with_reducible refine foldl_memWf _ _ ?_ _ ?_; intro s x h)
    | with_reducible refine foldl_memWf _ _ ?_ _ ?_ | with_reducible apply onThread_memWf
    | with_reducible apply finish_memWf | with_reducible apply control_memWf )) <;> grind [KeepsRes, onThread_memWf,
    finish_memWf, control_memWf]

theorem execDone_memWf (f : Fields) (s : State) (hs : s.mem.wf = true) :
    ∀ σ, execDone f s = .next σ → σ.mem.wf = true := by
  unfold execDone; (try dsimp only); (repeat' (first
    | assumption | split | (with_reducible refine foldl_memWf _ _ ?_ _ ?_; intro s x h)
    | with_reducible refine foldl_memWf _ _ ?_ _ ?_ | with_reducible apply control_memWf )) <;> grind [KeepsRes,
    control_memWf]

theorem execTrap_memWf (f : Fields) (s : State) (hs : s.mem.wf = true) :
    ∀ σ, execTrap f s = .next σ → σ.mem.wf = true := by
  unfold execTrap; (try dsimp only); (repeat' (first
    | assumption | split | (with_reducible refine foldl_memWf _ _ ?_ _ ?_; intro s x h)
    | with_reducible refine foldl_memWf _ _ ?_ _ ?_ | with_reducible apply control_memWf )) <;> grind [KeepsRes,
    control_memWf]

theorem execBrkpt_memWf (f : Fields) (s : State) (hs : s.mem.wf = true) :
    ∀ σ, execBrkpt f s = .next σ → σ.mem.wf = true := by
  grind [execBrkpt, Plain, KeepsRes, check_plain, preCheck_plain, engineCheck_plain, needTag_plain, needVar_plain,
    momentBody_plain, floatBody1_plain, matrixOp_plain, trap, control_memWf]

theorem ctxEnd_memWf (s : State) (before : Thread) (f : Fields) (code : Nat) (hs : s.mem.wf = true) :
    KeepsRes (ctxEnd s before f code) := by
  unfold ctxEnd; (try dsimp only); (repeat' (first
    | assumption | split | (with_reducible refine foldl_memWf _ _ ?_ _ ?_; intro s x h)
    | with_reducible refine foldl_memWf _ _ ?_ _ ?_ | with_reducible apply finish_memWf )) <;> grind [KeepsRes,
    finish_memWf]

theorem execCtxs_memWf (f : Fields) (s : State) (hs : s.mem.wf = true) :
    ∀ σ, execCtxs f s = .next σ → σ.mem.wf = true := by
  unfold execCtxs; (try dsimp only); (repeat' (first
    | assumption | split | (with_reducible refine foldl_memWf _ _ ?_ _ ?_; intro s x h)
    | with_reducible refine foldl_memWf _ _ ?_ _ ?_ | with_reducible apply requestPreempt_memWf
    | with_reducible apply ctxEnd_memWf | with_reducible apply stall_memWf
    | with_reducible apply control_memWf )) <;> grind [KeepsRes, requestPreempt_memWf, ctxEnd_memWf, stall_memWf,
    control_memWf]

theorem execVred_memWf (f : Fields) (s : State) (hs : s.mem.wf = true) :
    ∀ σ, execVred f s = .next σ → σ.mem.wf = true := by
  grind [execVred, Plain, KeepsRes, check_plain, preCheck_plain, engineCheck_plain, needTag_plain, needVar_plain,
    momentBody_plain, floatBody1_plain, matrixOp_plain, trap, computeV_memWf]

theorem vfloat2_memWf (i : Instr) (f : Fields) (op : Nat → Nat → Nat → Nat) (s : State) (hs : s.mem.wf = true) :
    ∀ σ, vfloat2 i f op s = .next σ → σ.mem.wf = true := by
  grind [vfloat2, Plain, KeepsRes, check_plain, preCheck_plain, engineCheck_plain, needTag_plain, needVar_plain,
    momentBody_plain, floatBody1_plain, matrixOp_plain, trap, computeV_memWf]

theorem execVfmax_memWf (f : Fields) (s : State) (hs : s.mem.wf = true) :
    ∀ σ, execVfmax f s = .next σ → σ.mem.wf = true := by
  grind [execVfmax, vfloat2_memWf]

theorem enterRetrain_memWf (s : State) (l : LinkId) (hs : s.mem.wf = true) : (enterRetrain s l).mem.wf = true := by
  grind [enterRetrain, setLinkState_memWf]

theorem nakReceive_memWf (s : State) (l : LinkId) (seq : BitVec 8) (hs : s.mem.wf = true) :
    (nakReceive s l seq).mem.wf = true := by
  grind [nakReceive, enterRetrain_memWf, setLink_memWf]

theorem execNakReceive_memWf (link : LinkId) (seq : BitVec 8) (s : State) (hs : s.mem.wf = true) :
    ∀ σ, execNakReceive link seq s = .next σ → σ.mem.wf = true := by
  grind [execNakReceive, nakReceive_memWf]

theorem computeSfu_memWf (i : Instr) (f : Fields) (body : Thread → Res Value) (s : State)
    (hbody : ∀ th, Plain (body th)) (hs : s.mem.wf = true) :
    ∀ σ, computeSfu i f body s = .next σ → σ.mem.wf = true := by
  unfold computeSfu; dsimp only; split
  · exact computeV_memWf i f body s hbody hs
  · refine conclude_memWf _ _ _ hs ?_
    have := check_plain i f s s.cur
    have := hbody s.cur.opened
    split
    · exact ⟨by simp, by grind [Plain], by grind [Plain]⟩
    · split
      · exact ⟨by simp, by grind [Plain], by grind [Plain]⟩
      · exact ⟨by simp [hs], by simp, by simp⟩

theorem vfloatSfu_memWf (i : Instr) (f : Fields) (op : Nat → Nat) (s : State) (hs : s.mem.wf = true) :
    ∀ σ, vfloatSfu i f op s = .next σ → σ.mem.wf = true := by
  grind [vfloatSfu, Plain, KeepsRes, check_plain, preCheck_plain, engineCheck_plain, needTag_plain, needVar_plain,
    momentBody_plain, floatBody1_plain, matrixOp_plain, trap, computeSfu_memWf]

theorem execVftanh_memWf (f : Fields) (s : State) (hs : s.mem.wf = true) :
    ∀ σ, execVftanh f s = .next σ → σ.mem.wf = true := by
  grind [execVftanh, vfloatSfu_memWf]

theorem scalar2_memWf (i : Instr) (f : Fields) (op : BitVec 4 → Nat → Nat → Nat → Nat) (s : State)
    (hs : s.mem.wf = true) :
    ∀ σ, scalar2 i f op s = .next σ → σ.mem.wf = true := by
  grind [scalar2, Plain, KeepsRes, check_plain, preCheck_plain, engineCheck_plain, needTag_plain, needVar_plain,
    momentBody_plain, floatBody1_plain, matrixOp_plain, trap, computeV_memWf]

theorem execSsub_memWf (f : Fields) (s : State) (hs : s.mem.wf = true) :
    ∀ σ, execSsub f s = .next σ → σ.mem.wf = true := by
  grind [execSsub, scalar2_memWf]

theorem execVq4p_memWf (f : Fields) (s : State) (hs : s.mem.wf = true) :
    ∀ σ, execVq4p f s = .next σ → σ.mem.wf = true := by
  grind [execVq4p, Plain, KeepsRes, check_plain, preCheck_plain, engineCheck_plain, needTag_plain, needVar_plain,
    momentBody_plain, floatBody1_plain, matrixOp_plain, trap, compute_memWf]

theorem askLaunch_memWf (s : State) (p : Nat) (r : Launch) (hs : s.mem.wf = true) :
    (askLaunch s p r).mem.wf = true := by
  simp [askLaunch, *]

theorem launchOp_memWf (i : Instr) (f : Fields) (time : Thread → Option DWord) (s : State)
    (hs : s.mem.wf = true) :
    ∀ σ, launchOp i f time s = .next σ → σ.mem.wf = true := by
  unfold launchOp; (try dsimp only); (repeat' (first
    | assumption | split | (with_reducible refine foldl_memWf _ _ ?_ _ ?_; intro s x h)
    | with_reducible refine foldl_memWf _ _ ?_ _ ?_ | with_reducible apply askLaunch_memWf
    | with_reducible apply setThread_memWf | with_reducible apply control_memWf )) <;> grind [KeepsRes,
    askLaunch_memWf, setThread_memWf, control_memWf]

theorem execDepart_memWf (f : Fields) (s : State) (hs : s.mem.wf = true) :
    ∀ σ, execDepart f s = .next σ → σ.mem.wf = true := by
  grind [execDepart, launchOp_memWf]

theorem vfloat1_memWf (i : Instr) (f : Fields) (op : Nat → Nat → Nat) (s : State) (hs : s.mem.wf = true) :
    ∀ σ, vfloat1 i f op s = .next σ → σ.mem.wf = true := by
  grind [vfloat1, Plain, KeepsRes, check_plain, preCheck_plain, engineCheck_plain, needTag_plain, needVar_plain,
    momentBody_plain, floatBody1_plain, matrixOp_plain, trap, computeV_memWf]

theorem execVfsqrt_memWf (f : Fields) (s : State) (hs : s.mem.wf = true) :
    ∀ σ, execVfsqrt f s = .next σ → σ.mem.wf = true := by
  grind [execVfsqrt, vfloat1_memWf]

theorem clearPort_memWf (s : State) (h : Nat) (hs : s.mem.wf = true) : (clearPort s h).mem.wf = true := by
  simp [clearPort, *]

theorem zeroWindow_memWf (s : State) (k : Nat) (hs : s.mem.wf = true) : (zeroWindow s k).mem.wf = true := by
  exact Memory.wf_filter _ _ hs

theorem pcmdResult_memWf (s : State) (code : Nat) (hs : s.mem.wf = true) : (pcmdResult s code).mem.wf = true := by
  simp [pcmdResult, *]

theorem setSlot_memWf (s : State) (k : Nat) (x : Slot) (hs : s.mem.wf = true) :
    (State.setSlot s k x).mem.wf = true := by
  simp [State.setSlot, *]

theorem freeKernelState_memWf (s : State) (p : Nat) (kn : Nat) (hs : s.mem.wf = true) :
    (freeKernelState s p kn).mem.wf = true := by
  grind [freeKernelState, setPart_memWf]

theorem discardQueue_memWf (s : State) (q : Queue) (st : QState) (hs : s.mem.wf = true) :
    (discardQueue s q st).mem.wf = true := by
  unfold discardQueue; (try dsimp only); (repeat' (first
    | assumption | split | (with_reducible refine foldl_memWf _ _ ?_ _ ?_; intro s x h)
    | with_reducible refine foldl_memWf _ _ ?_ _ ?_ | with_reducible apply setQueue_memWf
    | with_reducible apply onThread_memWf | with_reducible apply answerAll_memWf )) <;> grind [KeepsRes,
    setQueue_memWf, onThread_memWf, answerAll_memWf]

theorem pushHandle_memWf (s : State) (p : Nat) (h : DWord) (ws : List Word) (hs : s.mem.wf = true) :
    (pushHandle s p h ws).2.mem.wf = true := by
  grind [pushHandle, pushCart_memWf]

theorem departCart_memWf (s : State) (p : Nat) (kn : Nat) (k : Kernel) (what : DWord) (status : Nat)
    (hs : s.mem.wf = true) :
    (departCart s p kn k what status).mem.wf = true := by
  grind [departCart, pushHandle_memWf]

theorem completionRecord_memWf (s : State) (p : Nat) (kn : Nat) (k : Kernel) (status : Nat)
    (hs : s.mem.wf = true) :
    (completionRecord s p kn k status).mem.wf = true := by
  unfold completionRecord; dsimp only; split
  · exact hs
  · split
    · exact departCart_memWf _ _ _ _ _ _ hs
    · split
      · exact departCart_memWf _ _ _ _ _ _ hs
      · rename_i s1 h1
        have := hwWrite_memWf _ _ _ _ _ _ _ hs _ h1
        split
        · exact departCart_memWf _ _ _ _ _ _ this
        · rename_i s2 h2; exact hwWrite_memWf _ _ _ _ _ _ _ this _ h2

theorem finishKernel_memWf (s : State) (p : Nat) (kn : Nat) (status : Nat) (hs : s.mem.wf = true) :
    (finishKernel s p kn status).mem.wf = true := by
  grind [finishKernel, completionRecord_memWf, freeKernelState_memWf]

theorem kernelEnd_memWf (s : State) (p : Nat) (kn : Nat) (hs : s.mem.wf = true) :
    (kernelEnd s p kn).mem.wf = true := by
  grind [kernelEnd, finishKernel_memWf, setKernel_memWf]

theorem killKernel_memWf (s : State) (p : Nat) (kn : Nat) (hs : s.mem.wf = true) :
    (killKernel s p kn).mem.wf = true := by
  unfold killKernel; (try dsimp only); (repeat' (first
    | assumption | split | (with_reducible refine foldl_memWf _ _ ?_ _ ?_; intro s x h)
    | with_reducible refine foldl_memWf _ _ ?_ _ ?_ | with_reducible apply kernelEnd_memWf
    | with_reducible apply setKernel_memWf | with_reducible apply killGroup_memWf )) <;> grind [KeepsRes,
    kernelEnd_memWf, setKernel_memWf, killGroup_memWf]

theorem recallTimes_memWf (s : State) (ln : Nat) (hs : s.mem.wf = true) : (recallTimes s ln).1.mem.wf = true := by
  grind [recallTimes, gatherAll_memWf, recallLine_memWf, settle_memWf]

theorem recallWindow_memWf (s : State) (lines : List Nat) (hs : s.mem.wf = true) :
    (recallWindow s lines).1.mem.wf = true := by
  unfold recallWindow
  refine foldl_fst_memWf _ _ (fun r x h => ?_) _ hs
  exact recallTimes_memWf r.1 x h

theorem pcmdStop_memWf (s : State) (p : Nat) (hs : s.mem.wf = true) : (pcmdStop s p).mem.wf = true := by
  unfold pcmdStop; (try dsimp only); (repeat' (first
    | assumption | split | (with_reducible refine foldl_memWf _ _ ?_ _ ?_; intro s x h)
    | with_reducible refine foldl_memWf _ _ ?_ _ ?_ | with_reducible apply setPart_memWf
    | with_reducible apply clearPort_memWf | with_reducible apply zeroWindow_memWf
    | with_reducible apply pcmdResult_memWf | with_reducible apply setSlot_memWf
    | with_reducible apply freeKernelState_memWf | with_reducible apply discardQueue_memWf
    | with_reducible apply killKernel_memWf | with_reducible apply recallWindow_memWf )) <;> grind [KeepsRes,
    setPart_memWf, clearPort_memWf, zeroWindow_memWf, pcmdResult_memWf, setSlot_memWf, freeKernelState_memWf,
    discardQueue_memWf, killKernel_memWf, recallWindow_memWf]

theorem execPcmdStop_memWf (part : Nat) (s : State) (hs : s.mem.wf = true) :
    ∀ σ, execPcmdStop part s = .next σ → σ.mem.wf = true := by
  grind [execPcmdStop, pcmdStop_memWf]

theorem execSdiv_memWf (f : Fields) (s : State) (hs : s.mem.wf = true) :
    ∀ σ, execSdiv f s = .next σ → σ.mem.wf = true := by
  grind [execSdiv, scalar2_memWf]

theorem execVfmul_memWf (f : Fields) (s : State) (hs : s.mem.wf = true) :
    ∀ σ, execVfmul f s = .next σ → σ.mem.wf = true := by
  grind [execVfmul, vfloat2_memWf]

theorem stageLanes_memWf (p : Nat) (kn : Nat) (gid : Nat) (th : Thread) (f : Fields) (m : MemOp)
    (x6 : List LaneAcc) (x7 : State) (hx7 : x7.mem.wf = true) :
    (stageLanes p kn gid th f m x6 x7).mem.wf = true := by
  fun_induction stageLanes p kn gid th f m x6 x7 <;> grind [fresh_memWf, setKernel_memWf, push_memWf, setThread_memWf]

theorem putRuns_memWf (p : Nat) (kn : Nat) (gid : Nat) (th : Thread) (f : Fields) (m : MemOp) (space : BaseKind)
    (cover : Mask) (x8 : List (Bool × List LaneAcc)) (x9 : State) (hx9 : x9.mem.wf = true) :
    (putRuns p kn gid th f m space cover x8 x9).mem.wf = true := by
  fun_induction putRuns p kn gid th f m space cover x8 x9 <;> grind [fresh_memWf, stageLanes_memWf, enlist_memWf]

theorem issueLanes_memWf (s : State) (th : Thread) (f : Fields) (m : MemOp) (space : BaseKind)
    (lanes : List LaneAcc) (cover : Mask) (hs : s.mem.wf = true) :
    KeepsRes (issueLanes s th f m space lanes cover) := by
  unfold issueLanes; (try dsimp only); (repeat' (first
    | assumption | split | (with_reducible refine foldl_memWf _ _ ?_ _ ?_; intro s x h)
    | with_reducible refine foldl_memWf _ _ ?_ _ ?_ | with_reducible apply fresh_memWf
    | with_reducible apply putRuns_memWf | with_reducible apply stageLanes_memWf
    | with_reducible apply enlist_memWf | with_reducible apply setThread_memWf )) <;> grind [KeepsRes, fresh_memWf,
    putRuns_memWf, stageLanes_memWf, enlist_memWf, setThread_memWf]

theorem windowAccess_memWf (s : State) (th : Thread) (before : Thread) (f : Fields) (m : MemOp)
    (lanes : List LaneAcc) (hs : s.mem.wf = true) :
    KeepsRes (windowAccess s th before f m lanes) := by
  unfold windowAccess
  extract_lets touched held a s1 a1 th1
  cases held.isEmpty
  · refine ⟨?_, by simp, by simp⟩
    simp
  · refine ⟨fun t e => ?_, by simp, by simp⟩
    cases e
    have h1 : s1.mem.wf = true := foldl_memWf _ _ (fun s l h => by
      split
      · exact stepLocal_memWf _ _ _ h
      · exact h) _ (by rw [setThread_mem]; exact hs)
    exact finish_memWf _ _ _ _ _ h1

theorem memBody_memWf (f : Fields) (m : MemOp) (s : State) (th : Thread) (hs : s.mem.wf = true) :
    KeepsRes (memBody f m s th) := by
  unfold memBody; extract_lets b counted resvs
  refine keeps_ite (keeps_wait _) (keeps_ite (keeps_wait _) (keeps_ite (keeps_wait _) ?_))
  split
  · rename_i e he; exact keeps_error (he ▸ resolve_plain ..)
  · rename_i r hr
    have h1 := resolve_memWf _ _ _ _ _ _ _ hs _ hr
    extract_lets lanes cover
    refine keeps_ite (windowAccess_memWf _ _ _ _ _ _ h1) ?_
    split
    · have h2 := issueLanes_memWf (r.st.setThread th) th f m b.kind lanes cover (by simpa using h1)
      split
      · rename_i e; exact keeps_of_error (e ▸ h2)
      · rename_i e; exact keeps_ok (pump_memWf _ _ (finish_memWf _ _ _ _ _ (h2.1 _ e)))
    · have h2 := issueLanes_memWf r.st th f m b.kind lanes cover h1
      refine keeps_ite (keeps_park h1) ?_
      split
      · rename_i e; exact keeps_of_error (e ▸ h2)
      · rename_i e; exact keeps_park (pump_memWf _ _ (h2.1 _ e))

theorem mem_memWf (i : Instr) (f : Fields) (op : Thread → Res MemOp) (s : State) (hop : ∀ th, Plain (op th))
    (hs : s.mem.wf = true) :
    ∀ σ, mem i f op s = .next σ → σ.mem.wf = true := by
  grind [mem, Plain, KeepsRes, check_plain, preCheck_plain, engineCheck_plain, needTag_plain, needVar_plain,
    momentBody_plain, floatBody1_plain, matrixOp_plain, trap, memBody_memWf, control_memWf]

theorem execVatm_memWf (f : Fields) (s : State) (hs : s.mem.wf = true) :
    ∀ σ, execVatm f s = .next σ → σ.mem.wf = true := by
  grind [execVatm, Plain, KeepsRes, check_plain, preCheck_plain, engineCheck_plain, needTag_plain, needVar_plain,
    momentBody_plain, floatBody1_plain, matrixOp_plain, trap, mem_memWf]

theorem pcmdNone_memWf (s : State) (hs : s.mem.wf = true) : (pcmdNone s).mem.wf = true := by
  grind [pcmdNone, pcmdResult_memWf]

theorem execPcmdNone_memWf (x0 : Nat) (s : State) (hs : s.mem.wf = true) :
    ∀ σ, execPcmdNone x0 s = .next σ → σ.mem.wf = true := by
  grind [execPcmdNone, pcmdNone_memWf]

theorem execVfsub_memWf (f : Fields) (s : State) (hs : s.mem.wf = true) :
    ∀ σ, execVfsub f s = .next σ → σ.mem.wf = true := by
  grind [execVfsub, vfloat2_memWf]

theorem qcmdResult_memWf (s : State) (p : Nat) (code : Nat) (hs : s.mem.wf = true) :
    (qcmdResult s p code).mem.wf = true := by
  simp [qcmdResult, *]

theorem qcmd_memWf (s : State) (p : Nat) (i : Nat) (k : State → Queue → State) (hs : s.mem.wf = true)
    (hk : ∀ t y0, t.mem.wf = true → (k t y0).mem.wf = true) :
    (qcmd s p i k).mem.wf = true := by
  grind [qcmd, qcmdResult_memWf, setPart_memWf]

theorem qcmdUnswap_memWf (s : State) (p : Nat) (i : Nat) (hs : s.mem.wf = true) :
    (qcmdUnswap s p i).mem.wf = true := by
  grind [qcmdUnswap, qcmdResult_memWf, qcmd_memWf, unswapFor_memWf]

theorem execQcmdUnswap_memWf (part : Nat) (index : Nat) (s : State) (hs : s.mem.wf = true) :
    ∀ σ, execQcmdUnswap part index s = .next σ → σ.mem.wf = true := by
  grind [execQcmdUnswap, qcmdUnswap_memWf]

theorem rekey_memWf (s : State) (m : Move) (hs : s.mem.wf = true) : (rekey s m).mem.wf = true := by
  simp [rekey, *]

theorem moveDeferred_memWf (s : State) (target : Nat → Option Nat) (hs : s.mem.wf = true) :
    (moveDeferred s target).mem.wf = true := by
  unfold moveDeferred; (try dsimp only); (repeat' (first
    | assumption | split | (with_reducible refine foldl_memWf _ _ ?_ _ ?_; intro s x h)
    | with_reducible refine foldl_memWf _ _ ?_ _ ?_ | with_reducible apply setHome_memWf )) <;> grind [KeepsRes,
    setHome_memWf]

theorem moveResult_memWf (s : State) (p : Nat) (code : Nat) (busy : Bool) (hs : s.mem.wf = true) :
    (moveResult s p code busy).mem.wf = true := by
  simp [moveResult, *]

theorem setTimes_memWf (s : State) (ln : Nat) (rts : BitVec 16) (wts : BitVec 16) (hs : s.mem.wf = true) :
    (setTimes s ln rts wts).mem.wf = true := by
  grind [setTimes, onEntry_memWf]

theorem moveLine_memWf (s : State) (old : Nat) (new : Nat) (hs : s.mem.wf = true) :
    (moveLine s old new).mem.wf = true := by
  unfold moveLine
  have h0 := recallTimes_memWf s old hs
  split
  rename_i e; rw [e] at h0
  extract_lets bs s2
  have h2 : s2.mem.wf = true := setTimes_memWf _ _ _ _ (recallLine_memWf _ _ h0)
  clear_value s2 bs
  simp [h2, Memory.wf_writeBytes]

theorem completeMove_memWf (s : State) (p : Nat) (hs : s.mem.wf = true) : (completeMove s p).mem.wf = true := by
  unfold completeMove; split
  · exact hs
  · split
    · exact hs
    · rw [pushAll_mem]
      exact moveResult_memWf _ _ _ _ (setPart_memWf _ _ _ (paWrite_memWf _ _ _ _ (moveDeferred_memWf _ _ (rekey_memWf _ _
        (foldl_memWf _ _ (fun s x h => moveLine_memWf _ _ _ h) _ hs)))))

theorem execMoveComplete_memWf (part : Nat) (s : State) (hs : s.mem.wf = true) :
    ∀ σ, execMoveComplete part s = .next σ → σ.mem.wf = true := by
  grind [execMoveComplete, completeMove_memWf]

theorem moment2_memWf (i : Instr) (f : Fields) (op : Nat → Nat → Nat → Nat → Nat → Nat × Nat) (s : State)
    (hs : s.mem.wf = true) :
    ∀ σ, moment2 i f op s = .next σ → σ.mem.wf = true := by
  grind [moment2, Plain, KeepsRes, check_plain, preCheck_plain, engineCheck_plain, needTag_plain, needVar_plain,
    momentBody_plain, floatBody1_plain, matrixOp_plain, trap, computeV_memWf]

theorem execMmul_memWf (f : Fields) (s : State) (hs : s.mem.wf = true) :
    ∀ σ, execMmul f s = .next σ → σ.mem.wf = true := by
  grind [execMmul, moment2_memWf]

theorem pullUp_memWf (s : State) (core : Nat) (plt : BitVec 16) (hs : s.mem.wf = true) :
    (pullUp s core plt).mem.wf = true := by
  grind [pullUp, raiseClock_memWf]

theorem execCoreWake_memWf (core : Nat) (s : State) (hs : s.mem.wf = true) :
    ∀ σ, execCoreWake core s = .next σ → σ.mem.wf = true := by
  grind [execCoreWake, pullUp_memWf, setCore_memWf]

theorem startSys_memWf (s : State) (k : Nat) (mode : Mode) (pc : DWord) (hs : s.mem.wf = true) :
    (startSys s k mode pc).mem.wf = true := by
  simp [startSys, *]

theorem packageReset_memWf (s : State) (hs : s.mem.wf = true) : (packageReset s).mem.wf = true := by
  unfold packageReset; dsimp only; split
  · exact Memory.wf_writeBytes _ _ _ hs
  · exact foldl_memWf _ _ (fun s x h => startSys_memWf _ _ _ _ h) _ (Memory.wf_writeBytes _ _ _ hs)

theorem execPackageReset_memWf (s : State) (hs : s.mem.wf = true) :
    ∀ σ, execPackageReset s = .next σ → σ.mem.wf = true := by
  grind [execPackageReset, packageReset_memWf]

theorem engine_memWf (i : Instr) (f : Fields) (e : EngineSel) (scope : Nat) (tag : Option Tag)
    (build : Thread → Res EngOpRec) (s : State) (hbuild : ∀ th, Plain (build th)) (hs : s.mem.wf = true) :
    ∀ σ, engine i f e scope tag build s = .next σ → σ.mem.wf = true := by
  grind [engine, Plain, KeepsRes, check_plain, preCheck_plain, engineCheck_plain, needTag_plain, needVar_plain,
    momentBody_plain, floatBody1_plain, matrixOp_plain, trap, fresh_memWf, finish_memWf, setCore_memWf, control_memWf]

theorem execTmamm_memWf (f : Fields) (s : State) (hs : s.mem.wf = true) :
    ∀ σ, execTmamm f s = .next σ → σ.mem.wf = true := by
  grind [execTmamm, Plain, KeepsRes, check_plain, preCheck_plain, engineCheck_plain, needTag_plain, needVar_plain,
    momentBody_plain, floatBody1_plain, matrixOp_plain, trap, engine_memWf]

theorem whenFree_memWf (s : State) (ln : Nat) (ev : Instr) (k : State → State) (hs : s.mem.wf = true)
    (hk : ∀ t , t.mem.wf = true → (k t).mem.wf = true) :
    (whenFree s ln ev k).mem.wf = true := by
  grind [whenFree, setService_memWf]

theorem contact_memWf (s : State) (c : Nat) (h : Nat) (hs : s.mem.wf = true) : (contact s c h).mem.wf = true := by
  grind [contact, raiseClock_memWf]

theorem serveFuture_memWf (s0 : State) (acc : Nat) (key : Nat) (hs0 : s0.mem.wf = true) :
    (serveFuture s0 acc key).mem.wf = true := by
  grind [serveFuture, whenFree_memWf, ensureEntry_memWf, settle_memWf, contact_memWf, noteRead_memWf, setHome_memWf,
    setAcc_memWf, goOnFuture_memWf]

theorem execFutureLoadRequest_memWf (acc : Nat) (word : Nat) (s : State) (hs : s.mem.wf = true) :
    ∀ σ, execFutureLoadRequest acc word s = .next σ → σ.mem.wf = true := by
  grind [execFutureLoadRequest, serveFuture_memWf]

theorem execVshuf_memWf (f : Fields) (s : State) (hs : s.mem.wf = true) :
    ∀ σ, execVshuf f s = .next σ → σ.mem.wf = true := by
  grind [execVshuf, Plain, KeepsRes, check_plain, preCheck_plain, engineCheck_plain, needTag_plain, needVar_plain,
    momentBody_plain, floatBody1_plain, matrixOp_plain, trap, computeV_memWf]

theorem vector2_memWf (i : Instr) (f : Fields) (op : BitVec 4 → Nat → Nat → Nat → Nat) (s : State)
    (hs : s.mem.wf = true) :
    ∀ σ, vector2 i f op s = .next σ → σ.mem.wf = true := by
  grind [vector2, Plain, KeepsRes, check_plain, preCheck_plain, engineCheck_plain, needTag_plain, needVar_plain,
    momentBody_plain, floatBody1_plain, matrixOp_plain, trap, computeV_memWf]

theorem execVmul_memWf (f : Fields) (s : State) (hs : s.mem.wf = true) :
    ∀ σ, execVmul f s = .next σ → σ.mem.wf = true := by
  grind [execVmul, vector2_memWf]

theorem execVsra_memWf (f : Fields) (s : State) (hs : s.mem.wf = true) :
    ∀ σ, execVsra f s = .next σ → σ.mem.wf = true := by
  grind [execVsra, vector2_memWf]

theorem scalarF_memWf (i : Instr) (f : Fields) (op : Nat → Nat → Nat) (s : State) (hs : s.mem.wf = true) :
    ∀ σ, scalarF i f op s = .next σ → σ.mem.wf = true := by
  grind [scalarF, Plain, KeepsRes, check_plain, preCheck_plain, engineCheck_plain, needTag_plain, needVar_plain,
    momentBody_plain, floatBody1_plain, matrixOp_plain, trap, computeV_memWf]

theorem execSfsub_memWf (f : Fields) (s : State) (hs : s.mem.wf = true) :
    ∀ σ, execSfsub f s = .next σ → σ.mem.wf = true := by
  grind [execSfsub, scalarF_memWf]

theorem execSld_memWf (f : Fields) (s : State) (hs : s.mem.wf = true) :
    ∀ σ, execSld f s = .next σ → σ.mem.wf = true := by
  grind [execSld, Plain, KeepsRes, check_plain, preCheck_plain, engineCheck_plain, needTag_plain, needVar_plain,
    momentBody_plain, floatBody1_plain, matrixOp_plain, trap, mem_memWf]

theorem execHostCxlMemAccess_memWf (addr : Nat) (write : Option (List Byte)) (count : Nat) (s : State)
    (hs : s.mem.wf = true) :
    ∀ σ, execHostCxlMemAccess addr write count s = .next σ → σ.mem.wf = true := by
  unfold execHostCxlMemAccess; (try dsimp only); (repeat' (first
    | assumption | split | (with_reducible refine foldl_memWf _ _ ?_ _ ?_; intro s x h)
    | with_reducible refine foldl_memWf _ _ ?_ _ ?_  )) <;> grind [KeepsRes]

theorem egressNext_memWf (s : State) (h : Nat) (hs : s.mem.wf = true) :
    ∀ σ, egressNext s h = some σ → σ.mem.wf = true := by
  grind [egressNext, setPort_memWf, storeQueue_memWf, unswapFor_memWf, drainCheck_memWf]

theorem egressPop_memWf (s : State) (h : Nat) (hs : s.mem.wf = true) : (egressPop s h).mem.wf = true := by
  unfold egressPop; cases e : egressNext s h with
  | none => exact hs
  | some t => exact egressNext_memWf _ _ hs _ e

theorem execEgressPop_memWf (half : Nat) (s : State) (hs : s.mem.wf = true) :
    ∀ σ, execEgressPop half s = .next σ → σ.mem.wf = true := by
  grind [execEgressPop, egressPop_memWf]

theorem queueEnd_memWf (s : State) (th : Thread) (before : Thread) (f : Fields) (code : Nat) (v : Value)
    (hs : s.mem.wf = true) :
    (queueEnd s th before f code v).mem.wf = true := by
  grind [queueEnd, finish_memWf]

theorem popQueue_memWf (s : State) (th : Thread) (f : Fields) (q0 : Queue) (try_ : Bool) (hs : s.mem.wf = true) :
    (popQueue s th f q0 try_).mem.wf = true := by
  grind [popQueue, setQueue_memWf, finish_memWf, queueEnd_memWf, unswapFor_memWf, setThread_memWf, deliver_memWf,
    drainCheck_memWf]

theorem popHandle_memWf (s : State) (th : Thread) (f : Fields) (h : DWord) (try_ : Bool) (hs : s.mem.wf = true) :
    (popHandle s th f h try_).mem.wf = true := by
  grind [popHandle, popQueue_memWf, queueEnd_memWf]

theorem execQpop_memWf (f : Fields) (s : State) (hs : s.mem.wf = true) :
    ∀ σ, execQpop f s = .next σ → σ.mem.wf = true := by
  grind [execQpop, Plain, KeepsRes, check_plain, preCheck_plain, engineCheck_plain, needTag_plain, needVar_plain,
    momentBody_plain, floatBody1_plain, matrixOp_plain, trap, popQueue_memWf, queueEnd_memWf, popHandle_memWf,
    control_memWf]

theorem qcmdDiscard_memWf (s : State) (p : Nat) (i : Nat) (hs : s.mem.wf = true) :
    (qcmdDiscard s p i).mem.wf = true := by
  grind [qcmdDiscard, qcmdResult_memWf, qcmd_memWf, discardQueue_memWf]

theorem execQcmdDiscard_memWf (part : Nat) (index : Nat) (s : State) (hs : s.mem.wf = true) :
    ∀ σ, execQcmdDiscard part index s = .next σ → σ.mem.wf = true := by
  grind [execQcmdDiscard, qcmdDiscard_memWf]

theorem execVbc_memWf (f : Fields) (s : State) (hs : s.mem.wf = true) :
    ∀ σ, execVbc f s = .next σ → σ.mem.wf = true := by
  grind [execVbc, Plain, KeepsRes, check_plain, preCheck_plain, engineCheck_plain, needTag_plain, needVar_plain,
    momentBody_plain, floatBody1_plain, matrixOp_plain, trap, computeV_memWf]

theorem execFence_memWf (f : Fields) (s : State) (hs : s.mem.wf = true) :
    ∀ σ, execFence f s = .next σ → σ.mem.wf = true := by
  unfold execFence; (try dsimp only); (repeat' (first
    | assumption | split | (with_reducible refine foldl_memWf _ _ ?_ _ ?_; intro s x h)
    | with_reducible refine foldl_memWf _ _ ?_ _ ?_ | with_reducible apply fresh_memWf
    | with_reducible apply finish_memWf | with_reducible apply pump_memWf | with_reducible apply enlist_memWf
    | with_reducible apply control_memWf )) <;> grind [KeepsRes, fresh_memWf, finish_memWf, pump_memWf, enlist_memWf,
    control_memWf]

theorem execSli_memWf (f : Fields) (s : State) (hs : s.mem.wf = true) :
    ∀ σ, execSli f s = .next σ → σ.mem.wf = true := by
  grind [execSli, Plain, KeepsRes, check_plain, preCheck_plain, engineCheck_plain, needTag_plain, needVar_plain,
    momentBody_plain, floatBody1_plain, matrixOp_plain, trap, computeV_memWf]

theorem thermalMigrate_memWf (s : State) (core : Nat) (hs : s.mem.wf = true) :
    (thermalMigrate s core).mem.wf = true := by
  unfold thermalMigrate; (try dsimp only); (repeat' (first
    | assumption | split | (with_reducible refine foldl_memWf _ _ ?_ _ ?_; intro s x h)
    | with_reducible refine foldl_memWf _ _ ?_ _ ?_ | with_reducible apply requestPreempt_memWf
    | with_reducible apply setCore_memWf | with_reducible apply setThread_memWf )) <;> grind [KeepsRes,
    requestPreempt_memWf, setCore_memWf, setThread_memWf]

theorem senseCore_memWf (s : State) (core : Nat) (temp : Int) (hs : s.mem.wf = true) :
    (senseCore s core temp).mem.wf = true := by
  grind [senseCore, thermalMigrate_memWf, setCore_memWf, packageReset_memWf]

theorem execThermalThrottleEnd_memWf (core : Nat) (temp : Int) (s : State) (hs : s.mem.wf = true) :
    ∀ σ, execThermalThrottleEnd core temp s = .next σ → σ.mem.wf = true := by
  grind [execThermalThrottleEnd, senseCore_memWf]

theorem execVmin_memWf (f : Fields) (s : State) (hs : s.mem.wf = true) :
    ∀ σ, execVmin f s = .next σ → σ.mem.wf = true := by
  grind [execVmin, vector2_memWf]

theorem execVcmp_memWf (f : Fields) (s : State) (hs : s.mem.wf = true) :
    ∀ σ, execVcmp f s = .next σ → σ.mem.wf = true := by
  grind [execVcmp, Plain, KeepsRes, check_plain, preCheck_plain, engineCheck_plain, needTag_plain, needVar_plain,
    momentBody_plain, floatBody1_plain, matrixOp_plain, trap, computeV_memWf]

theorem lineOp_memWf (i : Instr) (f : Fields) (kind : AccKind) (s : State) (hs : s.mem.wf = true) :
    ∀ σ, lineOp i f kind s = .next σ → σ.mem.wf = true := by
  grind [lineOp, Plain, KeepsRes, check_plain, preCheck_plain, engineCheck_plain, needTag_plain, needVar_plain,
    momentBody_plain, floatBody1_plain, matrixOp_plain, trap, mem_memWf]

theorem execCinv_memWf (f : Fields) (s : State) (hs : s.mem.wf = true) :
    ∀ σ, execCinv f s = .next σ → σ.mem.wf = true := by
  grind [execCinv, lineOp_memWf]

theorem holdStaged_memWf (s : State) (p : Nat) (kn : Nat) (e : Staged) (code : Nat) (level : Nat)
    (hs : s.mem.wf = true) :
    (holdStaged s p kn e code level).mem.wf = true := by
  grind [holdStaged, raiseCart_memWf, setKernel_memWf]

theorem answerDeferred_memWf (s : State) (key : Nat) (value : Nat) (hs : s.mem.wf = true) :
    (answerDeferred s key value).mem.wf = true := by
  unfold answerDeferred; (try dsimp only); (repeat' (first
    | assumption | split | (with_reducible refine foldl_memWf _ _ ?_ _ ?_; intro s x h)
    | with_reducible refine foldl_memWf _ _ ?_ _ ?_ | with_reducible apply noteRead_memWf
    | with_reducible apply setHome_memWf | with_reducible apply setAcc_memWf
    | with_reducible apply goOnFuture_memWf )) <;> grind [KeepsRes, noteRead_memWf, setHome_memWf, setAcc_memWf,
    goOnFuture_memWf]

theorem performStaged_memWf (s : State) (p : Nat) (kn : Nat) (e : Staged) (key : Nat) (hs : s.mem.wf = true) :
    (performStaged s p kn e key).mem.wf = true := by
  grind [performStaged, stagedWrite_memWf, dropLease_memWf, settle_memWf, raiseClock_memWf, dropStaged_memWf,
    pump_memWf, addShare_memWf, answerDeferred_memWf, discardLeases_memWf, opHome_memWf]

theorem ticketStep_memWf (s : State) (p : Nat) (kn : Nat) (hs : s.mem.wf = true) :
    (ticketStep s p kn).mem.wf = true := by
  intros; unfold ticketStep at *; (try dsimp only at *); (repeat' split at *) <;> grind [KeepsRes, holdStaged_memWf,
    endCheck_memWf, advanceCt_memWf, performStaged_memWf]

theorem execTicketPerform_memWf (part : Nat) (kern : Nat) (s : State) (hs : s.mem.wf = true) :
    ∀ σ, execTicketPerform part kern s = .next σ → σ.mem.wf = true := by
  grind [execTicketPerform, ticketStep_memWf]

theorem execVfrcp_memWf (f : Fields) (s : State) (hs : s.mem.wf = true) :
    ∀ σ, execVfrcp f s = .next σ → σ.mem.wf = true := by
  grind [execVfrcp, vfloatSfu_memWf]

theorem queueOp_memWf (i : Instr) (f : Fields) (body : State → Thread → Res State) (s : State)
    (hbody : ∀ t th, t.mem.wf = true → KeepsRes (body t th)) (hs : s.mem.wf = true) :
    ∀ σ, queueOp i f body s = .next σ → σ.mem.wf = true := by
  unfold queueOp; (try dsimp only); (repeat' (first
    | assumption | split | (with_reducible refine foldl_memWf _ _ ?_ _ ?_; intro s x h)
    | with_reducible refine foldl_memWf _ _ ?_ _ ?_ | with_reducible apply control_memWf )) <;> grind [KeepsRes,
    control_memWf]

theorem execQspawn_memWf (f : Fields) (s : State) (hs : s.mem.wf = true) :
    ∀ σ, execQspawn f s = .next σ → σ.mem.wf = true := by
  refine queueOp_memWf _ _ _ _ (fun s th h => ?_) hs
  dsimp only
  split
  · rename_i e he; exact keeps_error (he ▸ resolve_plain ..)
  · rename_i r hr
    have h1 := resolve_memWf _ _ _ _ _ _ _ h _ hr
    split
    · exact keeps_park h1
    · refine keeps_ok (queueEnd_memWf _ _ _ _ _ _ (pushCart_memWf _ _ _ _ ?_))
      (repeat' split) <;> first | exact h1 | (rw [setQueue_mem]; exact h1)
    · exact keeps_ok h1

theorem execVfclass_memWf (f : Fields) (s : State) (hs : s.mem.wf = true) :
    ∀ σ, execVfclass f s = .next σ → σ.mem.wf = true := by
  grind [execVfclass, Plain, KeepsRes, check_plain, preCheck_plain, engineCheck_plain, needTag_plain, needVar_plain,
    momentBody_plain, floatBody1_plain, matrixOp_plain, trap, computeV_memWf]

theorem qcmdNone_memWf (s : State) (p : Nat) (i : Nat) (hs : s.mem.wf = true) : (qcmdNone s p i).mem.wf = true := by
  grind [qcmdNone, qcmdResult_memWf, qcmd_memWf]

theorem execQcmdNone_memWf (part : Nat) (index : Nat) (s : State) (hs : s.mem.wf = true) :
    ∀ σ, execQcmdNone part index s = .next σ → σ.mem.wf = true := by
  grind [execQcmdNone, qcmdNone_memWf]

theorem execRetrainDone_memWf (link : LinkId) (s : State) (hs : s.mem.wf = true) :
    ∀ σ, execRetrainDone link s = .next σ → σ.mem.wf = true := by
  grind [execRetrainDone, resumeAll_memWf, setLinkState_memWf]

theorem execVbinm_memWf (f : Fields) (s : State) (hs : s.mem.wf = true) :
    ∀ σ, execVbinm f s = .next σ → σ.mem.wf = true := by
  grind [execVbinm, Plain, KeepsRes, check_plain, preCheck_plain, engineCheck_plain, needTag_plain, needVar_plain,
    momentBody_plain, floatBody1_plain, matrixOp_plain, trap, computeV_memWf]

theorem execMcfgMrho_memWf (f : Fields) (s : State) (hs : s.mem.wf = true) :
    ∀ σ, execMcfgMrho f s = .next σ → σ.mem.wf = true := by
  grind [execMcfgMrho, Plain, KeepsRes, check_plain, preCheck_plain, engineCheck_plain, needTag_plain, needVar_plain,
    momentBody_plain, floatBody1_plain, matrixOp_plain, trap, compute_memWf]

theorem execVoltageAdjust_memWf (die : Nat) (millivolts : Nat) (s : State) (hs : s.mem.wf = true) :
    ∀ σ, execVoltageAdjust die millivolts s = .next σ → σ.mem.wf = true := by
  grind [execVoltageAdjust, setDie_memWf]

theorem failRequest_memWf (s : State) (acc : Nat) (ln : Nat) (hs : s.mem.wf = true) :
    (failRequest s acc ln).mem.wf = true := by
  grind [failRequest, runAccess_memWf, setAcc_memWf, push_memWf, endService_memWf]

theorem execTransientRequestFail_memWf (acc : Nat) (line : Nat) (s : State) (hs : s.mem.wf = true) :
    ∀ σ, execTransientRequestFail acc line s = .next σ → σ.mem.wf = true := by
  grind [execTransientRequestFail, failRequest_memWf]

theorem execTmam_memWf (f : Fields) (s : State) (hs : s.mem.wf = true) :
    ∀ σ, execTmam f s = .next σ → σ.mem.wf = true := by
  grind [execTmam, Plain, KeepsRes, check_plain, preCheck_plain, engineCheck_plain, needTag_plain, needVar_plain,
    momentBody_plain, floatBody1_plain, matrixOp_plain, trap, engine_memWf]

theorem execVrnd_memWf (f : Fields) (s : State) (hs : s.mem.wf = true) :
    ∀ σ, execVrnd f s = .next σ → σ.mem.wf = true := by
  grind [execVrnd, Plain, KeepsRes, check_plain, preCheck_plain, engineCheck_plain, needTag_plain, needVar_plain,
    momentBody_plain, floatBody1_plain, matrixOp_plain, trap, computeV_memWf]

theorem moment1_memWf (i : Instr) (f : Fields) (op : Nat → Nat → Nat × Nat) (s : State) (hs : s.mem.wf = true) :
    ∀ σ, moment1 i f op s = .next σ → σ.mem.wf = true := by
  grind [moment1, Plain, KeepsRes, check_plain, preCheck_plain, engineCheck_plain, needTag_plain, needVar_plain,
    momentBody_plain, floatBody1_plain, matrixOp_plain, trap, computeSfu_memWf]

theorem execMsig_memWf (f : Fields) (s : State) (hs : s.mem.wf = true) :
    ∀ σ, execMsig f s = .next σ → σ.mem.wf = true := by
  grind [execMsig, moment1_memWf]

theorem execVbfma_memWf (f : Fields) (s : State) (hs : s.mem.wf = true) :
    ∀ σ, execVbfma f s = .next σ → σ.mem.wf = true := by
  grind [execVbfma, Plain, KeepsRes, check_plain, preCheck_plain, engineCheck_plain, needTag_plain, needVar_plain,
    momentBody_plain, floatBody1_plain, matrixOp_plain, trap, computeV_memWf]

theorem execPauseReceived_memWf (half : Nat) (priorities : BitVec 8) (cycles : Nat) (s : State)
    (hs : s.mem.wf = true) :
    ∀ σ, execPauseReceived half priorities cycles s = .next σ → σ.mem.wf = true := by
  simp [execPauseReceived, *]

theorem execSor_memWf (f : Fields) (s : State) (hs : s.mem.wf = true) :
    ∀ σ, execSor f s = .next σ → σ.mem.wf = true := by
  grind [execSor, scalar2_memWf]

theorem replayReduction_memWf (s : State) (acc : Nat) (lane : Nat) (hs : s.mem.wf = true) :
    (replayReduction s acc lane).mem.wf = true := by
  grind [replayReduction, push_memWf]

theorem execCorrectableSoftError_memWf (acc : Nat) (lane : Nat) (s : State) (hs : s.mem.wf = true) :
    ∀ σ, execCorrectableSoftError acc lane s = .next σ → σ.mem.wf = true := by
  grind [execCorrectableSoftError, replayReduction_memWf]

theorem execVshl_memWf (f : Fields) (s : State) (hs : s.mem.wf = true) :
    ∀ σ, execVshl f s = .next σ → σ.mem.wf = true := by
  grind [execVshl, vector2_memWf]

theorem execCtxr_memWf (f : Fields) (s : State) (hs : s.mem.wf = true) :
    ∀ σ, execCtxr f s = .next σ → σ.mem.wf = true := by
  unfold execCtxr; (try dsimp only); (repeat' (first
    | assumption | split | (with_reducible refine foldl_memWf _ _ ?_ _ ?_; intro s x h)
    | with_reducible refine foldl_memWf _ _ ?_ _ ?_ | with_reducible apply ctxEnd_memWf
    | with_reducible apply restoreGroup_memWf | with_reducible apply control_memWf )) <;> grind [KeepsRes,
    ctxEnd_memWf, restoreGroup_memWf, control_memWf]

theorem execVmax_memWf (f : Fields) (s : State) (hs : s.mem.wf = true) :
    ∀ σ, execVmax f s = .next σ → σ.mem.wf = true := by
  grind [execVmax, vector2_memWf]

theorem countUp_memWf (s : State) (a : Nat) (hs : s.mem.wf = true) : (countUp s a).mem.wf = true := by
  grind [countUp, paWrite_memWf]

theorem noteHigh_memWf (s : State) (h : Nat) (hs : s.mem.wf = true) : (noteHigh s h).mem.wf = true := by
  grind [noteHigh, setPort_memWf]

theorem noteLow_memWf (s : State) (h : Nat) (hs : s.mem.wf = true) : (noteLow s h).mem.wf = true := by
  grind [noteLow, setPort_memWf]

theorem dropFrame_memWf (s : State) (q : Queue) (hs : s.mem.wf = true) : (dropFrame s q).mem.wf = true := by
  grind [dropFrame, setQueue_memWf, paWrite_memWf]

theorem pushFrame_memWf (s : State) (p : Nat) (h : Nat) (handle : DWord) (ws : List Word) (hs : s.mem.wf = true) :
    (pushFrame s p h handle ws).mem.wf = true := by
  grind [pushFrame, countUp_memWf, pushCart_memWf, dropFrame_memWf]

theorem landFrame_memWf (s : State) (p : Nat) (h : Nat) (f : RxFrame) (hs : s.mem.wf = true) :
    ∀ σ, landFrame s p h f = some σ → σ.mem.wf = true := by
  intro t h; unfold landFrame at h; extract_lets x r i addr s1 at h
  have h1 : s1.mem.wf = true := setPort_memWf s _ _ hs
  split at h
  · split at h
    · cases h
    · rw [← Option.some.inj h]; exact h1
  · rename_i e; cases h; exact pushFrame_memWf _ _ _ _ _ (hwWriteList_memWf _ _ _ _ _ _ _ h1 _ e)

theorem rxNext_memWf (s : State) (h : Nat) (hs : s.mem.wf = true) : ∀ σ, rxNext s h = some σ → σ.mem.wf = true := by
  intro t h; unfold rxNext at h; dsimp only at h; split at h
  · obtain ⟨u, hu, rfl⟩ := Option.map_eq_some_iff.mp h
    exact noteLow_memWf _ _ (landFrame_memWf _ _ _ _ (setPort_memWf _ _ _ hs) _ hu)
  · cases h

theorem bufferFrame_memWf (s : State) (h : Nat) (f : RxFrame) (hs : s.mem.wf = true) :
    (bufferFrame s h f).mem.wf = true := by
  unfold bufferFrame; extract_lets x s1
  have h1 : s1.mem.wf = true := noteHigh_memWf _ _ (setPort_memWf _ _ _ hs)
  clear_value s1
  refine ite_memWf ?_ h1
  cases e : rxNext s1 h with
  | none => exact h1
  | some u => exact rxNext_memWf _ _ h1 _ e

theorem matchFrame_memWf (s : State) (h : Nat) (rec0 : Nat) (e : Option (Nat × Rule)) (frame : List Byte)
    (badFcs : Bool) (hs : s.mem.wf = true) :
    (matchFrame s h rec0 e frame badFcs).mem.wf = true := by
  unfold matchFrame; split
  · exact countUp_memWf _ _ hs
  · exact bufferFrame_memWf _ _ _ hs

theorem ingressFrame_memWf (s : State) (h : Nat) (frame : List Byte) (badFcs : Bool) (hs : s.mem.wf = true) :
    (ingressFrame s h frame badFcs).mem.wf = true := by
  suffices ∀ t, t = ingressFrame s h frame badFcs → t.mem.wf = true from this _ rfl
  intro t ht; unfold ingressFrame at ht; split at ht
  · exact ht ▸ hs
  · split at ht
    · exact ht ▸ hs
    · split at ht
      · exact ht ▸ hs
      · dsimp only at ht
        rw [ht]; exact matchFrame_memWf _ _ _ _ _ _ (countUp_memWf _ _ hs)

theorem execIngressFrame_memWf (half : Nat) (frame : List Byte) (badFcs : Bool) (s : State)
    (hs : s.mem.wf = true) :
    ∀ σ, execIngressFrame half frame badFcs s = .next σ → σ.mem.wf = true := by
  grind [execIngressFrame, ingressFrame_memWf]

theorem execRetrainTimeout_memWf (link : LinkId) (s : State) (hs : s.mem.wf = true) :
    ∀ σ, execRetrainTimeout link s = .next σ → σ.mem.wf = true := by
  grind [execRetrainTimeout, setLinkState_memWf]

theorem execMscl_memWf (f : Fields) (s : State) (hs : s.mem.wf = true) :
    ∀ σ, execMscl f s = .next σ → σ.mem.wf = true := by
  grind [execMscl, Plain, KeepsRes, check_plain, preCheck_plain, engineCheck_plain, needTag_plain, needVar_plain,
    momentBody_plain, floatBody1_plain, matrixOp_plain, trap, computeV_memWf]

theorem execSfmul_memWf (f : Fields) (s : State) (hs : s.mem.wf = true) :
    ∀ σ, execSfmul f s = .next σ → σ.mem.wf = true := by
  grind [execSfmul, scalarF_memWf]

theorem execSfcvt_memWf (f : Fields) (s : State) (hs : s.mem.wf = true) :
    ∀ σ, execSfcvt f s = .next σ → σ.mem.wf = true := by
  grind [execSfcvt, Plain, KeepsRes, check_plain, preCheck_plain, engineCheck_plain, needTag_plain, needVar_plain,
    momentBody_plain, floatBody1_plain, matrixOp_plain, trap, computeV_memWf]

theorem execTmmag_memWf (f : Fields) (s : State) (hs : s.mem.wf = true) :
    ∀ σ, execTmmag f s = .next σ → σ.mem.wf = true := by
  grind [execTmmag, Plain, KeepsRes, check_plain, preCheck_plain, engineCheck_plain, needTag_plain, needVar_plain,
    momentBody_plain, floatBody1_plain, matrixOp_plain, trap, engine_memWf]

theorem execPendingWriteComplete_memWf (th : ThreadId) (tag : Nat) (s : State) (hs : s.mem.wf = true) :
    ∀ σ, execPendingWriteComplete th tag s = .next σ → σ.mem.wf = true := by
  simp [execPendingWriteComplete, *]

theorem execLineEviction_memWf (core : Nat) (line : Nat) (s : State) (hs : s.mem.wf = true) :
    ∀ σ, execLineEviction core line s = .next σ → σ.mem.wf = true := by
  grind [execLineEviction, sendHome_memWf]

theorem failCond_memWf (s : State) (a : Access) (l : LaneAcc) (hs : s.mem.wf = true) :
    (failCond s a l).mem.wf = true := by
  grind [failCond, onThread_memWf, runAccess_memWf, setAcc_memWf]

theorem performed_memWf (s : State) (a : Access) (l : LaneAcc) (old : Nat) (w0 : BitVec 16) (w : BitVec 16)
    (hs : s.mem.wf = true) :
    (performed s a l old w0 w).mem.wf = true := by
  grind [performed, onThread_memWf, noteRead_memWf, runAccess_memWf, setHome_memWf, setAcc_memWf, answerDeferred_memWf,
    push_memWf]

theorem grant_memWf (s : State) (ln : Nat) (c : Nat) (n : Nat) (hs : s.mem.wf = true) :
    (grant s ln c n).mem.wf = true := by
  grind [grant, ensureEntry_memWf, putCopy_memWf, onEntry_memWf, push_memWf]

theorem writeWis_memWf (s : State) (a : Access) (l : LaneAcc) (hs : s.mem.wf = true) :
    (writeWis s a l).mem.wf = true := by
  unfold writeWis; extract_lets ln s0 s1 w0 s2 old s3
  have h0 : s0.mem.wf = true := by
    unfold s0; split
    · exact ite_memWf (addShare_memWf _ _ _ _ hs) hs
    · exact hs
  exact performed_memWf _ _ _ _ _ _ (grant_memWf _ _ _ _ (Memory.wf_writeNat _ _ _ _
    (onEntry_memWf _ _ _ (gatherAll_memWf _ _ (breakHomeResv_memWf _ _ _ h0)))))

theorem performAtHome_memWf (s : State) (a : Access) (l : LaneAcc) (hs : s.mem.wf = true) :
    (performAtHome s a l).mem.wf = true := by
  grind [performAtHome, setService_memWf, performed_memWf, writeWis_memWf, onEntry_memWf, push_memWf, opHome_memWf]

theorem serveWrite_memWf (s0 : State) (acc : Nat) (lane : Nat) (hs0 : s0.mem.wf = true) :
    (serveWrite s0 acc lane).mem.wf = true := by
  grind [serveWrite, whenFree_memWf, ensureEntry_memWf, settle_memWf, failCond_memWf, contact_memWf, performAtHome_memWf]

theorem execHomeWrite_memWf (acc : Nat) (lane : Nat) (s : State) (hs : s.mem.wf = true) :
    ∀ σ, execHomeWrite acc lane s = .next σ → σ.mem.wf = true := by
  grind [execHomeWrite, serveWrite_memWf]

theorem execMtanh_memWf (f : Fields) (s : State) (hs : s.mem.wf = true) :
    ∀ σ, execMtanh f s = .next σ → σ.mem.wf = true := by
  grind [execMtanh, moment1_memWf]

theorem execSsel_memWf (f : Fields) (s : State) (hs : s.mem.wf = true) :
    ∀ σ, execSsel f s = .next σ → σ.mem.wf = true := by
  grind [execSsel, Plain, KeepsRes, check_plain, preCheck_plain, engineCheck_plain, needTag_plain, needVar_plain,
    momentBody_plain, floatBody1_plain, matrixOp_plain, trap, computeV_memWf]

theorem execSatm_memWf (f : Fields) (s : State) (hs : s.mem.wf = true) :
    ∀ σ, execSatm f s = .next σ → σ.mem.wf = true := by
  grind [execSatm, Plain, KeepsRes, check_plain, preCheck_plain, engineCheck_plain, needTag_plain, needVar_plain,
    momentBody_plain, floatBody1_plain, matrixOp_plain, trap, mem_memWf]

theorem halfState_memWf (s : State) (h : Nat) (up : Bool) (hs : s.mem.wf = true) :
    (halfState s h up).mem.wf = true := by
  grind [halfState, setPort_memWf, paWrite_memWf]

theorem execPortHalfUp_memWf (half : Nat) (s : State) (hs : s.mem.wf = true) :
    ∀ σ, execPortHalfUp half s = .next σ → σ.mem.wf = true := by
  grind [execPortHalfUp, halfState_memWf]

theorem execSfst_memWf (f : Fields) (s : State) (hs : s.mem.wf = true) :
    ∀ σ, execSfst f s = .next σ → σ.mem.wf = true := by
  grind [execSfst, Plain, KeepsRes, check_plain, preCheck_plain, engineCheck_plain, needTag_plain, needVar_plain,
    momentBody_plain, floatBody1_plain, matrixOp_plain, trap, mem_memWf]

theorem couplingDisable_memWf (s : State) (k : Nat) (hs : s.mem.wf = true) :
    (couplingDisable s k).mem.wf = true := by
  grind [couplingDisable, setLinkState_memWf]

theorem execCouplingDisable_memWf (coupling : Nat) (s : State) (hs : s.mem.wf = true) :
    ∀ σ, execCouplingDisable coupling s = .next σ → σ.mem.wf = true := by
  grind [execCouplingDisable, couplingDisable_memWf]

theorem execSmcnt_memWf (f : Fields) (s : State) (hs : s.mem.wf = true) :
    ∀ σ, execSmcnt f s = .next σ → σ.mem.wf = true := by
  grind [execSmcnt, Plain, KeepsRes, check_plain, preCheck_plain, engineCheck_plain, needTag_plain, needVar_plain,
    momentBody_plain, floatBody1_plain, matrixOp_plain, trap, computeV_memWf]

theorem execMst_memWf (f : Fields) (s : State) (hs : s.mem.wf = true) :
    ∀ σ, execMst f s = .next σ → σ.mem.wf = true := by
  grind [execMst, Plain, KeepsRes, check_plain, preCheck_plain, engineCheck_plain, needTag_plain, needVar_plain,
    momentBody_plain, floatBody1_plain, matrixOp_plain, trap, memBody_memWf, control_memWf]

theorem execSfcmp_memWf (f : Fields) (s : State) (hs : s.mem.wf = true) :
    ∀ σ, execSfcmp f s = .next σ → σ.mem.wf = true := by
  grind [execSfcmp, scalarF_memWf]

theorem fillSlot_memWf (s : State) (k : Nat) (p : Nat) (members : List Nat) (hs : s.mem.wf = true) :
    (fillSlot s k p members).mem.wf = true := by
  grind [fillSlot, drawCode_memWf, setSlot_memWf]

theorem endRegroup_memWf (s : State) (die : Nat) (hs : s.mem.wf = true) : (endRegroup s die).mem.wf = true := by
  unfold endRegroup; (try dsimp only); (repeat' (first
    | assumption | split | (with_reducible refine foldl_memWf _ _ ?_ _ ?_; intro s x h)
    | with_reducible refine foldl_memWf _ _ ?_ _ ?_ | with_reducible apply setDie_memWf
    | with_reducible apply setSlot_memWf | with_reducible apply mapThreads_memWf
    | with_reducible apply fillSlot_memWf )) <;> grind [KeepsRes, setDie_memWf, setSlot_memWf, mapThreads_memWf,
    fillSlot_memWf]

theorem execRegroupEventEnd_memWf (die : Nat) (s : State) (hs : s.mem.wf = true) :
    ∀ σ, execRegroupEventEnd die s = .next σ → σ.mem.wf = true := by
  grind [execRegroupEventEnd, endRegroup_memWf]

theorem execDtbeg_memWf (f : Fields) (s : State) (hs : s.mem.wf = true) :
    ∀ σ, execDtbeg f s = .next σ → σ.mem.wf = true := by
  grind [execDtbeg, Plain, KeepsRes, check_plain, preCheck_plain, engineCheck_plain, needTag_plain, needVar_plain,
    momentBody_plain, floatBody1_plain, matrixOp_plain, trap, finish_memWf, setKernel_memWf, control_memWf]

theorem readWt_memWf (s : State) (a : Access) (ln : Nat) (bs : List Byte) (hs : s.mem.wf = true) :
    (readWt s a ln bs).mem.wf = true := by
  grind [readWt, readCopy_memWf, runAccess_memWf]

theorem serveWtLoad_memWf (s0 : State) (acc : Nat) (ln : Nat) (hs0 : s0.mem.wf = true) :
    (serveWtLoad s0 acc ln).mem.wf = true := by
  grind [serveWtLoad, whenFree_memWf, setService_memWf, ensureEntry_memWf, settle_memWf, contact_memWf, readWt_memWf,
    push_memWf]

theorem execHomeWtLoad_memWf (acc : Nat) (line : Nat) (s : State) (hs : s.mem.wf = true) :
    ∀ σ, execHomeWtLoad acc line s = .next σ → σ.mem.wf = true := by
  grind [execHomeWtLoad, serveWtLoad_memWf]

theorem departureFire_memWf (s : State) (p : Nat) (kn : Nat) (core : Nat) (hs : s.mem.wf = true) :
    (departureFire s p kn core).mem.wf = true := by
  grind [departureFire, setKernel_memWf, mapThreads_memWf, discardLeases_memWf]

theorem execDepartureFire_memWf (part : Nat) (kern : Nat) (core : Nat) (s : State) (hs : s.mem.wf = true) :
    ∀ σ, execDepartureFire part kern core s = .next σ → σ.mem.wf = true := by
  grind [execDepartureFire, departureFire_memWf]

theorem sleepExpiry_memWf (s : State) (id : ThreadId) (hs : s.mem.wf = true) :
    (sleepExpiry s id).mem.wf = true := by
  simp [sleepExpiry, *]

theorem execSleepExpiry_memWf (th : ThreadId) (s : State) (hs : s.mem.wf = true) :
    ∀ σ, execSleepExpiry th s = .next σ → σ.mem.wf = true := by
  grind [execSleepExpiry, sleepExpiry_memWf]

theorem execKctlKill_memWf (part : Nat) (kern : Nat) (s : State) (hs : s.mem.wf = true) :
    ∀ σ, execKctlKill part kern s = .next σ → σ.mem.wf = true := by
  grind [execKctlKill, killKernel_memWf]

theorem execVsub_memWf (f : Fields) (s : State) (hs : s.mem.wf = true) :
    ∀ σ, execVsub f s = .next σ → σ.mem.wf = true := by
  grind [execVsub, vector2_memWf]

theorem execMcfgMcr_memWf (f : Fields) (s : State) (hs : s.mem.wf = true) :
    ∀ σ, execMcfgMcr f s = .next σ → σ.mem.wf = true := by
  grind [execMcfgMcr, Plain, KeepsRes, check_plain, preCheck_plain, engineCheck_plain, needTag_plain, needVar_plain,
    momentBody_plain, floatBody1_plain, matrixOp_plain, trap, compute_memWf]

theorem execSshr_memWf (f : Fields) (s : State) (hs : s.mem.wf = true) :
    ∀ σ, execSshr f s = .next σ → σ.mem.wf = true := by
  grind [execSshr, scalar2_memWf]

theorem execSrem_memWf (f : Fields) (s : State) (hs : s.mem.wf = true) :
    ∀ σ, execSrem f s = .next σ → σ.mem.wf = true := by
  grind [execSrem, scalar2_memWf]

theorem engPlace_memWf (s : State) (th : Thread) (o : EngOpRec) (a : EngAddr) (x : Nat) (write : Bool)
    (hs : s.mem.wf = true) :
    ∀ ν σ, engPlace s th o a x write = .ok (ν, σ) → σ.mem.wf = true := by
  grind [engPlace, locate_memWf]

theorem engCross_memWf (s : State) (c : Nat) (ln : Nat) (hs : s.mem.wf = true) :
    (engCross s c ln).mem.wf = true := by
  grind [engCross, sendCrossing_memWf]

theorem engContact_memWf (s : State) (c : Nat) (ln : Nat) (hs : s.mem.wf = true) :
    (engContact s c ln).mem.wf = true := by
  grind [engContact, dropLease_memWf, contact_memWf, engCross_memWf]

theorem engWis_memWf (s : State) (id : ThreadId) (c : Nat) (key : Nat) (x : Nat) (hs : s.mem.wf = true) :
    (engWis s id c key x).mem.wf = true := by
  unfold engWis; extract_lets ln s0 s1 s2 s3
  have h0 : s0.mem.wf = true := ensureEntry_memWf _ _ (settle_memWf _ _ (engContact_memWf _ _ _ hs))
  have h1 : s1.mem.wf = true := by
    unfold s1; split
    · exact ite_memWf (addShare_memWf _ _ _ _ h0) h0
    · exact h0
  have h2 : s2.mem.wf = true := gatherAll_memWf _ _ (breakHomeResv_memWf _ _ _ h1)
  have h3 : s3.mem.wf = true := onEntry_memWf _ _ _ h2
  clear_value s3
  exact grant_memWf _ _ _ _ (Memory.wf_writeNat _ _ _ _ h3)

theorem engHome_memWf (s : State) (id : ThreadId) (c : Nat) (key : Nat) (x : Nat) (hs : s.mem.wf = true) :
    (engHome s id c key x).1.mem.wf = true := by
  grind [engHome, engContact_memWf, addShare_memWf, opHome_memWf]

theorem choose_memWf (s : State) (n : Nat) (hs : s.mem.wf = true) : (State.choose s n).2.mem.wf = true := by
  simp [State.choose, *]

theorem obtainTokens_memWf (s : State) (c : Nat) (ln : Nat) (pol : Nat) (all : Bool) (hs : s.mem.wf = true) :
    (obtainTokens s c ln pol all).mem.wf = true := by
  unfold obtainTokens; extract_lets s1 e ask
  have h1 : s1.mem.wf = true := ensureEntry_memWf _ _ (settle_memWf _ _ (contact_memWf _ _ _ (engCross_memWf _ _ _ hs)))
  have h2 : ∀ s h n, s.mem.wf = true → (ask s h n).mem.wf = true := fun s h n hs =>
    addShare_memWf _ _ _ _ (giveTokens_memWf _ _ _ _ hs)
  refine ite_memWf (grant_memWf _ _ _ _ (foldl_memWf _ _ (fun s x h => h2 _ _ _ h) _ h1))
    (ite_memWf (grant_memWf _ _ _ _ h1) (ite_memWf (grant_memWf _ _ _ _ h1) ?_))
  split
  · exact h1
  · rename_i os _
    have hc := choose_memWf s1 (os.length + 1) h1
    split
    rename_i e; rw [e] at hc
    exact grant_memWf _ _ _ _ (h2 _ _ _ hc)

theorem engOwn_memWf (s : State) (id : ThreadId) (c : Nat) (key : Nat) (x : Nat) (hs : s.mem.wf = true) :
    (engOwn s id c key x).mem.wf = true := by
  grind [engOwn, breakResv_memWf, dropLease_memWf, putCopy_memWf, breakHomeResv_memWf, engHome_memWf, obtainTokens_memWf]

theorem engStore_memWf (s : State) (id : ThreadId) (c : Nat) (key : Nat) (pol : Nat) (x : Nat)
    (hs : s.mem.wf = true) :
    (engStore s id c key pol x).mem.wf = true := by
  grind [engStore, raiseClock_memWf, engWis_memWf, engOwn_memWf, engHome_memWf]

theorem countEngine_memWf (s : State) (c : Nat) (kind : BaseKind) (key : Nat) (n : Nat) (hs : s.mem.wf = true) :
    (countEngine s c kind key n).mem.wf = true := by
  grind [countEngine, addShare_memWf]

theorem engWrite_memWf (s : State) (o : EngOpRec) (a : EngAddr) (x : Nat) (v : Nat) (hs : s.mem.wf = true) :
    ∀ σ, engWrite s o a x v = .ok σ → σ.mem.wf = true := by
  grind [engWrite, enableAgains_memWf, engPlace_memWf, engStore_memWf, setThread_memWf, countEngine_memWf]

theorem obtainLease_memWf (s : State) (c : Nat) (ln : Nat) (lease : BitVec 8) (hs : s.mem.wf = true) :
    (obtainLease s c ln lease).mem.wf = true := by
  grind [obtainLease, ensureEntry_memWf, settle_memWf, contact_memWf, engCross_memWf, putCopy_memWf, addShare_memWf,
    onEntry_memWf, absorb_memWf]

theorem engLoad_memWf (s : State) (c : Nat) (key : Nat) (n : Nat) (pol : Nat) (lease : BitVec 8)
    (hs : s.mem.wf = true) :
    (engLoad s c key n pol lease).2.mem.wf = true := by
  grind [engLoad, ensureEntry_memWf, settle_memWf, contact_memWf, engCross_memWf, addShare_memWf, obtainLease_memWf,
    obtainTokens_memWf]

theorem engRead_memWf (s : State) (o : EngOpRec) (a : EngAddr) (x : Nat) (n : Nat) (hs : s.mem.wf = true) :
    ∀ ν σ, engRead s o a x n = .ok (ν, σ) → σ.mem.wf = true := by
  grind [engRead, engPlace_memWf, engLoad_memWf, countEngine_memWf]

theorem copyWord_memWf (s : State) (o : EngOpRec) (src : Nat) (dst : Nat) (hs : s.mem.wf = true) :
    (copyWord s o src dst).2.2.mem.wf = true := by
  fun_cases copyWord s o src dst
  · exact hs
  · exact hs
  · rename_i h1 _ h2; exact engWrite_memWf _ _ _ _ _ (engRead_memWf _ _ _ _ _ hs _ _ h1) _ h2

theorem blockWrites_memWf (x : Nat) (x1 : List Nat) (x2 : EngOpRec) (x3 : State) (hx3 : x3.mem.wf = true) :
    (blockWrites x x1 x2 x3).2.2.mem.wf = true := by
  fun_induction blockWrites x x1 x2 x3 <;> grind [engWrite_memWf]

theorem copyBlock_memWf (s : State) (o : EngOpRec) (b : Nat) (hs : s.mem.wf = true) :
    (copyBlock s o b).2.2.mem.wf = true := by
  fun_cases copyBlock s o b
  · exact hs
  · exact hs
  · rename_i h1 _ _ h2
    exact blockWrites_memWf _ _ _ _ (engRead_memWf _ _ _ _ _ (engRead_memWf _ _ _ _ _ hs _ _ h1) _ _ h2)

theorem copyElem_memWf (s : State) (o : EngOpRec) (e : Nat) (hs : s.mem.wf = true) :
    (copyElem s o e).2.2.mem.wf = true := by
  grind [copyElem, copyWord_memWf, copyBlock_memWf]

theorem runCopy_memWf (x0 : Nat) (x1 : EngOpRec) (x2 : State) (hx2 : x2.mem.wf = true) :
    (runCopy x0 x1 x2).2.2.mem.wf = true := by
  fun_induction runCopy x0 x1 x2 <;> grind [copyElem_memWf]

theorem engineStart_memWf (s : State) (core : Nat) (e : EngineSel) (hs : s.mem.wf = true) :
    (engineStart s core e).mem.wf = true := by
  unfold engineStart; split
  · exact hs
  · extract_lets run
    have hr : ∀ s o, s.mem.wf = true → (run s o).mem.wf = true := fun s o h => push_memWf _ _ (setEngOp_memWf _ _ _ _ h)
    split
    · exact hr _ _ hs
    · have h1 := fun n o => runCopy_memWf n o s hs
      split
      rename_i o1 stop s1 e
      have h2 : s1.mem.wf = true := by
        exact (congrArg (fun r : Course => r.2.2.mem.wf = true) e).mp (h1 _ _)
      split
      · exact hr _ _ h2
      · exact setEngOp_memWf _ _ _ _ h2
      · exact setEngOp_memWf _ _ _ _ h2
      · exact ite_memWf (raiseCart_memWf _ _ _ _ _ _ _ _ _ (setEngOp_memWf _ _ _ _ h2)) (hr _ _ h2)

theorem execEngineOpStart_memWf (core : Nat) (engine : EngineSel) (s : State) (hs : s.mem.wf = true) :
    ∀ σ, execEngineOpStart core engine s = .next σ → σ.mem.wf = true := by
  grind [execEngineOpStart, engineStart_memWf]

theorem scopeOp_memWf (i : Instr) (f : Fields) (freeze : Bool) (body : State → Thread → Thread × Value)
    (s : State) (hs : s.mem.wf = true) :
    ∀ σ, scopeOp i f freeze body s = .next σ → σ.mem.wf = true := by
  unfold scopeOp; (try dsimp only); (repeat' (first
    | assumption | split | (with_reducible refine foldl_memWf _ _ ?_ _ ?_; intro s x h)
    | with_reducible refine foldl_memWf _ _ ?_ _ ?_ | with_reducible apply finish_memWf
    | with_reducible apply control_memWf )) <;> grind [KeepsRes, finish_memWf, control_memWf]

theorem execScget_memWf (f : Fields) (s : State) (hs : s.mem.wf = true) :
    ∀ σ, execScget f s = .next σ → σ.mem.wf = true := by
  grind [execScget, scopeOp_memWf]

theorem execSfld_memWf (f : Fields) (s : State) (hs : s.mem.wf = true) :
    ∀ σ, execSfld f s = .next σ → σ.mem.wf = true := by
  grind [execSfld, Plain, KeepsRes, check_plain, preCheck_plain, engineCheck_plain, needTag_plain, needVar_plain,
    momentBody_plain, floatBody1_plain, matrixOp_plain, trap, mem_memWf]

theorem writeLeafField_memWf (s : State) (pte : Nat) (lo : Nat) (n : Nat) (x : Nat) (hs : s.mem.wf = true) :
    (writeLeafField s pte lo n x).mem.wf = true := by
  grind [writeLeafField, paWrite_memWf]

theorem endPin_memWf (s : State) (p : Nat) (leaf : Nat) (hs : s.mem.wf = true) :
    (endPin s p leaf).mem.wf = true := by
  grind [endPin, setPart_memWf, writeLeafField_memWf]

theorem execPinEnd_memWf (part : Nat) (leaf : Nat) (s : State) (hs : s.mem.wf = true) :
    ∀ σ, execPinEnd part leaf s = .next σ → σ.mem.wf = true := by
  grind [execPinEnd, endPin_memWf]

theorem drained_memWf (s : State) (id : ThreadId) (hs : s.mem.wf = true) : (drained s id).mem.wf = true := by
  grind [drained, releaseStream_memWf, afterRetirement_memWf, becomeRetired_memWf]

theorem execDrained_memWf (th : ThreadId) (s : State) (hs : s.mem.wf = true) :
    ∀ σ, execDrained th s = .next σ → σ.mem.wf = true := by
  grind [execDrained, drained_memWf]

theorem removeTranslations_memWf (s : State) (p : Nat) (test : Nat → Bool) (gone : Leaf → Bool)
    (hs : s.mem.wf = true) :
    (removeTranslations s p test gone).mem.wf = true := by
  unfold removeTranslations; (try dsimp only); (repeat' (first
    | assumption | split | (with_reducible refine foldl_memWf _ _ ?_ _ ?_; intro s x h)
    | with_reducible refine foldl_memWf _ _ ?_ _ ?_ | with_reducible apply setCore_memWf
    | with_reducible apply mapThreads_memWf )) <;> grind [KeepsRes, setCore_memWf, mapThreads_memWf]

theorem tlbi_memWf (i : Instr) (f : Fields) (test : State → Nat → Thread → Nat → Bool)
    (gone : Thread → Leaf → Bool) (s : State) (hs : s.mem.wf = true) :
    ∀ σ, tlbi i f test gone s = .next σ → σ.mem.wf = true := by
  unfold tlbi; (try dsimp only); (repeat' (first
    | assumption | split | (with_reducible refine foldl_memWf _ _ ?_ _ ?_; intro s x h)
    | with_reducible refine foldl_memWf _ _ ?_ _ ?_ | with_reducible apply removeTranslations_memWf
    | with_reducible apply finish_memWf | with_reducible apply stall_memWf
    | with_reducible apply control_memWf )) <;> grind [KeepsRes, removeTranslations_memWf, finish_memWf, stall_memWf,
    control_memWf]

theorem execTlbiCtx_memWf (f : Fields) (s : State) (hs : s.mem.wf = true) :
    ∀ σ, execTlbiCtx f s = .next σ → σ.mem.wf = true := by
  grind [execTlbiCtx, tlbi_memWf]

theorem execVcvt_memWf (f : Fields) (s : State) (hs : s.mem.wf = true) :
    ∀ σ, execVcvt f s = .next σ → σ.mem.wf = true := by
  grind [execVcvt, Plain, KeepsRes, check_plain, preCheck_plain, engineCheck_plain, needTag_plain, needVar_plain,
    momentBody_plain, floatBody1_plain, matrixOp_plain, trap, computeV_memWf]

theorem fetchFault_memWf (s : State) (cause : FetchCause) (hs : s.mem.wf = true) :
    (fetchFault s cause).mem.wf = true := by
  unfold fetchFault; (try dsimp only); (repeat' (first
    | assumption | split | (with_reducible refine foldl_memWf _ _ ?_ _ ?_; intro s x h)
    | with_reducible refine foldl_memWf _ _ ?_ _ ?_ | with_reducible apply takeTrap_memWf
    | with_reducible apply takePark_memWf )) <;> grind [KeepsRes, takeTrap_memWf, takePark_memWf]

theorem execFetchFault_memWf (cause : FetchCause) (s : State) (hs : s.mem.wf = true) :
    ∀ σ, execFetchFault cause s = .next σ → σ.mem.wf = true := by
  grind [execFetchFault, fetchFault_memWf]

theorem execSadd_memWf (f : Fields) (s : State) (hs : s.mem.wf = true) :
    ∀ σ, execSadd f s = .next σ → σ.mem.wf = true := by
  grind [execSadd, scalar2_memWf]

theorem grantLease_memWf (s : State) (a : Access) (ln : Nat) (hs : s.mem.wf = true) :
    (grantLease s a ln).mem.wf = true := by
  grind [grantLease, readCopy_memWf, runAccess_memWf, putCopy_memWf, onEntry_memWf]

theorem serveSisLoad_memWf (s0 : State) (acc : Nat) (ln : Nat) (hs0 : s0.mem.wf = true) :
    (serveSisLoad s0 acc ln).mem.wf = true := by
  grind [serveSisLoad, whenFree_memWf, setService_memWf, ensureEntry_memWf, settle_memWf, contact_memWf,
    runAccess_memWf, grantLease_memWf, push_memWf]

theorem execHomeSisLoad_memWf (acc : Nat) (line : Nat) (s : State) (hs : s.mem.wf = true) :
    ∀ σ, execHomeSisLoad acc line s = .next σ → σ.mem.wf = true := by
  grind [execHomeSisLoad, serveSisLoad_memWf]

theorem execCp_memWf (f : Fields) (s : State) (hs : s.mem.wf = true) :
    ∀ σ, execCp f s = .next σ → σ.mem.wf = true := by
  grind [execCp, Plain, KeepsRes, check_plain, preCheck_plain, engineCheck_plain, needTag_plain, needVar_plain,
    momentBody_plain, floatBody1_plain, matrixOp_plain, trap, engine_memWf]

theorem execSrsv_memWf (f : Fields) (s : State) (hs : s.mem.wf = true) :
    ∀ σ, execSrsv f s = .next σ → σ.mem.wf = true := by
  grind [execSrsv, Plain, KeepsRes, check_plain, preCheck_plain, engineCheck_plain, needTag_plain, needVar_plain,
    momentBody_plain, floatBody1_plain, matrixOp_plain, trap, mem_memWf]

theorem execCpg_memWf (f : Fields) (s : State) (hs : s.mem.wf = true) :
    ∀ σ, execCpg f s = .next σ → σ.mem.wf = true := by
  grind [execCpg, Plain, KeepsRes, check_plain, preCheck_plain, engineCheck_plain, needTag_plain, needVar_plain,
    momentBody_plain, floatBody1_plain, matrixOp_plain, trap, engine_memWf]

theorem execVshr_memWf (f : Fields) (s : State) (hs : s.mem.wf = true) :
    ∀ σ, execVshr f s = .next σ → σ.mem.wf = true := by
  grind [execVshr, vector2_memWf]

theorem execMfma_memWf (f : Fields) (s : State) (hs : s.mem.wf = true) :
    ∀ σ, execMfma f s = .next σ → σ.mem.wf = true := by
  grind [execMfma, Plain, KeepsRes, check_plain, preCheck_plain, engineCheck_plain, needTag_plain, needVar_plain,
    momentBody_plain, floatBody1_plain, matrixOp_plain, trap, computeV_memWf]

theorem execVldu_memWf (f : Fields) (s : State) (hs : s.mem.wf = true) :
    ∀ σ, execVldu f s = .next σ → σ.mem.wf = true := by
  grind [execVldu, Plain, KeepsRes, check_plain, preCheck_plain, engineCheck_plain, needTag_plain, needVar_plain,
    momentBody_plain, floatBody1_plain, matrixOp_plain, trap, mem_memWf]

theorem serveTokenRequest_memWf (s0 : State) (acc : Nat) (ln : Nat) (hs0 : s0.mem.wf = true) :
    (serveTokenRequest s0 acc ln).mem.wf = true := by
  grind [serveTokenRequest, whenFree_memWf, setService_memWf, ensureEntry_memWf, contact_memWf, runAccess_memWf,
    failRequest_memWf, choose_memWf, push_memWf, grant_memWf]

theorem execHomeTokenRequest_memWf (acc : Nat) (line : Nat) (s : State) (hs : s.mem.wf = true) :
    ∀ σ, execHomeTokenRequest acc line s = .next σ → σ.mem.wf = true := by
  grind [execHomeTokenRequest, serveTokenRequest_memWf]

theorem execCwb_memWf (f : Fields) (s : State) (hs : s.mem.wf = true) :
    ∀ σ, execCwb f s = .next σ → σ.mem.wf = true := by
  grind [execCwb, lineOp_memWf]

theorem execMld_memWf (f : Fields) (s : State) (hs : s.mem.wf = true) :
    ∀ σ, execMld f s = .next σ → σ.mem.wf = true := by
  grind [execMld, Plain, KeepsRes, check_plain, preCheck_plain, engineCheck_plain, needTag_plain, needVar_plain,
    momentBody_plain, floatBody1_plain, matrixOp_plain, trap, mem_memWf]

theorem execSmred_memWf (f : Fields) (s : State) (hs : s.mem.wf = true) :
    ∀ σ, execSmred f s = .next σ → σ.mem.wf = true := by
  grind [execSmred, Plain, KeepsRes, check_plain, preCheck_plain, engineCheck_plain, needTag_plain, needVar_plain,
    momentBody_plain, floatBody1_plain, matrixOp_plain, trap, mem_memWf]

theorem execSgtime_memWf (f : Fields) (s : State) (hs : s.mem.wf = true) :
    ∀ σ, execSgtime f s = .next σ → σ.mem.wf = true := by
  grind [execSgtime, Plain, KeepsRes, check_plain, preCheck_plain, engineCheck_plain, needTag_plain, needVar_plain,
    momentBody_plain, floatBody1_plain, matrixOp_plain, trap, compute_memWf]

theorem execVand_memWf (f : Fields) (s : State) (hs : s.mem.wf = true) :
    ∀ σ, execVand f s = .next σ → σ.mem.wf = true := by
  grind [execVand, vector2_memWf]

theorem sendNak_memWf (s0 : State) (l : LinkId) (hs0 : s0.mem.wf = true) : (sendNak s0 l).mem.wf = true := by
  unfold sendNak; (try dsimp only); (repeat' (first
    | assumption | split | (with_reducible refine foldl_memWf _ _ ?_ _ ?_; intro s x h)
    | with_reducible refine foldl_memWf _ _ ?_ _ ?_ | with_reducible apply nakReceive_memWf
    | with_reducible apply setLink_memWf )) <;> grind [KeepsRes, nakReceive_memWf, setLink_memWf]

theorem execNakRepeat_memWf (link : LinkId) (s : State) (hs : s.mem.wf = true) :
    ∀ σ, execNakRepeat link s = .next σ → σ.mem.wf = true := by
  grind [execNakRepeat, sendNak_memWf]

theorem vector1_memWf (i : Instr) (f : Fields) (op : BitVec 4 → Nat → Nat → Nat) (s : State)
    (hs : s.mem.wf = true) :
    ∀ σ, vector1 i f op s = .next σ → σ.mem.wf = true := by
  grind [vector1, Plain, KeepsRes, check_plain, preCheck_plain, engineCheck_plain, needTag_plain, needVar_plain,
    momentBody_plain, floatBody1_plain, matrixOp_plain, trap, computeV_memWf]

theorem execVpopc_memWf (f : Fields) (s : State) (hs : s.mem.wf = true) :
    ∀ σ, execVpopc f s = .next σ → σ.mem.wf = true := by
  grind [execVpopc, vector1_memWf]

theorem serveFill_memWf (s0 : State) (acc : Nat) (lane : Nat) (hs0 : s0.mem.wf = true) :
    (serveFill s0 acc lane).mem.wf = true := by
  grind [serveFill, whenFree_memWf, ensureEntry_memWf, settle_memWf, contact_memWf, performAtHome_memWf]

theorem execFutureFill_memWf (acc : Nat) (lane : Nat) (s : State) (hs : s.mem.wf = true) :
    ∀ σ, execFutureFill acc lane s = .next σ → σ.mem.wf = true := by
  grind [execFutureFill, serveFill_memWf]

theorem execKlaunch_memWf (f : Fields) (s : State) (hs : s.mem.wf = true) :
    ∀ σ, execKlaunch f s = .next σ → σ.mem.wf = true := by
  grind [execKlaunch, launchOp_memWf]

theorem execBset_memWf (f : Fields) (s : State) (hs : s.mem.wf = true) :
    ∀ σ, execBset f s = .next σ → σ.mem.wf = true := by
  unfold execBset; (try dsimp only); (repeat' (first
    | assumption | split | (with_reducible refine foldl_memWf _ _ ?_ _ ?_; intro s x h)
    | with_reducible refine foldl_memWf _ _ ?_ _ ?_ | with_reducible apply finish_memWf
    | with_reducible apply lookupFor_memWf | with_reducible apply control_memWf )) <;> grind [KeepsRes, finish_memWf,
    lookupFor_memWf, control_memWf]

theorem execSrd_memWf (f : Fields) (s : State) (hs : s.mem.wf = true) :
    ∀ σ, execSrd f s = .next σ → σ.mem.wf = true := by
  exact compute_memWf _ _ _ _ (by simp [Plain]) hs

theorem execVfld_memWf (f : Fields) (s : State) (hs : s.mem.wf = true) :
    ∀ σ, execVfld f s = .next σ → σ.mem.wf = true := by
  grind [execVfld, Plain, KeepsRes, check_plain, preCheck_plain, engineCheck_plain, needTag_plain, needVar_plain,
    momentBody_plain, floatBody1_plain, matrixOp_plain, trap, mem_memWf]

theorem execMmov_memWf (f : Fields) (s : State) (hs : s.mem.wf = true) :
    ∀ σ, execMmov f s = .next σ → σ.mem.wf = true := by
  grind [execMmov, Plain, KeepsRes, check_plain, preCheck_plain, engineCheck_plain, needTag_plain, needVar_plain,
    momentBody_plain, floatBody1_plain, matrixOp_plain, trap, computeV_memWf]

theorem execVlid_memWf (f : Fields) (s : State) (hs : s.mem.wf = true) :
    ∀ σ, execVlid f s = .next σ → σ.mem.wf = true := by
  grind [execVlid, Plain, KeepsRes, check_plain, preCheck_plain, engineCheck_plain, needTag_plain, needVar_plain,
    momentBody_plain, floatBody1_plain, matrixOp_plain, trap, computeV_memWf]

theorem execVadd_memWf (f : Fields) (s : State) (hs : s.mem.wf = true) :
    ∀ σ, execVadd f s = .next σ → σ.mem.wf = true := by
  grind [execVadd, vector2_memWf]

theorem qcmdDrain_memWf (s : State) (p : Nat) (i : Nat) (hs : s.mem.wf = true) :
    (qcmdDrain s p i).mem.wf = true := by
  grind [qcmdDrain, qcmdResult_memWf, setQueue_memWf, qcmd_memWf, drainCheck_memWf]

theorem execQcmdDrain_memWf (part : Nat) (index : Nat) (s : State) (hs : s.mem.wf = true) :
    ∀ σ, execQcmdDrain part index s = .next σ → σ.mem.wf = true := by
  grind [execQcmdDrain, qcmdDrain_memWf]

theorem execBinv_memWf (f : Fields) (s : State) (hs : s.mem.wf = true) :
    ∀ σ, execBinv f s = .next σ → σ.mem.wf = true := by
  grind [execBinv, Plain, KeepsRes, check_plain, preCheck_plain, engineCheck_plain, needTag_plain, needVar_plain,
    momentBody_plain, floatBody1_plain, matrixOp_plain, trap, compute_memWf]

theorem execTrainingTimeout_memWf (link : LinkId) (s : State) (hs : s.mem.wf = true) :
    ∀ σ, execTrainingTimeout link s = .next σ → σ.mem.wf = true := by
  grind [execTrainingTimeout, setLinkState_memWf]

theorem execVget_memWf (f : Fields) (s : State) (hs : s.mem.wf = true) :
    ∀ σ, execVget f s = .next σ → σ.mem.wf = true := by
  grind [execVget, Plain, KeepsRes, check_plain, preCheck_plain, engineCheck_plain, needTag_plain, needVar_plain,
    momentBody_plain, floatBody1_plain, matrixOp_plain, trap, computeV_memWf]

theorem execVfadd_memWf (f : Fields) (s : State) (hs : s.mem.wf = true) :
    ∀ σ, execVfadd f s = .next σ → σ.mem.wf = true := by
  grind [execVfadd, vfloat2_memWf]

theorem execSandn_memWf (f : Fields) (s : State) (hs : s.mem.wf = true) :
    ∀ σ, execSandn f s = .next σ → σ.mem.wf = true := by
  grind [execSandn, scalar2_memWf]

theorem execVfabs_memWf (f : Fields) (s : State) (hs : s.mem.wf = true) :
    ∀ σ, execVfabs f s = .next σ → σ.mem.wf = true := by
  grind [execVfabs, vfloat1_memWf]

theorem execVfsin_memWf (f : Fields) (s : State) (hs : s.mem.wf = true) :
    ∀ σ, execVfsin f s = .next σ → σ.mem.wf = true := by
  grind [execVfsin, vfloatSfu_memWf]

theorem execVhist_memWf (f : Fields) (s : State) (hs : s.mem.wf = true) :
    ∀ σ, execVhist f s = .next σ → σ.mem.wf = true := by
  grind [execVhist, Plain, KeepsRes, check_plain, preCheck_plain, engineCheck_plain, needTag_plain, needVar_plain,
    momentBody_plain, floatBody1_plain, matrixOp_plain, trap, computeV_memWf]

theorem execVmad_memWf (f : Fields) (s : State) (hs : s.mem.wf = true) :
    ∀ σ, execVmad f s = .next σ → σ.mem.wf = true := by
  grind [execVmad, Plain, KeepsRes, check_plain, preCheck_plain, engineCheck_plain, needTag_plain, needVar_plain,
    momentBody_plain, floatBody1_plain, matrixOp_plain, trap, computeV_memWf]

theorem execSlea_memWf (f : Fields) (s : State) (hs : s.mem.wf = true) :
    ∀ σ, execSlea f s = .next σ → σ.mem.wf = true := by
  grind [execSlea, Plain, KeepsRes, check_plain, preCheck_plain, engineCheck_plain, needTag_plain, needVar_plain,
    momentBody_plain, floatBody1_plain, matrixOp_plain, trap, computeV_memWf]

theorem pltDistribution_memWf (s : State) (part : Nat) (hs : s.mem.wf = true) :
    (pltDistribution s part).mem.wf = true := by
  unfold pltDistribution; (try dsimp only); (repeat' (first
    | assumption | split | (with_reducible refine foldl_memWf _ _ ?_ _ ?_; intro s x h)
    | with_reducible refine foldl_memWf _ _ ?_ _ ?_ | with_reducible apply setPart_memWf
    | with_reducible apply pullUp_memWf | with_reducible apply setHome_memWf )) <;> grind [KeepsRes, setPart_memWf,
    pullUp_memWf, setHome_memWf]

theorem execPltDistribution_memWf (part : Nat) (s : State) (hs : s.mem.wf = true) :
    ∀ σ, execPltDistribution part s = .next σ → σ.mem.wf = true := by
  grind [execPltDistribution, pltDistribution_memWf]

theorem feedPersistent_memWf (s : State) (ln : Nat) (hs : s.mem.wf = true) :
    (feedPersistent s ln).mem.wf = true := by
  grind [feedPersistent, runAccess_memWf, push_memWf, grant_memWf]

theorem activatePersistent_memWf (s : State) (ln : Nat) (hs : s.mem.wf = true) :
    (activatePersistent s ln).mem.wf = true := by
  grind [activatePersistent, feedPersistent_memWf, setHome_memWf, onEntry_memWf, pushAll_memWf]

theorem servePersistent_memWf (s : State) (acc : Nat) (ln : Nat) (hs : s.mem.wf = true) :
    (servePersistent s acc ln).mem.wf = true := by
  grind [servePersistent, ensureEntry_memWf, contact_memWf, activatePersistent_memWf, setHome_memWf]

theorem execHomePersistentRequest_memWf (acc : Nat) (line : Nat) (s : State) (hs : s.mem.wf = true) :
    ∀ σ, execHomePersistentRequest acc line s = .next σ → σ.mem.wf = true := by
  grind [execHomePersistentRequest, servePersistent_memWf]

theorem execVmulh_memWf (f : Fields) (s : State) (hs : s.mem.wf = true) :
    ∀ σ, execVmulh f s = .next σ → σ.mem.wf = true := by
  grind [execVmulh, vector2_memWf]

theorem execReductionReplayTimeout_memWf (acc : Nat) (lane : Nat) (s : State) (hs : s.mem.wf = true) :
    ∀ σ, execReductionReplayTimeout acc lane s = .next σ → σ.mem.wf = true := by
  grind [execReductionReplayTimeout, replayReduction_memWf]

theorem execVsel_memWf (f : Fields) (s : State) (hs : s.mem.wf = true) :
    ∀ σ, execVsel f s = .next σ → σ.mem.wf = true := by
  grind [execVsel, Plain, KeepsRes, check_plain, preCheck_plain, engineCheck_plain, needTag_plain, needVar_plain,
    momentBody_plain, floatBody1_plain, matrixOp_plain, trap, computeV_memWf]

theorem execSmul_memWf (f : Fields) (s : State) (hs : s.mem.wf = true) :
    ∀ σ, execSmul f s = .next σ → σ.mem.wf = true := by
  grind [execSmul, scalar2_memWf]

theorem execScmp_memWf (f : Fields) (s : State) (hs : s.mem.wf = true) :
    ∀ σ, execScmp f s = .next σ → σ.mem.wf = true := by
  grind [execScmp, Plain, KeepsRes, check_plain, preCheck_plain, engineCheck_plain, needTag_plain, needVar_plain,
    momentBody_plain, floatBody1_plain, matrixOp_plain, trap, computeV_memWf]

theorem serveMerge_memWf (s0 : State) (acc : Nat) (lane : Nat) (o : Nat) (hs0 : s0.mem.wf = true) :
    (serveMerge s0 acc lane o).mem.wf = true := by
  grind [serveMerge, mergeAt_memWf, performed_memWf, failCond_memWf, addShare_memWf, endServiceOf_memWf, push_memWf,
    endService_memWf]

theorem execForwardedMerge_memWf (acc : Nat) (lane : Nat) (owner : Nat) (s : State) (hs : s.mem.wf = true) :
    ∀ σ, execForwardedMerge acc lane owner s = .next σ → σ.mem.wf = true := by
  grind [execForwardedMerge, serveMerge_memWf]

theorem execVfneg_memWf (f : Fields) (s : State) (hs : s.mem.wf = true) :
    ∀ σ, execVfneg f s = .next σ → σ.mem.wf = true := by
  grind [execVfneg, vfloat1_memWf]

theorem execMsamp_memWf (f : Fields) (s : State) (hs : s.mem.wf = true) :
    ∀ σ, execMsamp f s = .next σ → σ.mem.wf = true := by
  grind [execMsamp, Plain, KeepsRes, check_plain, preCheck_plain, engineCheck_plain, needTag_plain, needVar_plain,
    momentBody_plain, floatBody1_plain, matrixOp_plain, trap, computeV_memWf]

theorem execVandn_memWf (f : Fields) (s : State) (hs : s.mem.wf = true) :
    ∀ σ, execVandn f s = .next σ → σ.mem.wf = true := by
  grind [execVandn, vector2_memWf]

theorem carriageDone_memWf (s : State) (id : ThreadId) (serial : Nat) (hs : s.mem.wf = true) :
    (carriageDone s id serial).mem.wf = true := by
  simp [carriageDone, *]

theorem execCarriageComplete_memWf (th : ThreadId) (serial : Nat) (s : State) (hs : s.mem.wf = true) :
    ∀ σ, execCarriageComplete th serial s = .next σ → σ.mem.wf = true := by
  grind [execCarriageComplete, carriageDone_memWf]

theorem execIdle_memWf (f : Fields) (s : State) (hs : s.mem.wf = true) :
    ∀ σ, execIdle f s = .next σ → σ.mem.wf = true := by
  unfold execIdle; (try dsimp only); (repeat' (first
    | assumption | split | (with_reducible refine foldl_memWf _ _ ?_ _ ?_; intro s x h)
    | with_reducible refine foldl_memWf _ _ ?_ _ ?_ | with_reducible apply finish_memWf
    | with_reducible apply control_memWf )) <;> grind [KeepsRes, finish_memWf, control_memWf]

theorem execBinvAll_memWf (f : Fields) (s : State) (hs : s.mem.wf = true) :
    ∀ σ, execBinvAll f s = .next σ → σ.mem.wf = true := by
  grind [execBinvAll, Plain, KeepsRes, check_plain, preCheck_plain, engineCheck_plain, needTag_plain, needVar_plain,
    momentBody_plain, floatBody1_plain, matrixOp_plain, trap, compute_memWf]

theorem execThermalShutdown_memWf (die : Nat) (temp : Int) (s : State) (hs : s.mem.wf = true) :
    ∀ σ, execThermalShutdown die temp s = .next σ → σ.mem.wf = true := by
  grind [execThermalShutdown, setDie_memWf, packageReset_memWf]

theorem execQpush_memWf (f : Fields) (s : State) (hs : s.mem.wf = true) :
    ∀ σ, execQpush f s = .next σ → σ.mem.wf = true := by
  unfold execQpush; (try dsimp only); (repeat' (first
    | assumption | split | (with_reducible refine foldl_memWf _ _ ?_ _ ?_; intro s x h)
    | with_reducible refine foldl_memWf _ _ ?_ _ ?_ | with_reducible apply pushHandle_memWf
    | with_reducible apply queueEnd_memWf | with_reducible apply queueOp_memWf )) <;> grind [KeepsRes,
    pushHandle_memWf, queueEnd_memWf, queueOp_memWf]

theorem execSand_memWf (f : Fields) (s : State) (hs : s.mem.wf = true) :
    ∀ σ, execSand f s = .next σ → σ.mem.wf = true := by
  grind [execSand, scalar2_memWf]

theorem completePersistent_memWf (s : State) (c : Nat) (ln : Nat) (hs : s.mem.wf = true) :
    (completePersistent s c ln).mem.wf = true := by
  grind [completePersistent, activatePersistent_memWf, setHome_memWf, onEntry_memWf]

theorem execPersistentCompletion_memWf (core : Nat) (line : Nat) (s : State) (hs : s.mem.wf = true) :
    ∀ σ, execPersistentCompletion core line s = .next σ → σ.mem.wf = true := by
  grind [execPersistentCompletion, completePersistent_memWf]

theorem serveForwardedWt_memWf (s0 : State) (acc : Nat) (ln : Nat) (o : Nat) (hs0 : s0.mem.wf = true) :
    (serveForwardedWt s0 acc ln o).mem.wf = true := by
  grind [serveForwardedWt, addShare_memWf, readWt_memWf, push_memWf, endService_memWf]

theorem execForwardedWtRead_memWf (acc : Nat) (line : Nat) (owner : Nat) (s : State) (hs : s.mem.wf = true) :
    ∀ σ, execForwardedWtRead acc line owner s = .next σ → σ.mem.wf = true := by
  grind [execForwardedWtRead, serveForwardedWt_memWf]

theorem execVfdiv_memWf (f : Fields) (s : State) (hs : s.mem.wf = true) :
    ∀ σ, execVfdiv f s = .next σ → σ.mem.wf = true := by
  grind [execVfdiv, vfloat2_memWf]

theorem execSsra_memWf (f : Fields) (s : State) (hs : s.mem.wf = true) :
    ∀ σ, execSsra f s = .next σ → σ.mem.wf = true := by
  grind [execSsra, scalar2_memWf]

theorem execVxor_memWf (f : Fields) (s : State) (hs : s.mem.wf = true) :
    ∀ σ, execVxor f s = .next σ → σ.mem.wf = true := by
  grind [execVxor, vector2_memWf]

theorem execSmulh_memWf (f : Fields) (s : State) (hs : s.mem.wf = true) :
    ∀ σ, execSmulh f s = .next σ → σ.mem.wf = true := by
  grind [execSmulh, scalar2_memWf]

theorem execVabs_memWf (f : Fields) (s : State) (hs : s.mem.wf = true) :
    ∀ σ, execVabs f s = .next σ → σ.mem.wf = true := by
  grind [execVabs, vector1_memWf]

theorem execScfrz_memWf (f : Fields) (s : State) (hs : s.mem.wf = true) :
    ∀ σ, execScfrz f s = .next σ → σ.mem.wf = true := by
  grind [execScfrz, scopeOp_memWf]

theorem trained_memWf (s : State) (link : LinkId) (peer : DWord) (hs : s.mem.wf = true) :
    (trained s link peer).mem.wf = true := by
  grind [trained, resumeAll_memWf, setLinkState_memWf]

theorem execTrainingDone_memWf (link : LinkId) (peer : DWord) (s : State) (hs : s.mem.wf = true) :
    ∀ σ, execTrainingDone link peer s = .next σ → σ.mem.wf = true := by
  grind [execTrainingDone, trained_memWf]

theorem execVfmin_memWf (f : Fields) (s : State) (hs : s.mem.wf = true) :
    ∀ σ, execVfmin f s = .next σ → σ.mem.wf = true := by
  grind [execVfmin, vfloat2_memWf]

theorem serveReduction_memWf (s0 : State) (acc : Nat) (lane : Nat) (hs0 : s0.mem.wf = true) :
    (serveReduction s0 acc lane).mem.wf = true := by
  grind [serveReduction, whenFree_memWf, ensureEntry_memWf, settle_memWf, contact_memWf, push_memWf, performAtHome_memWf]

theorem execReductionRequest_memWf (acc : Nat) (lane : Nat) (s : State) (hs : s.mem.wf = true) :
    ∀ σ, execReductionRequest acc lane s = .next σ → σ.mem.wf = true := by
  grind [execReductionRequest, serveReduction_memWf]

theorem execVq4s_memWf (f : Fields) (s : State) (hs : s.mem.wf = true) :
    ∀ σ, execVq4s f s = .next σ → σ.mem.wf = true := by
  grind [execVq4s, Plain, KeepsRes, check_plain, preCheck_plain, engineCheck_plain, needTag_plain, needVar_plain,
    momentBody_plain, floatBody1_plain, matrixOp_plain, trap, compute_memWf]

theorem execMset_memWf (f : Fields) (s : State) (hs : s.mem.wf = true) :
    ∀ σ, execMset f s = .next σ → σ.mem.wf = true := by
  grind [execMset, Plain, KeepsRes, check_plain, preCheck_plain, engineCheck_plain, needTag_plain, needVar_plain,
    momentBody_plain, floatBody1_plain, matrixOp_plain, trap, computeV_memWf]

theorem scalar1_memWf (i : Instr) (f : Fields) (op : Nat → Nat → Nat) (s : State) (hs : s.mem.wf = true) :
    ∀ σ, scalar1 i f op s = .next σ → σ.mem.wf = true := by
  grind [scalar1, Plain, KeepsRes, check_plain, preCheck_plain, engineCheck_plain, needTag_plain, needVar_plain,
    momentBody_plain, floatBody1_plain, matrixOp_plain, trap, computeV_memWf]

theorem execSpopc_memWf (f : Fields) (s : State) (hs : s.mem.wf = true) :
    ∀ σ, execSpopc f s = .next σ → σ.mem.wf = true := by
  grind [execSpopc, scalar1_memWf]

theorem execTst_memWf (f : Fields) (s : State) (hs : s.mem.wf = true) :
    ∀ σ, execTst f s = .next σ → σ.mem.wf = true := by
  grind [execTst, Plain, KeepsRes, check_plain, preCheck_plain, engineCheck_plain, needTag_plain, needVar_plain,
    momentBody_plain, floatBody1_plain, matrixOp_plain, trap, engine_memWf]

theorem execKernelEnd_memWf (part : Nat) (kern : Nat) (s : State) (hs : s.mem.wf = true) :
    ∀ σ, execKernelEnd part kern s = .next σ → σ.mem.wf = true := by
  grind [execKernelEnd, kernelEnd_memWf]

theorem execVfst_memWf (f : Fields) (s : State) (hs : s.mem.wf = true) :
    ∀ σ, execVfst f s = .next σ → σ.mem.wf = true := by
  grind [execVfst, Plain, KeepsRes, check_plain, preCheck_plain, engineCheck_plain, needTag_plain, needVar_plain,
    momentBody_plain, floatBody1_plain, matrixOp_plain, trap, mem_memWf]

theorem downOver_memWf (s : State) (link : LinkId) (hs : s.mem.wf = true) : (downOver s link).mem.wf = true := by
  unfold downOver; (try dsimp only); (repeat' (first
    | assumption | split | (with_reducible refine foldl_memWf _ _ ?_ _ ?_; intro s x h)
    | with_reducible refine foldl_memWf _ _ ?_ _ ?_ | with_reducible apply setLinkState_memWf )) <;> grind [KeepsRes,
    setLinkState_memWf]

theorem execDownTimeout_memWf (link : LinkId) (s : State) (hs : s.mem.wf = true) :
    ∀ σ, execDownTimeout link s = .next σ → σ.mem.wf = true := by
  unfold execDownTimeout; (try dsimp only); (repeat' (first
    | assumption | split | (with_reducible refine foldl_memWf _ _ ?_ _ ?_; intro s x h)
    | with_reducible refine foldl_memWf _ _ ?_ _ ?_ | with_reducible apply downOver_memWf )) <;> grind [KeepsRes,
    downOver_memWf]

theorem endAsk_memWf (s : State) (ln : Nat) (c : Nat) (hs : s.mem.wf = true) : (endAsk s ln c).mem.wf = true := by
  grind [endAsk, setService_memWf, runAccess_memWf, failRequest_memWf, endService_memWf]

theorem answerAsk_memWf (s : State) (h : Nat) (ln : Nat) (n : Nat) (c : Nat) (hs : s.mem.wf = true) :
    (answerAsk s h ln n c).mem.wf = true := by
  grind [answerAsk, giveTokens_memWf, addShare_memWf, grant_memWf, endAsk_memWf]

theorem execHolderTokenAsk_memWf (core : Nat) (line : Nat) (count : Nat) (requester : Nat) (s : State)
    (hs : s.mem.wf = true) :
    ∀ σ, execHolderTokenAsk core line count requester s = .next σ → σ.mem.wf = true := by
  grind [execHolderTokenAsk, answerAsk_memWf]

theorem cancelForSave_memWf (s : State) (id : ThreadId) (hs : s.mem.wf = true) :
    (cancelForSave s id).mem.wf = true := by
  grind [cancelForSave, setCore_memWf, setThread_memWf]

theorem execEngineDrainTimeout_memWf (th : ThreadId) (s : State) (hs : s.mem.wf = true) :
    ∀ σ, execEngineDrainTimeout th s = .next σ → σ.mem.wf = true := by
  grind [execEngineDrainTimeout, cancelForSave_memWf]

theorem execUnassignedOpcode_memWf (x0 : BitVec 8) (x1 : BitVec 2) (s : State) (hs : s.mem.wf = true) :
    ∀ σ, execUnassignedOpcode x0 x1 s = .next σ → σ.mem.wf = true := by
  exact conclude_memWf _ _ _ hs (by simp [KeepsRes, trap])

theorem completeLoad_memWf (s : State) (acc : Nat) (hs : s.mem.wf = true) : (completeLoad s acc).mem.wf = true := by
  grind [completeLoad, dropAcc_memWf, onThread_memWf, setAcc_memWf, pump_memWf]

theorem execLoadComplete_memWf (acc : Nat) (s : State) (hs : s.mem.wf = true) :
    ∀ σ, execLoadComplete acc s = .next σ → σ.mem.wf = true := by
  grind [execLoadComplete, completeLoad_memWf]

theorem execSmax_memWf (f : Fields) (s : State) (hs : s.mem.wf = true) :
    ∀ σ, execSmax f s = .next σ → σ.mem.wf = true := by
  grind [execSmax, scalar2_memWf]

theorem execVq4x_memWf (f : Fields) (s : State) (hs : s.mem.wf = true) :
    ∀ σ, execVq4x f s = .next σ → σ.mem.wf = true := by
  grind [execVq4x, Plain, KeepsRes, check_plain, preCheck_plain, engineCheck_plain, needTag_plain, needVar_plain,
    momentBody_plain, floatBody1_plain, matrixOp_plain, trap, computeV_memWf]

theorem execQueueAging_memWf (queue : QueueId) (level : Nat) (s : State) (hs : s.mem.wf = true) :
    ∀ σ, execQueueAging queue level s = .next σ → σ.mem.wf = true := by
  grind [execQueueAging, setQueue_memWf, serve_memWf]

theorem execVperm_memWf (f : Fields) (s : State) (hs : s.mem.wf = true) :
    ∀ σ, execVperm f s = .next σ → σ.mem.wf = true := by
  grind [execVperm, Plain, KeepsRes, check_plain, preCheck_plain, engineCheck_plain, needTag_plain, needVar_plain,
    momentBody_plain, floatBody1_plain, matrixOp_plain, trap, computeV_memWf]

theorem execSst_memWf (f : Fields) (s : State) (hs : s.mem.wf = true) :
    ∀ σ, execSst f s = .next σ → σ.mem.wf = true := by
  grind [execSst, Plain, KeepsRes, check_plain, preCheck_plain, engineCheck_plain, needTag_plain, needVar_plain,
    momentBody_plain, floatBody1_plain, matrixOp_plain, trap, mem_memWf]

theorem completeStore_memWf (s : State) (acc : Nat) (hs : s.mem.wf = true) :
    (completeStore s acc).mem.wf = true := by
  grind [completeStore, dropAcc_memWf, onThread_memWf, setAcc_memWf, pump_memWf]

theorem execStorePerformed_memWf (acc : Nat) (s : State) (hs : s.mem.wf = true) :
    ∀ σ, execStorePerformed acc s = .next σ → σ.mem.wf = true := by
  grind [execStorePerformed, completeStore_memWf]

theorem clearCounts_memWf (s : State) (p : Nat) (hs : s.mem.wf = true) : (clearCounts s p).mem.wf = true := by
  unfold clearCounts; (try dsimp only); (repeat' (first
    | assumption | split | (with_reducible refine foldl_memWf _ _ ?_ _ ?_; intro s x h)
    | with_reducible refine foldl_memWf _ _ ?_ _ ?_ | with_reducible apply setDie_memWf )) <;> grind [KeepsRes,
    setDie_memWf]

theorem formClusters_memWf (s : State) (p : Nat) (hs : s.mem.wf = true) : (formClusters s p).mem.wf = true := by
  unfold formClusters; (try dsimp only); (repeat' (first
    | assumption | split | (with_reducible refine foldl_memWf _ _ ?_ _ ?_; intro s x h)
    | with_reducible refine foldl_memWf _ _ ?_ _ ?_ | with_reducible apply fillSlot_memWf )) <;> grind [KeepsRes,
    fillSlot_memWf]

theorem clearClock_memWf (s : State) (c : Nat) (hs : s.mem.wf = true) : (clearClock s c).mem.wf = true := by
  grind [clearClock, setCore_memWf, discardLeases_memWf]

theorem pcmdStart_memWf (s : State) (p : Nat) (desc : Nat) (issuer : Option Nat) (hs : s.mem.wf = true) :
    (pcmdStart s p desc issuer).mem.wf = true := by
  unfold pcmdStart; (try dsimp only); (repeat' (first
    | assumption | split | (with_reducible refine foldl_memWf _ _ ?_ _ ?_; intro s x h)
    | with_reducible refine foldl_memWf _ _ ?_ _ ?_ | with_reducible apply setPart_memWf
    | with_reducible apply clearCounts_memWf | with_reducible apply clearPort_memWf
    | with_reducible apply formClusters_memWf | with_reducible apply pcmdResult_memWf
    | with_reducible apply clearClock_memWf | with_reducible apply startSys_memWf
    | with_reducible apply paWrite_memWf )) <;> grind [KeepsRes, setPart_memWf, clearCounts_memWf, clearPort_memWf,
    formClusters_memWf, pcmdResult_memWf, clearClock_memWf, startSys_memWf, paWrite_memWf]

theorem execPcmdStart_memWf (part : Nat) (desc : Nat) (s : State) (hs : s.mem.wf = true) :
    ∀ σ, execPcmdStart part desc s = .next σ → σ.mem.wf = true := by
  grind [execPcmdStart, pcmdStart_memWf]

theorem execScthaw_memWf (f : Fields) (s : State) (hs : s.mem.wf = true) :
    ∀ σ, execScthaw f s = .next σ → σ.mem.wf = true := by
  grind [execScthaw, scopeOp_memWf]

theorem governor_memWf (s : State) (p : Nat) (kn : Nat) (hs : s.mem.wf = true) :
    (governor s p kn).mem.wf = true := by
  grind [governor, onThread_memWf]

theorem execGovernorEval_memWf (part : Nat) (kern : Nat) (s : State) (hs : s.mem.wf = true) :
    ∀ σ, execGovernorEval part kern s = .next σ → σ.mem.wf = true := by
  grind [execGovernorEval, governor_memWf]

theorem execSfadd_memWf (f : Fields) (s : State) (hs : s.mem.wf = true) :
    ∀ σ, execSfadd f s = .next σ → σ.mem.wf = true := by
  grind [execSfadd, scalarF_memWf]

theorem execSxor_memWf (f : Fields) (s : State) (hs : s.mem.wf = true) :
    ∀ σ, execSxor f s = .next σ → σ.mem.wf = true := by
  grind [execSxor, scalar2_memWf]

theorem execHolderRecall_memWf (core : Nat) (line : Nat) (s : State) (hs : s.mem.wf = true) :
    ∀ σ, execHolderRecall core line s = .next σ → σ.mem.wf = true := by
  grind [execHolderRecall, giveTokens_memWf]

theorem execMsub_memWf (f : Fields) (s : State) (hs : s.mem.wf = true) :
    ∀ σ, execMsub f s = .next σ → σ.mem.wf = true := by
  grind [execMsub, moment2_memWf]

theorem execVferf_memWf (f : Fields) (s : State) (hs : s.mem.wf = true) :
    ∀ σ, execVferf f s = .next σ → σ.mem.wf = true := by
  grind [execVferf, vfloatSfu_memWf]

theorem confirmReduction_memWf (s : State) (acc : Nat) (lane : Nat) (hs : s.mem.wf = true) :
    (confirmReduction s acc lane).mem.wf = true := by
  grind [confirmReduction, runAccess_memWf, setHome_memWf, setAcc_memWf]

theorem execReductionAckConfirm_memWf (acc : Nat) (lane : Nat) (s : State) (hs : s.mem.wf = true) :
    ∀ σ, execReductionAckConfirm acc lane s = .next σ → σ.mem.wf = true := by
  grind [execReductionAckConfirm, confirmReduction_memWf]

theorem execVflog2_memWf (f : Fields) (s : State) (hs : s.mem.wf = true) :
    ∀ σ, execVflog2 f s = .next σ → σ.mem.wf = true := by
  grind [execVflog2, vfloatSfu_memWf]

theorem execSrdp_memWf (f : Fields) (s : State) (hs : s.mem.wf = true) :
    ∀ σ, execSrdp f s = .next σ → σ.mem.wf = true := by
  grind [execSrdp, Plain, KeepsRes, check_plain, preCheck_plain, engineCheck_plain, needTag_plain, needVar_plain,
    momentBody_plain, floatBody1_plain, matrixOp_plain, trap, finish_memWf, control_memWf]

theorem promote_memWf (s : State) (die : Nat) (hs : s.mem.wf = true) : (promote s die).mem.wf = true := by
  unfold promote; split
  · exact hs
  · refine ite_memWf hs ?_
    extract_lets changed
    exact foldl_memWf _ _ (fun s x h => notePromoted_memWf _ _ h) _ (moveDeferred_memWf _ _
      (foldl_memWf _ _ (fun s x h => setTimes_memWf _ _ _ _ h) _ (setDie_memWf _ _ _
        (foldl_memWf _ _ (fun s x h => zeroWindow_memWf _ _ (recallWindow_memWf _ _ h)) _ (recallWindow_memWf _ _ hs)))))

theorem execRegroupPromotion_memWf (die : Nat) (s : State) (hs : s.mem.wf = true) :
    ∀ σ, execRegroupPromotion die s = .next σ → σ.mem.wf = true := by
  grind [execRegroupPromotion, promote_memWf]

theorem engineComplete_memWf (s : State) (core : Nat) (e : EngineSel) (hs : s.mem.wf = true) :
    (engineComplete s core e).mem.wf = true := by
  grind [engineComplete, onThread_memWf, setCore_memWf, push_memWf]

theorem execEngineOpComplete_memWf (core : Nat) (engine : EngineSel) (s : State) (hs : s.mem.wf = true) :
    ∀ σ, execEngineOpComplete core engine s = .next σ → σ.mem.wf = true := by
  grind [execEngineOpComplete, engineComplete_memWf]

theorem execSbfi_memWf (f : Fields) (s : State) (hs : s.mem.wf = true) :
    ∀ σ, execSbfi f s = .next σ → σ.mem.wf = true := by
  grind [execSbfi, Plain, KeepsRes, check_plain, preCheck_plain, engineCheck_plain, needTag_plain, needVar_plain,
    momentBody_plain, floatBody1_plain, matrixOp_plain, trap, computeV_memWf]

theorem execTlbiVa_memWf (f : Fields) (s : State) (hs : s.mem.wf = true) :
    ∀ σ, execTlbiVa f s = .next σ → σ.mem.wf = true := by
  grind [execTlbiVa, tlbi_memWf]

theorem execVfrsq_memWf (f : Fields) (s : State) (hs : s.mem.wf = true) :
    ∀ σ, execVfrsq f s = .next σ → σ.mem.wf = true := by
  grind [execVfrsq, vfloatSfu_memWf]

theorem serveForwardedSis_memWf (s0 : State) (acc : Nat) (ln : Nat) (o : Nat) (hs0 : s0.mem.wf = true) :
    (serveForwardedSis s0 acc ln o).mem.wf = true := by
  grind [serveForwardedSis, putCopy_memWf, grantLease_memWf, addShare_memWf, push_memWf, absorb_memWf, endService_memWf]

theorem execForwardedSisRead_memWf (acc : Nat) (line : Nat) (owner : Nat) (s : State) (hs : s.mem.wf = true) :
    ∀ σ, execForwardedSisRead acc line owner s = .next σ → σ.mem.wf = true := by
  grind [execForwardedSisRead, serveForwardedSis_memWf]

theorem execVclz_memWf (f : Fields) (s : State) (hs : s.mem.wf = true) :
    ∀ σ, execVclz f s = .next σ → σ.mem.wf = true := by
  grind [execVclz, vector1_memWf]

theorem execMadd_memWf (f : Fields) (s : State) (hs : s.mem.wf = true) :
    ∀ σ, execMadd f s = .next σ → σ.mem.wf = true := by
  grind [execMadd, moment2_memWf]

theorem departureCheck_memWf (s : State) (p : Nat) (kn : Nat) (hs : s.mem.wf = true) :
    (departureCheck s p kn).mem.wf = true := by
  grind [departureCheck, completionRecord_memWf, freeKernelState_memWf, departCart_memWf, setKernel_memWf]

theorem execDepartureCheck_memWf (part : Nat) (kern : Nat) (s : State) (hs : s.mem.wf = true) :
    ∀ σ, execDepartureCheck part kern s = .next σ → σ.mem.wf = true := by
  grind [execDepartureCheck, departureCheck_memWf]

theorem execPortHalfDown_memWf (half : Nat) (s : State) (hs : s.mem.wf = true) :
    ∀ σ, execPortHalfDown half s = .next σ → σ.mem.wf = true := by
  grind [execPortHalfDown, halfState_memWf]

theorem joinAt_memWf (s : State) (th : Thread) (key : Nat) (hs : s.mem.wf = true) :
    (joinAt s th key).2.2.mem.wf = true := by
  grind [joinAt, pushHandle_memWf, dropLease_memWf, settle_memWf, contact_memWf, addShare_memWf, opHome_memWf]

theorem execQjoin_memWf (f : Fields) (s : State) (hs : s.mem.wf = true) :
    ∀ σ, execQjoin f s = .next σ → σ.mem.wf = true := by
  refine control_memWf _ _ _ _ (fun s th h => ?_) hs
  extract_lets b off ea
  refine keeps_ite (keeps_wait _) (keeps_ite (keeps_wait _) (keeps_ite (keeps_wait _) (keeps_ite (keeps_trap _ _ _ _) ?_)))
  split
  · rename_i e he; exact keeps_error (he ▸ resolve_plain ..)
  · rename_i r hr
    have h1 := resolve_memWf _ _ _ _ _ _ _ h _ hr
    split
    · exact keeps_park h1
    · refine keeps_ite (keeps_wait _) ?_
      exact keeps_ok (queueEnd_memWf _ _ _ _ _ _ (joinAt_memWf _ _ _ (setThread_memWf _ _ h1)))
    · exact keeps_ok h1

theorem forwardPersistent_memWf (s : State) (h : Nat) (ln : Nat) (hs : s.mem.wf = true) :
    (forwardPersistent s h ln).mem.wf = true := by
  grind [forwardPersistent, feedPersistent_memWf, activatePersistent_memWf, giveTokens_memWf, addShare_memWf]

theorem execPersistentForward_memWf (core : Nat) (line : Nat) (s : State) (hs : s.mem.wf = true) :
    ∀ σ, execPersistentForward core line s = .next σ → σ.mem.wf = true := by
  grind [execPersistentForward, forwardPersistent_memWf]

theorem execThermalThrottle_memWf (core : Nat) (temp : Int) (s : State) (hs : s.mem.wf = true) :
    ∀ σ, execThermalThrottle core temp s = .next σ → σ.mem.wf = true := by
  grind [execThermalThrottle, senseCore_memWf]

theorem execMexp_memWf (f : Fields) (s : State) (hs : s.mem.wf = true) :
    ∀ σ, execMexp f s = .next σ → σ.mem.wf = true := by
  grind [execMexp, moment1_memWf]

theorem execRxBufferHigh_memWf (half : Nat) (s : State) (hs : s.mem.wf = true) :
    ∀ σ, execRxBufferHigh half s = .next σ → σ.mem.wf = true := by
  grind [execRxBufferHigh, noteHigh_memWf]

theorem takeReading_memWf (s : State) (p : Nat) (r : Reading) (hs : s.mem.wf = true) :
    (takeReading s p r).mem.wf = true := by
  unfold takeReading; (try dsimp only); (repeat' (first
    | assumption | split | (with_reducible refine foldl_memWf _ _ ?_ _ ?_; intro s x h)
    | with_reducible refine foldl_memWf _ _ ?_ _ ?_ | with_reducible apply setPart_memWf
    | with_reducible apply senseCore_memWf | with_reducible apply setDie_memWf
    | with_reducible apply packageReset_memWf )) <;> grind [KeepsRes, setPart_memWf, senseCore_memWf, setDie_memWf,
    packageReset_memWf]

theorem paHalves_memWf (s : State) (a : Nat) (x2 : List Nat) (hs : s.mem.wf = true) :
    (paHalves s a x2).mem.wf = true := by
  fun_induction paHalves s a x2 <;> grind [paWrite_memWf]

theorem writeSample_memWf (s0 : State) (p : Nat) (r : Reading) (hs0 : s0.mem.wf = true) :
    (writeSample s0 p r).mem.wf = true := by
  grind [writeSample, setPart_memWf, paHalves_memWf, paWrite_memWf]

theorem housekeepingSample_memWf (s : State) (p : Nat) (r : Reading) (hs : s.mem.wf = true) :
    (housekeepingSample s p r).mem.wf = true := by
  grind [housekeepingSample, takeReading_memWf, writeSample_memWf]

theorem execHousekeepingSample_memWf (part : Nat) (reading : Reading) (s : State) (hs : s.mem.wf = true) :
    ∀ σ, execHousekeepingSample part reading s = .next σ → σ.mem.wf = true := by
  grind [execHousekeepingSample, housekeepingSample_memWf]

theorem ackUpTo_memWf (s : State) (l : LinkId) (ack : BitVec 8) (hs : s.mem.wf = true) :
    (ackUpTo s l ack).mem.wf = true := by
  grind [ackUpTo, setLink_memWf]

theorem flitReceive_memWf (s : State) (l : LinkId) (x : BitVec 256) (room : Bool) (hs : s.mem.wf = true) :
    (flitReceive s l x room).mem.wf = true := by
  grind [flitReceive, ackUpTo_memWf, sendNak_memWf, nakReceive_memWf, setLink_memWf]

theorem execFlitReceive_memWf (link : LinkId) (flit : BitVec 256) (room : Bool) (s : State)
    (hs : s.mem.wf = true) :
    ∀ σ, execFlitReceive link flit room s = .next σ → σ.mem.wf = true := by
  grind [execFlitReceive, flitReceive_memWf]

theorem execMcoll_memWf (f : Fields) (s : State) (hs : s.mem.wf = true) :
    ∀ σ, execMcoll f s = .next σ → σ.mem.wf = true := by
  grind [execMcoll, Plain, KeepsRes, check_plain, preCheck_plain, engineCheck_plain, needTag_plain, needVar_plain,
    momentBody_plain, floatBody1_plain, matrixOp_plain, trap, compute_memWf]

theorem execSrot_memWf (f : Fields) (s : State) (hs : s.mem.wf = true) :
    ∀ σ, execSrot f s = .next σ → σ.mem.wf = true := by
  grind [execSrot, scalar2_memWf]

theorem execBsetClu_memWf (f : Fields) (s : State) (hs : s.mem.wf = true) :
    ∀ σ, execBsetClu f s = .next σ → σ.mem.wf = true := by
  grind [execBsetClu, scopeOp_memWf]

theorem execVmred_memWf (f : Fields) (s : State) (hs : s.mem.wf = true) :
    ∀ σ, execVmred f s = .next σ → σ.mem.wf = true := by
  grind [execVmred, Plain, KeepsRes, check_plain, preCheck_plain, engineCheck_plain, needTag_plain, needVar_plain,
    momentBody_plain, floatBody1_plain, matrixOp_plain, trap, mem_memWf]

theorem egressDone_memWf (s : State) (h : Nat) (hs : s.mem.wf = true) :
    ∀ σ, egressDone s h = some σ → σ.mem.wf = true := by
  grind [egressDone, countUp_memWf, setPort_memWf, hwWriteList_memWf]

theorem egressComplete_memWf (s : State) (h : Nat) (hs : s.mem.wf = true) : (egressComplete s h).mem.wf = true := by
  unfold egressComplete; cases e : egressDone s h with
  | none => exact hs
  | some t => exact egressDone_memWf _ _ hs _ e

theorem execEgressComplete_memWf (half : Nat) (s : State) (hs : s.mem.wf = true) :
    ∀ σ, execEgressComplete half s = .next σ → σ.mem.wf = true := by
  grind [execEgressComplete, egressComplete_memWf]

theorem execSrnd_memWf (f : Fields) (s : State) (hs : s.mem.wf = true) :
    ∀ σ, execSrnd f s = .next σ → σ.mem.wf = true := by
  grind [execSrnd, Plain, KeepsRes, check_plain, preCheck_plain, engineCheck_plain, needTag_plain, needVar_plain,
    momentBody_plain, floatBody1_plain, matrixOp_plain, trap, computeV_memWf]

theorem execRxBufferLow_memWf (half : Nat) (s : State) (hs : s.mem.wf = true) :
    ∀ σ, execRxBufferLow half s = .next σ → σ.mem.wf = true := by
  grind [execRxBufferLow, noteLow_memWf]

theorem kldb_memWf (s : State) (p : Nat) (desc : DWord) (hs : s.mem.wf = true) : (kldb s p desc).mem.wf = true := by
  grind [kldb, setPart_memWf, askLaunch_memWf]

theorem onCtx_memWf (s : State) (p : Nat) (i : Nat) (g : Ctx → Ctx) (hs : s.mem.wf = true) :
    (onCtx s p i g).mem.wf = true := by
  simp [onCtx, *]

theorem beginMove_memWf (s : State) (p : Nat) (m : Move) (hs : s.mem.wf = true) :
    (beginMove s p m).mem.wf = true := by
  grind [beginMove, removeTranslations_memWf, setPart_memWf, writeLeafField_memWf]

theorem moveCommand_memWf (s : State) (p : Nat) (value : DWord) (hs : s.mem.wf = true) :
    (moveCommand s p value).mem.wf = true := by
  grind [moveCommand, setPart_memWf, beginMove_memWf, writeLeafField_memWf, moveResult_memWf]

theorem qcmdSwap_memWf (s : State) (p : Nat) (i : Nat) (hs : s.mem.wf = true) : (qcmdSwap s p i).mem.wf = true := by
  grind [qcmdSwap, qcmdResult_memWf, swapOut_memWf, qcmd_memWf]

theorem qcmdCreate_memWf (s : State) (p : Nat) (i : Nat) (hs : s.mem.wf = true) :
    (qcmdCreate s p i).mem.wf = true := by
  grind [qcmdCreate, qcmdResult_memWf, drawCode_memWf, setQueue_memWf, setPart_memWf, makeRoom_memWf, qcmd_memWf]

theorem queueCommand_memWf (s : State) (p : Nat) (x : DWord) (hs : s.mem.wf = true) :
    (queueCommand s p x).mem.wf = true := by
  grind [queueCommand, qcmdDiscard_memWf, qcmdDrain_memWf, qcmdSwap_memWf, qcmdNone_memWf, qcmdCreate_memWf,
    qcmdUnswap_memWf]

theorem onReg_memWf (s : State) (p : Nat) (g : PReg32 → PReg32) (hs : s.mem.wf = true) :
    (onReg s p g).mem.wf = true := by
  simp [onReg, *]

theorem writePartReg_memWf (s : State) (p : Nat) (fn : Nat) (num : Nat) (x : DWord) (hs : s.mem.wf = true) :
    (writePartReg s p fn num x).mem.wf = true := by
  unfold writePartReg; (try dsimp only); (repeat' (first
    | assumption | split | (with_reducible refine foldl_memWf _ _ ?_ _ ?_; intro s x h)
    | with_reducible refine foldl_memWf _ _ ?_ _ ?_ | with_reducible apply updHoldWrite_memWf
    | with_reducible apply kldb_memWf | with_reducible apply onCtx_memWf | with_reducible apply moveCommand_memWf
    | with_reducible apply queueCommand_memWf | with_reducible apply lclkperWrite_memWf
    | with_reducible apply killKernel_memWf | with_reducible apply onReg_memWf )) <;> grind [KeepsRes,
    updHoldWrite_memWf, kldb_memWf, onCtx_memWf, moveCommand_memWf, queueCommand_memWf, lclkperWrite_memWf,
    killKernel_memWf, onReg_memWf]

theorem bar0Write_memWf (s : State) (offset : Nat) (x : DWord) (hs : s.mem.wf = true) :
    (bar0Write s offset x).mem.wf = true := by
  grind [bar0Write, writePartReg_memWf]

theorem execBar0Access_memWf (offset : Nat) (write : Option DWord) (s : State) (hs : s.mem.wf = true) :
    ∀ σ, execBar0Access offset write s = .next σ → σ.mem.wf = true := by
  unfold execBar0Access; (try dsimp only); (repeat' (first
    | assumption | split | (with_reducible refine foldl_memWf _ _ ?_ _ ?_; intro s x h)
    | with_reducible refine foldl_memWf _ _ ?_ _ ?_ | with_reducible apply bar0Write_memWf )) <;> grind [KeepsRes,
    bar0Write_memWf]

theorem execSfmax_memWf (f : Fields) (s : State) (hs : s.mem.wf = true) :
    ∀ σ, execSfmax f s = .next σ → σ.mem.wf = true := by
  grind [execSfmax, scalarF_memWf]

theorem recordChange_memWf (s : State) (h : Nat) (hs : s.mem.wf = true) : (recordChange s h).mem.wf = true := by
  unfold recordChange; (try dsimp only); (repeat' (first
    | assumption | split | (with_reducible refine foldl_memWf _ _ ?_ _ ?_; intro s x h)
    | with_reducible refine foldl_memWf _ _ ?_ _ ?_ | with_reducible apply setPort_memWf )) <;> grind [KeepsRes,
    setPort_memWf]

theorem execIoTableRecordChange_memWf (half : Nat) (s : State) (hs : s.mem.wf = true) :
    ∀ σ, execIoTableRecordChange half s = .next σ → σ.mem.wf = true := by
  grind [execIoTableRecordChange, recordChange_memWf]

theorem execSbrev_memWf (f : Fields) (s : State) (hs : s.mem.wf = true) :
    ∀ σ, execSbrev f s = .next σ → σ.mem.wf = true := by
  grind [execSbrev, scalar1_memWf]

theorem idleTimeReached_memWf (s : State) (id : ThreadId) (hs : s.mem.wf = true) :
    (idleTimeReached s id).mem.wf = true := by
  grind [idleTimeReached, setThread_memWf]

theorem execIdleTimeReached_memWf (th : ThreadId) (s : State) (hs : s.mem.wf = true) :
    ∀ σ, execIdleTimeReached th s = .next σ → σ.mem.wf = true := by
  grind [execIdleTimeReached, idleTimeReached_memWf]

theorem execQcmdCreate_memWf (part : Nat) (index : Nat) (s : State) (hs : s.mem.wf = true) :
    ∀ σ, execQcmdCreate part index s = .next σ → σ.mem.wf = true := by
  grind [execQcmdCreate, qcmdCreate_memWf]

theorem execCouplingEnable_memWf (coupling : Nat) (s : State) (hs : s.mem.wf = true) :
    ∀ σ, execCouplingEnable coupling s = .next σ → σ.mem.wf = true := by
  grind [execCouplingEnable, couplingEnable_memWf]

theorem execTld_memWf (f : Fields) (s : State) (hs : s.mem.wf = true) :
    ∀ σ, execTld f s = .next σ → σ.mem.wf = true := by
  grind [execTld, Plain, KeepsRes, check_plain, preCheck_plain, engineCheck_plain, needTag_plain, needVar_plain,
    momentBody_plain, floatBody1_plain, matrixOp_plain, trap, engine_memWf]

theorem execVffma_memWf (f : Fields) (s : State) (hs : s.mem.wf = true) :
    ∀ σ, execVffma f s = .next σ → σ.mem.wf = true := by
  grind [execVffma, Plain, KeepsRes, check_plain, preCheck_plain, engineCheck_plain, needTag_plain, needVar_plain,
    momentBody_plain, floatBody1_plain, matrixOp_plain, trap, computeV_memWf]

theorem execAckTimeout_memWf (link : LinkId) (s : State) (hs : s.mem.wf = true) :
    ∀ σ, execAckTimeout link s = .next σ → σ.mem.wf = true := by
  grind [execAckTimeout, enterRetrain_memWf]

theorem execKldbLaunch_memWf (part : Nat) (desc : DWord) (s : State) (hs : s.mem.wf = true) :
    ∀ σ, execKldbLaunch part desc s = .next σ → σ.mem.wf = true := by
  grind [execKldbLaunch, kldb_memWf]

theorem execVbfx_memWf (f : Fields) (s : State) (hs : s.mem.wf = true) :
    ∀ σ, execVbfx f s = .next σ → σ.mem.wf = true := by
  grind [execVbfx, Plain, KeepsRes, check_plain, preCheck_plain, engineCheck_plain, needTag_plain, needVar_plain,
    momentBody_plain, floatBody1_plain, matrixOp_plain, trap, computeV_memWf]

theorem sharingWindowEnd_memWf (s : State) (parts : List Nat) (hs : s.mem.wf = true) :
    (sharingWindowEnd s parts).mem.wf = true := by
  unfold sharingWindowEnd; (try dsimp only); (repeat' (first
    | assumption | split | (with_reducible refine foldl_memWf _ _ ?_ _ ?_; intro s x h)
    | with_reducible refine foldl_memWf _ _ ?_ _ ?_ | with_reducible apply setPart_memWf
    | with_reducible apply clearCounts_memWf | with_reducible apply setDie_memWf )) <;> grind [KeepsRes, setPart_memWf,
    clearCounts_memWf, setDie_memWf]

theorem execSharingWindowEnd_memWf (parts : List Nat) (s : State) (hs : s.mem.wf = true) :
    ∀ σ, execSharingWindowEnd parts s = .next σ → σ.mem.wf = true := by
  grind [execSharingWindowEnd, sharingWindowEnd_memWf]

theorem retryCart_memWf (s : State) (id : ThreadId) (hs : s.mem.wf = true) : (retryCart s id).mem.wf = true := by
  grind [retryCart, sendTrapCart_memWf, setThread_memWf]

theorem execTrapCartRetry_memWf (th : ThreadId) (s : State) (hs : s.mem.wf = true) :
    ∀ σ, execTrapCartRetry th s = .next σ → σ.mem.wf = true := by
  grind [execTrapCartRetry, retryCart_memWf]

theorem execSffma_memWf (f : Fields) (s : State) (hs : s.mem.wf = true) :
    ∀ σ, execSffma f s = .next σ → σ.mem.wf = true := by
  grind [execSffma, Plain, KeepsRes, check_plain, preCheck_plain, engineCheck_plain, needTag_plain, needVar_plain,
    momentBody_plain, floatBody1_plain, matrixOp_plain, trap, computeV_memWf]

theorem execQstat_memWf (f : Fields) (s : State) (hs : s.mem.wf = true) :
    ∀ σ, execQstat f s = .next σ → σ.mem.wf = true := by
  unfold execQstat; (try dsimp only); (repeat' (first
    | assumption | split | (with_reducible refine foldl_memWf _ _ ?_ _ ?_; intro s x h)
    | with_reducible refine foldl_memWf _ _ ?_ _ ?_ | with_reducible apply queueEnd_memWf
    | with_reducible apply control_memWf )) <;> grind [KeepsRes, queueEnd_memWf, control_memWf]

theorem execMiggoMove_memWf (part : Nat) (value : DWord) (s : State) (hs : s.mem.wf = true) :
    ∀ σ, execMiggoMove part value s = .next σ → σ.mem.wf = true := by
  grind [execMiggoMove, moveCommand_memWf]

theorem execVfexp2_memWf (f : Fields) (s : State) (hs : s.mem.wf = true) :
    ∀ σ, execVfexp2 f s = .next σ → σ.mem.wf = true := by
  grind [execVfexp2, vfloatSfu_memWf]

theorem detstall_memWf (s : State) (id : ThreadId) (hs : s.mem.wf = true) : (detstall s id).mem.wf = true := by
  unfold detstall; (try dsimp only); (repeat' (first
    | assumption | split | (with_reducible refine foldl_memWf _ _ ?_ _ ?_; intro s x h)
    | with_reducible refine foldl_memWf _ _ ?_ _ ?_ | with_reducible apply takeTrap_memWf
    | with_reducible apply onThread_memWf | with_reducible apply setThread_memWf )) <;> grind [KeepsRes,
    takeTrap_memWf, onThread_memWf, setThread_memWf]

theorem execDetstallTimeout_memWf (th : ThreadId) (s : State) (hs : s.mem.wf = true) :
    ∀ σ, execDetstallTimeout th s = .next σ → σ.mem.wf = true := by
  grind [execDetstallTimeout, detstall_memWf]

theorem execVst_memWf (f : Fields) (s : State) (hs : s.mem.wf = true) :
    ∀ σ, execVst f s = .next σ → σ.mem.wf = true := by
  grind [execVst, Plain, KeepsRes, check_plain, preCheck_plain, engineCheck_plain, needTag_plain, needVar_plain,
    momentBody_plain, floatBody1_plain, matrixOp_plain, trap, mem_memWf]

theorem execSshl_memWf (f : Fields) (s : State) (hs : s.mem.wf = true) :
    ∀ σ, execSshl f s = .next σ → σ.mem.wf = true := by
  grind [execSshl, scalar2_memWf]

theorem execVmov_memWf (f : Fields) (s : State) (hs : s.mem.wf = true) :
    ∀ σ, execVmov f s = .next σ → σ.mem.wf = true := by
  grind [execVmov, Plain, KeepsRes, check_plain, preCheck_plain, engineCheck_plain, needTag_plain, needVar_plain,
    momentBody_plain, floatBody1_plain, matrixOp_plain, trap, computeV_memWf]

theorem writeOwnership_memWf (p : Nat) (ctx : Nat) (d : Desc) (ranges : List (Nat × Nat)) (x4 : List Nat)
    (x5 : State) (hx5 : x5.mem.wf = true) :
    ∀ σ, writeOwnership p ctx d ranges x4 x5 = .ok σ → σ.mem.wf = true := by
  fun_induction writeOwnership p ctx d ranges x4 x5 <;> grind [writeHome_memWf]

theorem drawTeams_memWf (x0 : List Team) (x1 : State) (hx1 : x1.mem.wf = true) :
    (drawTeams x0 x1).2.mem.wf = true := by
  fun_induction drawTeams x0 x1 <;> grind [drawCode_memWf]

theorem launch_memWf (s : State) (p : Nat) (r : Launch) (hs : s.mem.wf = true) :
    ∀ ν σ, launch s p r = .ok (ν, σ) → σ.mem.wf = true := by
  intro ν σ h
  unfold launch at h
  try extract_lets at h
  split at h
  · cases h
  · try extract_lets at h
    replace h := of_ite_error h
    split at h
    · cases h
    · split at h
      · cases h
      · try extract_lets at h
        replace h := of_ite_error h
        split at h
        · cases h
        · try extract_lets at h
          split at h
          · replace h := of_ite_error h
            try extract_lets at h
            split at h
            · cases h
            · rename_i e; cases h
              refine foldl_memWf _ _ (fun s c h => ?_) _ (setKernel_memWf _ _ _ _
                (drawTeams_memWf _ _ (writeOwnership_memWf _ _ _ _ _ _ hs _ e)))
              extract_lets s1
              have h1 : s1.mem.wf = true := setQueue_memWf _ _ h
              split
              · exact h1
              · exact discardLeases_memWf _ _ _ h1
          · cases h

theorem launchAnswered_memWf (s : State) (th : Thread) (d : Option Nat) (code : Nat) (kn : Option Nat)
    (hs : s.mem.wf = true) :
    (launchAnswered s th d code kn).mem.wf = true := by
  unfold launchAnswered; (try dsimp only); (repeat' (first
    | assumption | split | (with_reducible refine foldl_memWf _ _ ?_ _ ?_; intro s x h)
    | with_reducible refine foldl_memWf _ _ ?_ _ ?_ | with_reducible apply poolWrite_memWf
    | with_reducible apply setThread_memWf )) <;> grind [KeepsRes, poolWrite_memWf, setThread_memWf]

theorem answerLaunch_memWf (s : State) (p : Nat) (by_ : LaunchBy) (code : Nat) (kn : Option Nat)
    (hs : s.mem.wf = true) :
    (answerLaunch s p by_ code kn).mem.wf = true := by
  unfold answerLaunch; (try dsimp only); (repeat' (first
    | assumption | split | (with_reducible refine foldl_memWf _ _ ?_ _ ?_; intro s x h)
    | with_reducible refine foldl_memWf _ _ ?_ _ ?_ | with_reducible apply setPart_memWf
    | with_reducible apply launchAnswered_memWf )) <;> grind [KeepsRes, setPart_memWf, launchAnswered_memWf]

theorem acceptLaunch_memWf (s : State) (p : Nat) (hs : s.mem.wf = true) : (acceptLaunch s p).mem.wf = true := by
  intros; unfold acceptLaunch at *; (try dsimp only at *); (repeat' split at *) <;> grind [KeepsRes, setPart_memWf,
    launch_memWf, departureCheck_memWf, answerLaunch_memWf]

theorem execLaunchAccept_memWf (part : Nat) (s : State) (hs : s.mem.wf = true) :
    ∀ σ, execLaunchAccept part s = .next σ → σ.mem.wf = true := by
  grind [execLaunchAccept, acceptLaunch_memWf]

theorem execTlbiAll_memWf (f : Fields) (s : State) (hs : s.mem.wf = true) :
    ∀ σ, execTlbiAll f s = .next σ → σ.mem.wf = true := by
  grind [execTlbiAll, tlbi_memWf]

theorem execScq_memWf (f : Fields) (s : State) (hs : s.mem.wf = true) :
    ∀ σ, execScq f s = .next σ → σ.mem.wf = true := by
  grind [execScq, scopeOp_memWf]

theorem execSfmin_memWf (f : Fields) (s : State) (hs : s.mem.wf = true) :
    ∀ σ, execSfmin f s = .next σ → σ.mem.wf = true := by
  grind [execSfmin, scalarF_memWf]

theorem execScnd_memWf (f : Fields) (s : State) (hs : s.mem.wf = true) :
    ∀ σ, execScnd f s = .next σ → σ.mem.wf = true := by
  grind [execScnd, Plain, KeepsRes, check_plain, preCheck_plain, engineCheck_plain, needTag_plain, needVar_plain,
    momentBody_plain, floatBody1_plain, matrixOp_plain, trap, mem_memWf]

theorem execSfsqrt_memWf (f : Fields) (s : State) (hs : s.mem.wf = true) :
    ∀ σ, execSfsqrt f s = .next σ → σ.mem.wf = true := by
  grind [execSfsqrt, Plain, KeepsRes, check_plain, preCheck_plain, engineCheck_plain, needTag_plain, needVar_plain,
    momentBody_plain, floatBody1_plain, matrixOp_plain, trap, computeV_memWf]

theorem execThermalAlarm_memWf (core : Nat) (temp : Int) (s : State) (hs : s.mem.wf = true) :
    ∀ σ, execThermalAlarm core temp s = .next σ → σ.mem.wf = true := by
  grind [execThermalAlarm, senseCore_memWf]

theorem execCpq_memWf (f : Fields) (s : State) (hs : s.mem.wf = true) :
    ∀ σ, execCpq f s = .next σ → σ.mem.wf = true := by
  grind [execCpq, Plain, KeepsRes, check_plain, preCheck_plain, engineCheck_plain, needTag_plain, needVar_plain,
    momentBody_plain, floatBody1_plain, matrixOp_plain, trap, engine_memWf]

theorem execSclz_memWf (f : Fields) (s : State) (hs : s.mem.wf = true) :
    ∀ σ, execSclz f s = .next σ → σ.mem.wf = true := by
  grind [execSclz, scalar1_memWf]

theorem execVput_memWf (f : Fields) (s : State) (hs : s.mem.wf = true) :
    ∀ σ, execVput f s = .next σ → σ.mem.wf = true := by
  grind [execVput, Plain, KeepsRes, check_plain, preCheck_plain, engineCheck_plain, needTag_plain, needVar_plain,
    momentBody_plain, floatBody1_plain, matrixOp_plain, trap, computeV_memWf]

theorem execVld_memWf (f : Fields) (s : State) (hs : s.mem.wf = true) :
    ∀ σ, execVld f s = .next σ → σ.mem.wf = true := by
  grind [execVld, Plain, KeepsRes, check_plain, preCheck_plain, engineCheck_plain, needTag_plain, needVar_plain,
    momentBody_plain, floatBody1_plain, matrixOp_plain, trap, mem_memWf]

theorem execSwr_memWf (f : Fields) (s : State) (hs : s.mem.wf = true) :
    ∀ σ, execSwr f s = .next σ → σ.mem.wf = true := by
  grind [execSwr, Plain, KeepsRes, check_plain, preCheck_plain, engineCheck_plain, needTag_plain, needVar_plain,
    momentBody_plain, floatBody1_plain, matrixOp_plain, trap, compute_memWf]

theorem execCorePowerGate_memWf (core : Nat) (s : State) (hs : s.mem.wf = true) :
    ∀ σ, execCorePowerGate core s = .next σ → σ.mem.wf = true := by
  grind [execCorePowerGate, setCore_memWf, sendAllHome_memWf]

theorem partitionCommand_memWf (s : State) (x : DWord) (issuer : Option Nat) (hs : s.mem.wf = true) :
    (partitionCommand s x issuer).mem.wf = true := by
  grind [partitionCommand, pcmdStart_memWf, pcmdStop_memWf, pcmdNone_memWf]

theorem onBank_memWf (s : State) (k : Nat) (fn : Nat) (g : Bank → Bank) (hs : s.mem.wf = true) :
    (onBank s k fn g).mem.wf = true := by
  simp [onBank, *]

theorem writePriv_memWf (s : State) (k : Nat) (fn : Nat) (num : Nat) (x : DWord) (hs : s.mem.wf = true) :
    (writePriv s k fn num x).mem.wf = true := by
  unfold writePriv; (try dsimp only); (repeat' (first
    | assumption | split | (with_reducible refine foldl_memWf _ _ ?_ _ ?_; intro s x h)
    | with_reducible refine foldl_memWf _ _ ?_ _ ?_ | with_reducible apply partitionCommand_memWf
    | with_reducible apply onBank_memWf | with_reducible apply setSysCore_memWf
    | with_reducible apply writePartReg_memWf )) <;> grind [KeepsRes, partitionCommand_memWf, onBank_memWf,
    setSysCore_memWf, writePartReg_memWf]

theorem execSwrp_memWf (f : Fields) (s : State) (hs : s.mem.wf = true) :
    ∀ σ, execSwrp f s = .next σ → σ.mem.wf = true := by
  grind [execSwrp, Plain, KeepsRes, check_plain, preCheck_plain, engineCheck_plain, needTag_plain, needVar_plain,
    momentBody_plain, floatBody1_plain, matrixOp_plain, trap, bankroleWrite_memWf, finish_memWf, stall_memWf,
    writePriv_memWf, control_memWf]

theorem execTmma_memWf (f : Fields) (s : State) (hs : s.mem.wf = true) :
    ∀ σ, execTmma f s = .next σ → σ.mem.wf = true := by
  grind [execTmma, Plain, KeepsRes, check_plain, preCheck_plain, engineCheck_plain, needTag_plain, needVar_plain,
    momentBody_plain, floatBody1_plain, matrixOp_plain, trap, engine_memWf]

theorem execSbfx_memWf (f : Fields) (s : State) (hs : s.mem.wf = true) :
    ∀ σ, execSbfx f s = .next σ → σ.mem.wf = true := by
  grind [execSbfx, Plain, KeepsRes, check_plain, preCheck_plain, engineCheck_plain, needTag_plain, needVar_plain,
    momentBody_plain, floatBody1_plain, matrixOp_plain, trap, computeV_memWf]

theorem execMrelu_memWf (f : Fields) (s : State) (hs : s.mem.wf = true) :
    ∀ σ, execMrelu f s = .next σ → σ.mem.wf = true := by
  grind [execMrelu, moment1_memWf]

theorem execVfcos_memWf (f : Fields) (s : State) (hs : s.mem.wf = true) :
    ∀ σ, execVfcos f s = .next σ → σ.mem.wf = true := by
  grind [execVfcos, vfloatSfu_memWf]

theorem execVor_memWf (f : Fields) (s : State) (hs : s.mem.wf = true) :
    ∀ σ, execVor f s = .next σ → σ.mem.wf = true := by
  grind [execVor, vector2_memWf]

theorem execVcx_memWf (f : Fields) (s : State) (hs : s.mem.wf = true) :
    ∀ σ, execVcx f s = .next σ → σ.mem.wf = true := by
  grind [execVcx, Plain, KeepsRes, check_plain, preCheck_plain, engineCheck_plain, needTag_plain, needVar_plain,
    momentBody_plain, floatBody1_plain, matrixOp_plain, trap, computeV_memWf]

theorem execSmin_memWf (f : Fields) (s : State) (hs : s.mem.wf = true) :
    ∀ σ, execSmin f s = .next σ → σ.mem.wf = true := by
  grind [execSmin, scalar2_memWf]

theorem execPauseTimeExpiry_memWf (half : Nat) (priority : Nat) (s : State) (hs : s.mem.wf = true) :
    ∀ σ, execPauseTimeExpiry half priority s = .next σ → σ.mem.wf = true := by
  simp [execPauseTimeExpiry, *]

theorem execSmov_memWf (f : Fields) (s : State) (hs : s.mem.wf = true) :
    ∀ σ, execSmov f s = .next σ → σ.mem.wf = true := by
  grind [execSmov, Plain, KeepsRes, check_plain, preCheck_plain, engineCheck_plain, needTag_plain, needVar_plain,
    momentBody_plain, floatBody1_plain, matrixOp_plain, trap, computeV_memWf]

theorem lclkTick_memWf (s : State) (core : Nat) (hs : s.mem.wf = true) : (lclkTick s core).mem.wf = true := by
  grind [lclkTick, setClock_memWf]

theorem execLclkTick_memWf (core : Nat) (s : State) (hs : s.mem.wf = true) :
    ∀ σ, execLclkTick core s = .next σ → σ.mem.wf = true := by
  grind [execLclkTick, lclkTick_memWf]

theorem execSeal_memWf (f : Fields) (s : State) (hs : s.mem.wf = true) :
    ∀ σ, execSeal f s = .next σ → σ.mem.wf = true := by
  unfold execSeal; (try dsimp only); (repeat' (first
    | assumption | split | (with_reducible refine foldl_memWf _ _ ?_ _ ?_; intro s x h)
    | with_reducible refine foldl_memWf _ _ ?_ _ ?_ | with_reducible apply fresh_memWf
    | with_reducible apply finish_memWf | with_reducible apply push_memWf
    | with_reducible apply control_memWf )) <;> grind [KeepsRes, fresh_memWf, finish_memWf, push_memWf, control_memWf]

theorem execVscan_memWf (f : Fields) (s : State) (hs : s.mem.wf = true) :
    ∀ σ, execVscan f s = .next σ → σ.mem.wf = true := by
  grind [execVscan, Plain, KeepsRes, check_plain, preCheck_plain, engineCheck_plain, needTag_plain, needVar_plain,
    momentBody_plain, floatBody1_plain, matrixOp_plain, trap, computeV_memWf]

theorem returnTokens_memWf (s : State) (id : Nat) (hs : s.mem.wf = true) : (returnTokens s id).mem.wf = true := by
  grind [returnTokens, ensureEntry_memWf, feedPersistent_memWf, absorb_memWf]

theorem execTokenReturn_memWf (msg : Nat) (s : State) (hs : s.mem.wf = true) :
    ∀ σ, execTokenReturn msg s = .next σ → σ.mem.wf = true := by
  grind [execTokenReturn, returnTokens_memWf]

theorem serveAllTokenRequest_memWf (s0 : State) (acc : Nat) (ln : Nat) (hs0 : s0.mem.wf = true) :
    (serveAllTokenRequest s0 acc ln).mem.wf = true := by
  unfold serveAllTokenRequest; split
  · exact hs0
  · refine whenFree_memWf _ _ _ _ hs0 (fun s h => ?_)
    have h1 := fun c x => ensureEntry_memWf _ ln (contact_memWf s c x h)
    extract_lets s1 s2
    have h1 : s1.mem.wf = true := ensureEntry_memWf _ ln (contact_memWf s _ _ h)
    split
    · exact failRequest_memWf _ _ _ h1
    · have h2 : s2.mem.wf = true := grant_memWf _ _ _ _ h1
      split
      · split
        · exact runAccess_memWf _ _ _ h2
        · exact failRequest_memWf _ _ _ h2
      · rw [pushAll_mem]; exact setService_memWf _ _ _ h2

theorem execHomeAllTokenRequest_memWf (acc : Nat) (line : Nat) (s : State) (hs : s.mem.wf = true) :
    ∀ σ, execHomeAllTokenRequest acc line s = .next σ → σ.mem.wf = true := by
  grind [execHomeAllTokenRequest, serveAllTokenRequest_memWf]

theorem execThermalAlarmClear_memWf (core : Nat) (temp : Int) (s : State) (hs : s.mem.wf = true) :
    ∀ σ, execThermalAlarmClear core temp s = .next σ → σ.mem.wf = true := by
  grind [execThermalAlarmClear, senseCore_memWf]

theorem execVfcmp_memWf (f : Fields) (s : State) (hs : s.mem.wf = true) :
    ∀ σ, execVfcmp f s = .next σ → σ.mem.wf = true := by
  grind [execVfcmp, Plain, KeepsRes, check_plain, preCheck_plain, engineCheck_plain, needTag_plain, needVar_plain,
    momentBody_plain, floatBody1_plain, matrixOp_plain, trap, computeV_memWf]

theorem execDtend_memWf (f : Fields) (s : State) (hs : s.mem.wf = true) :
    ∀ σ, execDtend f s = .next σ → σ.mem.wf = true := by
  refine control_memWf _ _ _ _ (fun s th h => ?_) hs
  dsimp only
  (repeat' split) <;> simp [KeepsRes, trap]
  · exact finish_memWf _ _ _ _ _ h
  · exact finish_memWf _ _ _ _ _ h
  · exact advanceCt_memWf _ _ _ (setKernel_memWf _ _ _ _ (finish_memWf _ _ _ _ _ h))

theorem execQdone_memWf (f : Fields) (s : State) (hs : s.mem.wf = true) :
    ∀ σ, execQdone f s = .next σ → σ.mem.wf = true := by
  unfold execQdone; (try dsimp only); (repeat' (first
    | assumption | split | (with_reducible refine foldl_memWf _ _ ?_ _ ?_; intro s x h)
    | with_reducible refine foldl_memWf _ _ ?_ _ ?_ | with_reducible apply releaseStream_memWf
    | with_reducible apply queueEnd_memWf | with_reducible apply queueOp_memWf )) <;> grind [KeepsRes,
    releaseStream_memWf, queueEnd_memWf, queueOp_memWf]

theorem execTzero_memWf (f : Fields) (s : State) (hs : s.mem.wf = true) :
    ∀ σ, execTzero f s = .next σ → σ.mem.wf = true := by
  grind [execTzero, Plain, KeepsRes, check_plain, preCheck_plain, engineCheck_plain, needTag_plain, needVar_plain,
    momentBody_plain, floatBody1_plain, matrixOp_plain, trap, engine_memWf]

theorem execQcmdSwap_memWf (part : Nat) (index : Nat) (s : State) (hs : s.mem.wf = true) :
    ∀ σ, execQcmdSwap part index s = .next σ → σ.mem.wf = true := by
  grind [execQcmdSwap, qcmdSwap_memWf]

theorem egressFetch_memWf (s : State) (h : Nat) (hs : s.mem.wf = true) :
    ∀ σ, egressFetch s h = some σ → σ.mem.wf = true := by
  intro t e
  cases h1 : (s.port h).tx <;> cases h2 : (s.port h).txData <;> cases h3 : partOfHalf s h <;>
    simp [egressFetch, h1, h2, h3] at e
  obtain ⟨_, _, _, rfl⟩ := e
  exact setPort_memWf _ _ _ hs

theorem portNext_memWf (s : State) (h : Nat) (hs : s.mem.wf = true) :
    ∀ σ, portNext s h = some σ → σ.mem.wf = true := by
  intro t e; unfold portNext at e
  simp only [Option.orElse_eq_orElse, Option.orElse_eq_or, Option.or_eq_some_iff] at e
  rcases e with e | ⟨-, e | ⟨-, e | ⟨-, e⟩⟩⟩
  · exact egressFetch_memWf _ _ hs _ e
  · exact egressDone_memWf _ _ hs _ e
  · exact egressNext_memWf _ _ hs _ e
  · exact rxNext_memWf _ _ hs _ e

theorem showRecords_memWf (s : State) (p : Nat) (hs : s.mem.wf = true) : (showRecords s p).mem.wf = true := by
  unfold showRecords; extract_lets a
  have ha : a.mem.wf = true := foldl_keeps _ _ (fun s x h => ⟨_, rfl, ite_memWf h (halfState_memWf _ _ _ h)⟩) _ hs
  clear_value a
  exact foldl_keeps _ _ (fun s x h => ⟨_, rfl, ite_memWf h (writeCoupling_memWf _ _ h)⟩) _ ha

theorem fetchKey_memWf (s : State) (th : Thread) (hs : s.mem.wf = true) : (fetchKey s th).2.mem.wf = true := by
  grind [fetchKey, translateFor_memWf]

theorem fetch_memWf (s : State) (th : Thread) (hs : s.mem.wf = true) : (fetch s th).2.mem.wf = true := by
  grind [fetch, fetchKey_memWf]

theorem hostPerform_memWf (s : State) (r : HostReq) (hs : s.mem.wf = true) : (hostPerform s r).mem.wf = true := by
  grind [hostPerform, ensureEntry_memWf, settle_memWf, sendCrossing_memWf, writeHome_memWf]

theorem dueHost_memWf (s : State) (hs : s.mem.wf = true) : ∀ σ, dueHost s = some σ → σ.mem.wf = true := by
  intro t h; unfold dueHost at h
  obtain ⟨r, _, rfl⟩ := Option.map_eq_some_iff.mp h
  exact hostPerform_memWf _ _ hs

theorem carryFlit_memWf (s : State) (l : LinkId) (hs : s.mem.wf = true) : (carryFlit s l).mem.wf = true := by
  grind [carryFlit, ackUpTo_memWf, resumeAll_memWf, setLink_memWf]

theorem tendBoundaries_memWf (s : State) (hs : s.mem.wf = true) : (tendBoundaries s).mem.wf = true := by
  unfold tendBoundaries; (try dsimp only); (repeat' (first
    | assumption | split | (with_reducible refine foldl_memWf _ _ ?_ _ ?_; intro s x h)
    | with_reducible refine foldl_memWf _ _ ?_ _ ?_ | with_reducible apply downOver_memWf
    | with_reducible apply trained_memWf )) <;> grind [KeepsRes, downOver_memWf, trained_memWf]

theorem pollCoupling_memWf (s : State) (p : Nat) (k : Nat) (hs : s.mem.wf = true) :
    (pollCoupling s p k).mem.wf = true := by
  simp only [pollCoupling]
  split
  · exact couplingEnable_memWf _ _ hs
  · split
    · exact couplingDisable_memWf _ _ hs
    · with_reducible exact hs

theorem freeWord_memWf (s : State) (hs : s.mem.wf = true) : (State.freeWord s).2.mem.wf = true := by
  simp [State.freeWord, *]

theorem ctxsGone_memWf (s : State) (target : ThreadId) (hs : s.mem.wf = true) :
    (ctxsGone s target).mem.wf = true := by
  grind [ctxsGone, answerCtxs_memWf]

theorem tickPart_memWf (s : State) (p : Nat) (hs : s.mem.wf = true) : (tickPart s p).mem.wf = true := by
  unfold tickPart; (try dsimp only); (repeat' (first
    | assumption | split | (with_reducible refine foldl_memWf _ _ ?_ _ ?_; intro s x h)
    | with_reducible refine foldl_memWf _ _ ?_ _ ?_ | with_reducible apply lclkTick_memWf )) <;> grind [KeepsRes,
    lclkTick_memWf]

theorem slowRound_memWf (s : State) (hs : s.mem.wf = true) : (slowRound s).mem.wf = true := by
  unfold slowRound
  extract_lets s1 s2
  have h1 : s1.mem.wf = true := timeBlockPoll_memWf _ (gtSyncSend_memWf _ hs)
  have h2 : s2.mem.wf = true := foldl_keeps _ _ (fun s p h => ⟨_, rfl, foldl_keeps _ _ (fun s k h => ⟨_, rfl,
    pollCoupling_memWf s p k h⟩) _
    (foldl_memWf _ _ (fun s x h => recordChange_memWf s x h) _ (showRecords_memWf _ _ h))⟩) _ h1
  exact foldl_memWf _ _ (fun s x h => foldl_memWf _ _ (fun s x h => governor_memWf _ _ _ h) _ h) _ h2

theorem departures_memWf (s : State) (hs : s.mem.wf = true) : (departures s).mem.wf = true := by
  unfold departures; (try dsimp only); (repeat' (first
    | assumption | split | (with_reducible refine foldl_memWf _ _ ?_ _ ?_; intro s x h)
    | with_reducible refine foldl_memWf _ _ ?_ _ ?_ | with_reducible apply departureFire_memWf
    | with_reducible apply departureCheck_memWf )) <;> grind [KeepsRes, departureFire_memWf, departureCheck_memWf]

theorem retryLate_memWf (s : State) (p : Nat) (hs : s.mem.wf = true) : (retryLate s p).mem.wf = true := by
  unfold retryLate
  refine foldl_memWf _ _ (fun s c h => ?_) _ hs
  obtain ⟨ctx, ws, t⟩ := c
  refine ite_memWf h ?_
  extract_lets x s1
  have h1 : s1.mem.wf = true := setPart_memWf _ _ _ h
  clear_value s1
  cases e : offerTrapCart s1 p ctx ws with
  | none => exact setPart_memWf _ _ _ h1
  | some s2 => exact offerTrapCart_memWf _ _ _ _ h1 _ e

theorem endedPins_memWf (s : State) (hs : s.mem.wf = true) : (endedPins s).mem.wf = true := by
  unfold endedPins; (try dsimp only); (repeat' (first
    | assumption | split | (with_reducible refine foldl_memWf _ _ ?_ _ ?_; intro s x h)
    | with_reducible refine foldl_memWf _ _ ?_ _ ?_ | with_reducible apply endPin_memWf )) <;> grind [KeepsRes,
    endPin_memWf]

theorem passCycle_memWf (s0 : State) (hs0 : s0.mem.wf = true) : (passCycle s0).mem.wf = true := by
  unfold passCycle; extract_lets s s1 s2 s3 s4 ends s5
  have h1 : s1.mem.wf = true := foldl_memWf _ _ (fun s x h => tickPart_memWf s x h) _ (tendBoundaries_memWf _ hs0)
  have h2 : s2.mem.wf = true := by
    unfold s2; split
    · exact foldl_memWf _ _ (fun s x h => pltDistribution_memWf s x h) _ h1
    · exact h1
  have h3 : s3.mem.wf = true := by
    unfold s3; split
    · exact slowRound_memWf _ h2
    · exact h2
  have h4 : s4.mem.wf = true := by
    unfold s4; split
    · exact foldl_memWf _ _ (fun s x h => writeSample_memWf s x _ h) _ h3
    · exact h3
  have h5 : s5.mem.wf = true := by
    unfold s5; split
    · exact h4
    · exact sharingWindowEnd_memWf _ _ h4
  exact foldl_memWf _ _ (fun s x h => retryLate_memWf _ _ h) _ (endedPins_memWf _ (departures_memWf _ h5))

theorem rotate_memWf (s : State) (hs : s.mem.wf = true) : (rotate s).mem.wf = true := by
  grind [rotate]

theorem pass_memWf (s : State) (hs : s.mem.wf = true) : (pass s).mem.wf = true := by
  grind [pass, passCycle_memWf, rotate_memWf]

theorem duePort_memWf (s : State) (hs : s.mem.wf = true) : ∀ σ, duePort s = some σ → σ.mem.wf = true := by
  intro σ h
  obtain ⟨e, _, h⟩ := List.exists_of_findSome?_eq_some h
  exact portNext_memWf _ _ hs _ h

theorem dueStep_memWf (s : State) (hs : s.mem.wf = true) : ∀ σ, dueStep s = some σ → σ.mem.wf = true := by
  intro σ h
  unfold dueStep at h
  simp only [Option.orElse_eq_orElse, Option.orElse_eq_or, Option.or_eq_some_iff, Option.map_eq_some_iff] at h
  rcases h with ⟨e, _, rfl⟩ |
    ⟨_, ⟨e, _, rfl⟩ | ⟨_, ⟨e, _, rfl⟩ | ⟨_, ⟨e, _, rfl⟩ | ⟨_, ⟨e, _, rfl⟩ | ⟨_, ⟨e, _, rfl⟩ | ⟨_, ⟨e, _, rfl⟩ | ⟨_, ⟨e,
    _, rfl⟩ | ⟨_, h | ⟨_, h⟩⟩⟩⟩⟩⟩⟩⟩⟩
  · exact carryFlit_memWf _ _ hs
  · exact engineStart_memWf _ _ _ hs
  · exact promote_memWf _ _ hs
  · exact endRegroup_memWf _ _ hs
  · exact completeMove_memWf _ _ hs
  · exact bankroleEffect_memWf _ _ hs
  · exact acceptLaunch_memWf _ _ hs
  · exact kernelEnd_memWf _ _ _ hs
  · exact dueHost_memWf _ hs _ h
  · exact duePort_memWf _ hs _ h

theorem preemptTurn_memWf (s : State) (th : Thread) (hs : s.mem.wf = true) : (preemptTurn s th).mem.wf = true := by
  grind [preemptTurn, cancelForSave_memWf, preemptSave_memWf]

theorem dueWake_memWf (s : State) (th : Thread) (c : Cond) (hs : s.mem.wf = true) :
    ∀ σ, dueWake s th c = some σ → σ.mem.wf = true := by
  unfold dueWake; (try dsimp only); (repeat' (first
    | assumption | split | (with_reducible refine foldl_memWf _ _ ?_ _ ?_; intro s x h)
    | with_reducible refine foldl_memWf _ _ ?_ _ ?_ | with_reducible apply onThread_memWf
    | with_reducible apply drained_memWf )) <;> grind [KeepsRes, onThread_memWf, drained_memWf]

/-- Every state that a fetch's stop carries has canonical memory. -/
theorem fetch_keeps (s : State) (th : Thread) (hs : s.mem.wf = true) (e : Stop) (h : (fetch s th).1 = .stop e) :
    KeepsRes (.error e) := by
  have h1 := fetchKey_memWf s th hs
  unfold fetch at h
  split at h
  · rename_i x s1 hk
    rw [hk] at h1
    cases h
    unfold fetchStop
    split
    · exact keeps_wait _
    · exact keeps_wait _
    · dsimp only; split
      · exact keeps_park h1
      · exact keeps_trap _ _ _ _
  · split at h
    · cases h
    · cases h; exact keeps_trap _ _ _ _

/-- The state of a plan has canonical memory. -/
def KeepsPlan : Plan → Prop
  | .act t => t.mem.wf = true
  | .run _ t => t.mem.wf = true

theorem keepsPlan_ite {c : Prop} [Decidable c] {a b : Plan} (ha : KeepsPlan a) (hb : KeepsPlan b) :
    KeepsPlan (if c then a else b) := by
  split <;> assumption

theorem issue_keeps (s : State) (hs : s.mem.wf = true) : KeepsPlan (issue s) := by
  unfold issue; extract_lets th s1
  have h1 : s1.mem.wf = true := hs
  refine keepsPlan_ite hs (keepsPlan_ite (takeTrap_memWf _ _ _ _ _ _ h1) ?_)
  have h2 := fetch_memWf s1 s1.cur h1
  split
  · rename_i i s2 hf; rw [hf] at h2; exact h2
  · rename_i e s2 hf
    have h3 := fetch_keeps s1 s1.cur h1 e (by rw [hf])
    rw [hf] at h2
    split
    · rename_i hc; exact conclude_memWf _ _ _ h2 h3 _ hc
    · exact h2

theorem waitTurn_keeps (s : State) (th : Thread) (c : Cond) (hs : s.mem.wf = true) : KeepsPlan (waitTurn s th c) := by
  unfold waitTurn
  split
  · exact ite_memWf (drained_memWf _ _ hs) hs
  · exact ctxsGone_memWf _ _ hs
  · exact sleepExpiry_memWf _ _ hs
  · exact keepsPlan_ite (issue_keeps s hs) (keepsPlan_ite (detstall_memWf _ _ hs) hs)

/-- What a thread's turn comes to has canonical memory. -/
theorem plan_keeps (s : State) (hs : s.mem.wf = true) : KeepsPlan (plan s) := by
  unfold plan; extract_lets th
  refine keepsPlan_ite (retryCart_memWf _ _ hs) (keepsPlan_ite ?_ ?_)
  · show Memory.wf _ = true
    split
    · rename_i c _; cases e : dueWake s s.cur c with
      | none => exact preemptTurn_memWf _ _ hs
      | some t => exact dueWake_memWf _ _ _ hs _ e
    · exact preemptTurn_memWf _ _ hs
  split
  · exact issue_keeps s hs
  · exact issue_keeps s hs
  · exact waitTurn_keeps s _ _ hs
  · exact hs

/-- The effect of every instruction keeps the canonical form. -/
theorem exec_memWf (i : Instr) (s : State) (hs : s.mem.wf = true) : ∀ σ, exec i s = .next σ → σ.mem.wf = true :=
  match i with
  | .nop f => execNop_memWf f s hs
  | .br f => execBr_memWf f s hs
  | .bz f => execBz_memWf f s hs
  | .bnz f => execBnz_memWf f s hs
  | .bc f => execBc_memWf f s hs
  | .call f => execCall_memWf f s hs
  | .callReg f => execCallReg_memWf f s hs
  | .ret f => execRet_memWf f s hs
  | .jmpi f => execJmpi_memWf f s hs
  | .bmz f => execBmz_memWf f s hs
  | .bmnz f => execBmnz_memWf f s hs
  | .mif f => execMif_memWf f s hs
  | .melse f => execMelse_memWf f s hs
  | .mend f => execMend_memWf f s hs
  | .mloop f => execMloop_memWf f s hs
  | .mbrk f => execMbrk_memWf f s hs
  | .mcont f => execMcont_memWf f s hs
  | .mpush f => execMpush_memWf f s hs
  | .mpop f => execMpop_memWf f s hs
  | .waitc f => execWaitc_memWf f s hs
  | .yield f => execYield_memWf f s hs
  | .sleep f => execSleep_memWf f s hs
  | .done f => execDone_memWf f s hs
  | .trap f => execTrap_memWf f s hs
  | .brkpt f => execBrkpt_memWf f s hs
  | .sadd f => execSadd_memWf f s hs
  | .ssub f => execSsub_memWf f s hs
  | .smul f => execSmul_memWf f s hs
  | .smulh f => execSmulh_memWf f s hs
  | .sdiv f => execSdiv_memWf f s hs
  | .srem f => execSrem_memWf f s hs
  | .sand f => execSand_memWf f s hs
  | .sor f => execSor_memWf f s hs
  | .sxor f => execSxor_memWf f s hs
  | .sandn f => execSandn_memWf f s hs
  | .sshl f => execSshl_memWf f s hs
  | .sshr f => execSshr_memWf f s hs
  | .ssra f => execSsra_memWf f s hs
  | .srot f => execSrot_memWf f s hs
  | .smin f => execSmin_memWf f s hs
  | .smax f => execSmax_memWf f s hs
  | .sclz f => execSclz_memWf f s hs
  | .spopc f => execSpopc_memWf f s hs
  | .sbrev f => execSbrev_memWf f s hs
  | .sbfx f => execSbfx_memWf f s hs
  | .sbfi f => execSbfi_memWf f s hs
  | .ssel f => execSsel_memWf f s hs
  | .scmp f => execScmp_memWf f s hs
  | .smov f => execSmov_memWf f s hs
  | .sli f => execSli_memWf f s hs
  | .slea f => execSlea_memWf f s hs
  | .sfadd f => execSfadd_memWf f s hs
  | .sfsub f => execSfsub_memWf f s hs
  | .sfmul f => execSfmul_memWf f s hs
  | .sffma f => execSffma_memWf f s hs
  | .sfmin f => execSfmin_memWf f s hs
  | .sfmax f => execSfmax_memWf f s hs
  | .sfcmp f => execSfcmp_memWf f s hs
  | .sfcvt f => execSfcvt_memWf f s hs
  | .sfsqrt f => execSfsqrt_memWf f s hs
  | .srd f => execSrd_memWf f s hs
  | .swr f => execSwr_memWf f s hs
  | .sgtime f => execSgtime_memWf f s hs
  | .srnd f => execSrnd_memWf f s hs
  | .smcnt f => execSmcnt_memWf f s hs
  | .vadd f => execVadd_memWf f s hs
  | .vsub f => execVsub_memWf f s hs
  | .vmul f => execVmul_memWf f s hs
  | .vmulh f => execVmulh_memWf f s hs
  | .vmad f => execVmad_memWf f s hs
  | .vand f => execVand_memWf f s hs
  | .vor f => execVor_memWf f s hs
  | .vxor f => execVxor_memWf f s hs
  | .vandn f => execVandn_memWf f s hs
  | .vshl f => execVshl_memWf f s hs
  | .vshr f => execVshr_memWf f s hs
  | .vsra f => execVsra_memWf f s hs
  | .vmin f => execVmin_memWf f s hs
  | .vmax f => execVmax_memWf f s hs
  | .vabs f => execVabs_memWf f s hs
  | .vclz f => execVclz_memWf f s hs
  | .vpopc f => execVpopc_memWf f s hs
  | .vbfx f => execVbfx_memWf f s hs
  | .vsel f => execVsel_memWf f s hs
  | .vcmp f => execVcmp_memWf f s hs
  | .vmov f => execVmov_memWf f s hs
  | .vlid f => execVlid_memWf f s hs
  | .vbc f => execVbc_memWf f s hs
  | .vget f => execVget_memWf f s hs
  | .vput f => execVput_memWf f s hs
  | .vperm f => execVperm_memWf f s hs
  | .vshuf f => execVshuf_memWf f s hs
  | .vred f => execVred_memWf f s hs
  | .vscan f => execVscan_memWf f s hs
  | .vhist f => execVhist_memWf f s hs
  | .vbinm f => execVbinm_memWf f s hs
  | .vcx f => execVcx_memWf f s hs
  | .vrnd f => execVrnd_memWf f s hs
  | .vfadd f => execVfadd_memWf f s hs
  | .vfsub f => execVfsub_memWf f s hs
  | .vfmul f => execVfmul_memWf f s hs
  | .vffma f => execVffma_memWf f s hs
  | .vfdiv f => execVfdiv_memWf f s hs
  | .vfsqrt f => execVfsqrt_memWf f s hs
  | .vfmin f => execVfmin_memWf f s hs
  | .vfmax f => execVfmax_memWf f s hs
  | .vfabs f => execVfabs_memWf f s hs
  | .vfneg f => execVfneg_memWf f s hs
  | .vfcmp f => execVfcmp_memWf f s hs
  | .vfclass f => execVfclass_memWf f s hs
  | .vfrcp f => execVfrcp_memWf f s hs
  | .vfrsq f => execVfrsq_memWf f s hs
  | .vfexp2 f => execVfexp2_memWf f s hs
  | .vflog2 f => execVflog2_memWf f s hs
  | .vfsin f => execVfsin_memWf f s hs
  | .vfcos f => execVfcos_memWf f s hs
  | .vftanh f => execVftanh_memWf f s hs
  | .vferf f => execVferf_memWf f s hs
  | .vcvt f => execVcvt_memWf f s hs
  | .vbfma f => execVbfma_memWf f s hs
  | .vq4s f => execVq4s_memWf f s hs
  | .vq4p f => execVq4p_memWf f s hs
  | .vq4x f => execVq4x_memWf f s hs
  | .mset f => execMset_memWf f s hs
  | .mcoll f => execMcoll_memWf f s hs
  | .msamp f => execMsamp_memWf f s hs
  | .madd f => execMadd_memWf f s hs
  | .msub f => execMsub_memWf f s hs
  | .mmul f => execMmul_memWf f s hs
  | .mfma f => execMfma_memWf f s hs
  | .mscl f => execMscl_memWf f s hs
  | .mrelu f => execMrelu_memWf f s hs
  | .mexp f => execMexp_memWf f s hs
  | .msig f => execMsig_memWf f s hs
  | .mtanh f => execMtanh_memWf f s hs
  | .mld f => execMld_memWf f s hs
  | .mst f => execMst_memWf f s hs
  | .mmov f => execMmov_memWf f s hs
  | .mcfgMcr f => execMcfgMcr_memWf f s hs
  | .mcfgMrho f => execMcfgMrho_memWf f s hs
  | .vld f => execVld_memWf f s hs
  | .vldu f => execVldu_memWf f s hs
  | .vst f => execVst_memWf f s hs
  | .vatm f => execVatm_memWf f s hs
  | .vmred f => execVmred_memWf f s hs
  | .vfld f => execVfld_memWf f s hs
  | .vfst f => execVfst_memWf f s hs
  | .sld f => execSld_memWf f s hs
  | .sst f => execSst_memWf f s hs
  | .satm f => execSatm_memWf f s hs
  | .smred f => execSmred_memWf f s hs
  | .sfld f => execSfld_memWf f s hs
  | .sfst f => execSfst_memWf f s hs
  | .srsv f => execSrsv_memWf f s hs
  | .scnd f => execScnd_memWf f s hs
  | .bset f => execBset_memWf f s hs
  | .bsetClu f => execBsetClu_memWf f s hs
  | .binv f => execBinv_memWf f s hs
  | .binvAll f => execBinvAll_memWf f s hs
  | .fence f => execFence_memWf f s hs
  | .cwb f => execCwb_memWf f s hs
  | .cinv f => execCinv_memWf f s hs
  | .cp f => execCp_memWf f s hs
  | .cpq f => execCpq_memWf f s hs
  | .cpg f => execCpg_memWf f s hs
  | .seal f => execSeal_memWf f s hs
  | .tmma f => execTmma_memWf f s hs
  | .tmmag f => execTmmag_memWf f s hs
  | .tzero f => execTzero_memWf f s hs
  | .tld f => execTld_memWf f s hs
  | .tst f => execTst_memWf f s hs
  | .tmam f => execTmam_memWf f s hs
  | .tmamm f => execTmamm_memWf f s hs
  | .scget f => execScget_memWf f s hs
  | .scq f => execScq_memWf f s hs
  | .scfrz f => execScfrz_memWf f s hs
  | .scthaw f => execScthaw_memWf f s hs
  | .bar f => execBar_memWf f s hs
  | .barv f => execBarv_memWf f s hs
  | .barw f => execBarw_memWf f s hs
  | .tmq f => execTmq_memWf f s hs
  | .qpush f => execQpush_memWf f s hs
  | .qpop f => execQpop_memWf f s hs
  | .qdone f => execQdone_memWf f s hs
  | .qspawn f => execQspawn_memWf f s hs
  | .qjoin f => execQjoin_memWf f s hs
  | .qstat f => execQstat_memWf f s hs
  | .klaunch f => execKlaunch_memWf f s hs
  | .depart f => execDepart_memWf f s hs
  | .dtbeg f => execDtbeg_memWf f s hs
  | .dtend f => execDtend_memWf f s hs
  | .syscResume f => execSyscResume_memWf f s hs
  | .syscSkip f => execSyscSkip_memWf f s hs
  | .syscAbandon f => execSyscAbandon_memWf f s hs
  | .syscCall f => execSyscCall_memWf f s hs
  | .eret f => execEret_memWf f s hs
  | .srdp f => execSrdp_memWf f s hs
  | .swrp f => execSwrp_memWf f s hs
  | .tlbiVa f => execTlbiVa_memWf f s hs
  | .tlbiCtx f => execTlbiCtx_memWf f s hs
  | .tlbiAll f => execTlbiAll_memWf f s hs
  | .ctxs f => execCtxs_memWf f s hs
  | .ctxr f => execCtxr_memWf f s hs
  | .idle f => execIdle_memWf f s hs
  | .trapCartRetry th => execTrapCartRetry_memWf th s hs
  | .pendingWriteComplete th tag => execPendingWriteComplete_memWf th tag s hs
  | .loadComplete acc => execLoadComplete_memWf acc s hs
  | .storePerformed acc => execStorePerformed_memWf acc s hs
  | .sleepExpiry th => execSleepExpiry_memWf th s hs
  | .drained th => execDrained_memWf th s hs
  | .preemptSave th => execPreemptSave_memWf th s hs
  | .engineDrainTimeout th => execEngineDrainTimeout_memWf th s hs
  | .lclkTick core => execLclkTick_memWf core s hs
  | .pltDistribution part => execPltDistribution_memWf part s hs
  | .corePowerGate core => execCorePowerGate_memWf core s hs
  | .coreWake core => execCoreWake_memWf core s hs
  | .homeTokenRequest acc line => execHomeTokenRequest_memWf acc line s hs
  | .homeAllTokenRequest acc line => execHomeAllTokenRequest_memWf acc line s hs
  | .transientRequestFail acc line => execTransientRequestFail_memWf acc line s hs
  | .homePersistentRequest acc line => execHomePersistentRequest_memWf acc line s hs
  | .persistentCompletion core line => execPersistentCompletion_memWf core line s hs
  | .persistentForward core line => execPersistentForward_memWf core line s hs
  | .homeSisLoad acc line => execHomeSisLoad_memWf acc line s hs
  | .homeWtLoad acc line => execHomeWtLoad_memWf acc line s hs
  | .homeWrite acc lane => execHomeWrite_memWf acc lane s hs
  | .holderRecall core line => execHolderRecall_memWf core line s hs
  | .holderTokenAsk core line count requester => execHolderTokenAsk_memWf core line count requester s hs
  | .tokenReturn msg => execTokenReturn_memWf msg s hs
  | .forwardedMerge acc lane owner => execForwardedMerge_memWf acc lane owner s hs
  | .forwardedSisRead acc line owner => execForwardedSisRead_memWf acc line owner s hs
  | .forwardedWtRead acc line owner => execForwardedWtRead_memWf acc line owner s hs
  | .lineEviction core line => execLineEviction_memWf core line s hs
  | .reductionRequest acc lane => execReductionRequest_memWf acc lane s hs
  | .reductionReplayTimeout acc lane => execReductionReplayTimeout_memWf acc lane s hs
  | .reductionAckConfirm acc lane => execReductionAckConfirm_memWf acc lane s hs
  | .futureLoadRequest acc word => execFutureLoadRequest_memWf acc word s hs
  | .futureFill acc lane => execFutureFill_memWf acc lane s hs
  | .ticketPerform part kern => execTicketPerform_memWf part kern s hs
  | .detstallTimeout th => execDetstallTimeout_memWf th s hs
  | .sharingWindowEnd parts => execSharingWindowEnd_memWf parts s hs
  | .regroupPromotion die => execRegroupPromotion_memWf die s hs
  | .regroupEventEnd die => execRegroupEventEnd_memWf die s hs
  | .barrierArrival th team => execBarrierArrival_memWf th team s hs
  | .barrierRetirement th team => execBarrierRetirement_memWf th team s hs
  | .barrierLeave part kern team => execBarrierLeave_memWf part kern team s hs
  | .engineOpStart core engine => execEngineOpStart_memWf core engine s hs
  | .engineOpComplete core engine => execEngineOpComplete_memWf core engine s hs
  | .carriageComplete th serial => execCarriageComplete_memWf th serial s hs
  | .qcmdCreate part index => execQcmdCreate_memWf part index s hs
  | .qcmdSwap part index => execQcmdSwap_memWf part index s hs
  | .qcmdUnswap part index => execQcmdUnswap_memWf part index s hs
  | .qcmdDrain part index => execQcmdDrain_memWf part index s hs
  | .qcmdDiscard part index => execQcmdDiscard_memWf part index s hs
  | .qcmdNone part index => execQcmdNone_memWf part index s hs
  | .queueAging queue level => execQueueAging_memWf queue level s hs
  | .governorEval part kern => execGovernorEval_memWf part kern s hs
  | .ingressFrame half frame badFcs => execIngressFrame_memWf half frame badFcs s hs
  | .egressPop half => execEgressPop_memWf half s hs
  | .egressComplete half => execEgressComplete_memWf half s hs
  | .pauseReceived half priorities cycles => execPauseReceived_memWf half priorities cycles s hs
  | .rxBufferHigh half => execRxBufferHigh_memWf half s hs
  | .rxBufferLow half => execRxBufferLow_memWf half s hs
  | .kldbLaunch part desc => execKldbLaunch_memWf part desc s hs
  | .kctlKill part kern => execKctlKill_memWf part kern s hs
  | .launchAccept part => execLaunchAccept_memWf part s hs
  | .departureCheck part kern => execDepartureCheck_memWf part kern s hs
  | .departureFire part kern core => execDepartureFire_memWf part kern core s hs
  | .kernelEnd part kern => execKernelEnd_memWf part kern s hs
  | .miggoMove part value => execMiggoMove_memWf part value s hs
  | .moveComplete part => execMoveComplete_memWf part s hs
  | .pinEnd part leaf => execPinEnd_memWf part leaf s hs
  | .pcmdStart part desc => execPcmdStart_memWf part desc s hs
  | .pcmdStop part => execPcmdStop_memWf part s hs
  | .pcmdNone part => execPcmdNone_memWf part s hs
  | .bankroleWrite part value => execBankroleWrite_memWf part value s hs
  | .bankroleEffect part => execBankroleEffect_memWf part s hs
  | .lclkperWrite part value => execLclkperWrite_memWf part value s hs
  | .updHoldWrite part hold => execUpdHoldWrite_memWf part hold s hs
  | .thermalAlarm core temp => execThermalAlarm_memWf core temp s hs
  | .thermalThrottle core temp => execThermalThrottle_memWf core temp s hs
  | .thermalShutdown die temp => execThermalShutdown_memWf die temp s hs
  | .voltageAdjust die millivolts => execVoltageAdjust_memWf die millivolts s hs
  | .housekeepingSample part reading => execHousekeepingSample_memWf part reading s hs
  | .packageReset => execPackageReset_memWf s hs
  | .flitReceive link flit room => execFlitReceive_memWf link flit room s hs
  | .nakReceive link seq => execNakReceive_memWf link seq s hs
  | .nakRepeat link => execNakRepeat_memWf link s hs
  | .ackTimeout link => execAckTimeout_memWf link s hs
  | .retrainDone link => execRetrainDone_memWf link s hs
  | .retrainTimeout link => execRetrainTimeout_memWf link s hs
  | .trainingDone link peer => execTrainingDone_memWf link peer s hs
  | .trainingTimeout link => execTrainingTimeout_memWf link s hs
  | .downTimeout link => execDownTimeout_memWf link s hs
  | .couplingEnable coupling => execCouplingEnable_memWf coupling s hs
  | .couplingDisable coupling => execCouplingDisable_memWf coupling s hs
  | .gtSyncSend => execGtSyncSend_memWf s hs
  | .timeBlockPoll => execTimeBlockPoll_memWf s hs
  | .hostCxlMemAccess addr write count => execHostCxlMemAccess_memWf addr write count s hs
  | .bar0Access offset write => execBar0Access_memWf offset write s hs
  | .unassignedOpcode op len => execUnassignedOpcode_memWf op len s hs
  | .fetchFault cause => execFetchFault_memWf cause s hs
  | .idleTimeReached th => execIdleTimeReached_memWf th s hs
  | .correctableSoftError acc lane => execCorrectableSoftError_memWf acc lane s hs
  | .thermalAlarmClear core temp => execThermalAlarmClear_memWf core temp s hs
  | .thermalThrottleEnd core temp => execThermalThrottleEnd_memWf core temp s hs
  | .portHalfUp half => execPortHalfUp_memWf half s hs
  | .portHalfDown half => execPortHalfDown_memWf half s hs
  | .ioTableRecordChange half => execIoTableRecordChange_memWf half s hs
  | .pauseTimeExpiry half priority => execPauseTimeExpiry_memWf half priority s hs

end Sys2Proof.Machine
end

