-- ==== Sys2Proof/Laws/Issue.lean ====
section
/-! SUPPORT. Laws of issue: what `conclude` and the frames `compute`, `computeV`, `computeSfu`, `control` and `jump` answer,
and what a computing instruction leaves of its thread. -/

namespace Sys2Proof.Machine

/-! ### The machine goes on -/

/-- Whatever an instruction answers, the machine goes on. -/
theorem conclude_next (s : State) (id : ThreadId) (r : Res State) : ∃ t, conclude s id r = .next t := by
  unfold conclude; split <;> exact ⟨_, rfl⟩

@[simp] theorem conclude_ok (s : State) (id : ThreadId) (t : State) : conclude s id (.ok t) = .next t := rfl

theorem conclude_trap (s : State) (id : ThreadId) (c d a : Nat) (u : Mask) :
    conclude s id (.error (.trap c d a u)) = .next (takeTrap s id c d a u) := rfl

theorem compute_next (i : Instr) (f : Fields) (body : Thread → Res (Thread × Value)) (s : State) :
    ∃ t, compute i f body s = .next t := conclude_next _ _ _

theorem computeV_next (i : Instr) (f : Fields) (body : Thread → Res Value) (s : State) :
    ∃ t, computeV i f body s = .next t := conclude_next _ _ _

theorem control_next (i : Instr) (f : Fields) (body : State → Thread → Res State) (s : State) :
    ∃ t, control i f body s = .next t := conclude_next _ _ _

theorem computeSfu_next (i : Instr) (f : Fields) (body : Thread → Res Value) (s : State) :
    ∃ t, computeSfu i f body s = .next t := by
  unfold computeSfu; dsimp only; split <;> exact conclude_next _ _ _

/-! ### What the frames answer -/

theorem compute_ok {i : Instr} {f : Fields} {body : Thread → Res (Thread × Value)} {s : State} {th1 : Thread} {v : Value}
    (hc : check i f s s.cur = .ok ()) (hb : body s.cur.opened = .ok (th1, v)) :
    compute i f body s = .next { s with cur := ((th1.retire s.cur f v).next f.len.slot).closed s.cur f } := by
  simp only [compute, hc, hb, conclude_ok]

theorem computeV_ok {i : Instr} {f : Fields} {body : Thread → Res Value} {s : State} {v : Value}
    (hc : check i f s s.cur = .ok ()) (hb : body s.cur.opened = .ok v) :
    computeV i f body s =
      .next { s with cur := ((s.cur.opened.retire s.cur f v).next f.len.slot).closed s.cur f } :=
  compute_ok hc (by simp only [hb])

/-- An instruction whose checks or whose body stop it ends as `conclude` says. -/
theorem computeV_error {i : Instr} {f : Fields} {body : Thread → Res Value} {s : State} {e : Stop}
    (hc : check i f s s.cur = .ok ()) (hb : body s.cur.opened = .error e) :
    computeV i f body s = conclude s s.cur.id (.error e) := by
  simp only [computeV, compute, hc, hb]

theorem compute_blocked {i : Instr} {f : Fields} {body : Thread → Res (Thread × Value)} {s : State} {e : Stop}
    (hc : check i f s s.cur = .error e) : compute i f body s = conclude s s.cur.id (.error e) := by
  simp only [compute, hc]

theorem control_ok {i : Instr} {f : Fields} {body : State → Thread → Res State} {s : State}
    (hc : check i f s s.cur = .ok ()) : control i f body s = conclude s s.cur.id (body s s.cur.opened) := by
  simp only [control, hc]

theorem control_blocked {i : Instr} {f : Fields} {body : State → Thread → Res State} {s : State} {e : Stop}
    (hc : check i f s s.cur = .error e) : control i f body s = conclude s s.cur.id (.error e) := by
  simp only [control, hc]

theorem jump_ok {i : Instr} {f : Fields} {body : Thread → Res (Thread × Value × DWord)} {s : State} {th1 : Thread}
    {v : Value} {pc : DWord} (hc : check i f s s.cur = .ok ()) (hb : body s.cur.opened = .ok (th1, v, pc)) :
    jump i f body s =
      .next { s with cur :=
        let th2 := (th1.retire s.cur f v).closed s.cur f
        { th2 with regs := { th2.regs with pc } } } := by
  simp only [jump, control, hc, hb, conclude_ok]

/-! ### What a computing instruction leaves of its thread -/

/-- Retiring, going on and ending the issue touch the registers, the chain, the run state and the replayed lanes only. -/
theorem closed_frame (th before : Thread) (f : Fields) (v : Value) (n : Nat) :
    let t := ((th.retire before f v).next n).closed before f
    t = { th with regs := t.regs, chain := t.chain, run := t.run, replay := t.replay } := by
  unfold Thread.closed; dsimp only; split <;> rfl

theorem opened_frame (th : Thread) : th.opened = { th with regs := { th.regs with lats := th.opened.regs.lats } } := by
  unfold Thread.opened; split <;> rfl

/-! ### Scalar registers after a write -/

@[simp] theorem readS_63 (r : Regs) : r.readS 63 = 0 := rfl

@[simp] theorem writeS_63 (r : Regs) (ll : Mask) (x : Word) : r.writeS ll 63 x = r := rfl

/-- s0 to s59 hold what is written. -/
theorem readS_writeS_same (r : Regs) (ll : Mask) {n : Nat} (h : n < 60) (x : Word) : (r.writeS ll n x).readS n = x := by
  have h1 : n ≠ 63 := by omega
  have h2 : ¬ 60 ≤ n := by omega
  simp [Regs.writeS, Regs.readS, h1, h2]

/-- s60 to s62 hold what is written under the launched lanes (04 R96). -/
theorem readS_writeS_mask (r : Regs) (ll : Mask) {n : Nat} (h1 : 60 ≤ n) (h2 : n < 63) (x : Word) :
    (r.writeS ll n x).readS n = x &&& ll.extractLsb' (32 * (n - 60)) 32 := by
  have h3 : n ≠ 63 := by omega
  simp [Regs.writeS, Regs.readS, h3, h1]

/-- A write of one scalar register leaves the others. -/
theorem readS_writeS_other (r : Regs) (ll : Mask) {n m : Nat} (h : m ≠ n) (x : Word) : (r.writeS ll n x).readS m = r.readS m := by
  have hg : ∀ y, (lset r.s n y).getD m 0 = r.s.getD m 0 := fun y => getD_lset_other r.s h y
  unfold Regs.writeS Regs.readS
  by_cases h1 : n = 63
  · simp [h1]
  · by_cases h2 : 60 ≤ n <;> by_cases h3 : m = 63 <;> simp only [h1, h2, h3, beq_iff_eq, if_true, if_false, hg, beq_self_eq_true]

/-- A write of a scalar register touches no other part of the registers. -/
theorem writeS_frame (r : Regs) (ll : Mask) (n : Nat) (x : Word) : r.writeS ll n x = { r with s := (r.writeS ll n x).s } := by
  unfold Regs.writeS; split
  · rfl
  · split <;> rfl

/-- The bits of a mask of chosen lanes. -/
theorem getLsbD_maskOf (m : Mask) (p : Nat → Bool) {i : Nat} (h : i < 96) : (maskOf m p).getLsbD i = (m.getLsbD i && p i) := by
  have key : ∀ (n : Nat) , n ≤ 96 → ((List.range n).foldl (fun z i => if m.getLsbD i && p i then z ||| (1#96 <<< i) else z)
      (0 : Mask)).getLsbD i = (decide (i < n) && (m.getLsbD i && p i)) := by
    intro n
    induction n with
    | zero => simp
    | succ n ih =>
      intro hn
      rw [List.range_succ, List.foldl_append]
      simp only [List.foldl_cons, List.foldl_nil]
      have hi := ih (by omega)
      by_cases hc : (m.getLsbD n && p n) = true
      · rw [if_pos hc, BitVec.getLsbD_or, hi]
        by_cases he : i = n
        · subst he; rw [hc]; simp [h]
        · have : decide (i < n + 1) = decide (i < n) := by simp; omega
          rw [this]
          simp [h]
          intro h3; omega
      · rw [if_neg hc, hi]
        by_cases he : i = n
        · subst he; simp [hc]
        · have : decide (i < n + 1) = decide (i < n) := by simp; omega
          rw [this]
  have := key 96 (by omega)
  simpa [maskOf, h] using this

/-- A lane of a masked result: the new value where the mask has the lane, else the old one (04 R97). -/
theorem laneOf_mapActive (m : Mask) (old : List Word) (g : Nat → Word) {i : Nat} (h : i < 96) :
    laneOf (mapActive m old g) i = if m.getLsbD i then g i else laneOf old i := by
  simp [mapActive, laneOf, h]

end Sys2Proof.Machine
end

