-- ==== Sys2Proof/Laws/Checks.lean ====
section
/-! SUPPORT. Laws of the checks: an encoded instruction whose checks (R81 steps 4 and 8 to 11, 04 R103) stop it ends as its check
says, with no effect before it. One lemma per frame and per instruction. -/

namespace Sys2Proof.Machine

variable {f : Fields} {s : State} {e : Stop}

theorem computeSfu_blocked {i : Instr} {body : Thread → Res Value} (hc : check i f s s.cur = .error e) :
    computeSfu i f body s = conclude s s.cur.id (.error e) := by
  unfold computeSfu; dsimp only; split
  · exact compute_blocked hc
  · rw [hc]

theorem jump_blocked {i : Instr} {body : Thread → Res (Thread × Value × DWord)}
    (hc : check i f s s.cur = .error e) :
    jump i f body s = conclude s s.cur.id (.error e) := by
  unfold jump; exact control_blocked hc

theorem syscAnswer_blocked {i : Instr} {act : Answer}
    (hc : check i f s s.cur = .error e) :
    syscAnswer i f act s = conclude s s.cur.id (.error e) := by
  unfold syscAnswer; exact control_blocked hc

theorem vfloatSfu_blocked {i : Instr} {op : Nat → Nat}
    (hc : check i f s s.cur = .error e) :
    vfloatSfu i f op s = conclude s s.cur.id (.error e) := by
  unfold vfloatSfu; exact computeSfu_blocked hc

theorem scopeOp_blocked {i : Instr} {freeze : Bool} {body : State → Thread → Thread × Value}
    (hc : check i f s s.cur = .error e) :
    scopeOp i f freeze body s = conclude s s.cur.id (.error e) := by
  unfold scopeOp; exact control_blocked hc

theorem moment1_blocked {i : Instr} {op : Nat → Nat → Nat × Nat}
    (hc : check i f s s.cur = .error e) :
    moment1 i f op s = conclude s s.cur.id (.error e) := by
  unfold moment1; exact computeSfu_blocked hc

theorem tlbi_blocked {i : Instr} {test : State → Nat → Thread → Nat → Bool} {gone : Thread → Leaf → Bool}
    (hc : check i f s s.cur = .error e) :
    tlbi i f test gone s = conclude s s.cur.id (.error e) := by
  unfold tlbi; exact control_blocked hc

theorem engine_blocked {i : Instr} {eng : EngineSel} {scope : Nat} {tag : Option Tag} {build : Thread → Res EngOpRec}
    (hc : check i f s s.cur = .error e) :
    engine i f eng scope tag build s = conclude s s.cur.id (.error e) := by
  unfold engine; exact control_blocked hc

theorem launchOp_blocked {i : Instr} {time : Thread → Option DWord}
    (hc : check i f s s.cur = .error e) :
    launchOp i f time s = conclude s s.cur.id (.error e) := by
  unfold launchOp; exact control_blocked hc

theorem maskOp_blocked {i : Instr} {body : Thread → Res Thread}
    (hc : check i f s s.cur = .error e) :
    maskOp i f body s = conclude s s.cur.id (.error e) := by
  unfold maskOp; exact compute_blocked hc

theorem computeV_blocked {i : Instr} {body : Thread → Res Value}
    (hc : check i f s s.cur = .error e) :
    computeV i f body s = conclude s s.cur.id (.error e) := by
  unfold computeV; exact compute_blocked hc

theorem mem_blocked {i : Instr} {op : Thread → Res MemOp}
    (hc : check i f s s.cur = .error e) :
    mem i f op s = conclude s s.cur.id (.error e) := by
  unfold mem; exact control_blocked hc

theorem queueOp_blocked {i : Instr} {body : State → Thread → Res State}
    (hc : check i f s s.cur = .error e) :
    queueOp i f body s = conclude s s.cur.id (.error e) := by
  unfold queueOp; exact control_blocked hc

theorem arrival_blocked {i : Instr} {wait : Bool}
    (hc : check i f s s.cur = .error e) :
    arrival i f wait s = conclude s s.cur.id (.error e) := by
  unfold arrival; exact control_blocked hc

theorem branch_blocked {i : Instr} {taken : Thread → Bool}
    (hc : check i f s s.cur = .error e) :
    branch i f taken s = conclude s s.cur.id (.error e) := by
  unfold branch; exact jump_blocked hc

theorem breakOp_blocked {i : Instr} {again : Bool}
    (hc : check i f s s.cur = .error e) :
    breakOp i f again s = conclude s s.cur.id (.error e) := by
  unfold breakOp; exact maskOp_blocked hc

theorem vfloat2_blocked {i : Instr} {op : Nat → Nat → Nat → Nat}
    (hc : check i f s s.cur = .error e) :
    vfloat2 i f op s = conclude s s.cur.id (.error e) := by
  unfold vfloat2; exact computeV_blocked hc

theorem vfloat1_blocked {i : Instr} {op : Nat → Nat → Nat}
    (hc : check i f s s.cur = .error e) :
    vfloat1 i f op s = conclude s s.cur.id (.error e) := by
  unfold vfloat1; exact computeV_blocked hc

theorem lineOp_blocked {i : Instr} {kind : AccKind}
    (hc : check i f s s.cur = .error e) :
    lineOp i f kind s = conclude s s.cur.id (.error e) := by
  unfold lineOp; exact mem_blocked hc

theorem vector1_blocked {i : Instr} {op : BitVec 4 → Nat → Nat → Nat}
    (hc : check i f s s.cur = .error e) :
    vector1 i f op s = conclude s s.cur.id (.error e) := by
  unfold vector1; exact computeV_blocked hc

theorem scalar1_blocked {i : Instr} {op : Nat → Nat → Nat}
    (hc : check i f s s.cur = .error e) :
    scalar1 i f op s = conclude s s.cur.id (.error e) := by
  unfold scalar1; exact computeV_blocked hc

theorem scalarF_blocked {i : Instr} {op : Nat → Nat → Nat}
    (hc : check i f s s.cur = .error e) :
    scalarF i f op s = conclude s s.cur.id (.error e) := by
  unfold scalarF; exact computeV_blocked hc

theorem scalar2_blocked {i : Instr} {op : BitVec 4 → Nat → Nat → Nat → Nat}
    (hc : check i f s s.cur = .error e) :
    scalar2 i f op s = conclude s s.cur.id (.error e) := by
  unfold scalar2; exact computeV_blocked hc

theorem jumpTo_blocked {i : Instr} {link : Bool} {target : Thread → DWord}
    (hc : check i f s s.cur = .error e) :
    jumpTo i f link target s = conclude s s.cur.id (.error e) := by
  unfold jumpTo; exact jump_blocked hc

theorem vector2_blocked {i : Instr} {op : BitVec 4 → Nat → Nat → Nat → Nat}
    (hc : check i f s s.cur = .error e) :
    vector2 i f op s = conclude s s.cur.id (.error e) := by
  unfold vector2; exact computeV_blocked hc

theorem moment2_blocked {i : Instr} {op : Nat → Nat → Nat → Nat → Nat → Nat × Nat}
    (hc : check i f s s.cur = .error e) :
    moment2 i f op s = conclude s s.cur.id (.error e) := by
  unfold moment2; exact computeV_blocked hc

theorem nop_blocked (hc : check (.nop f) f s s.cur = .error e) :
    exec (.nop f) s = conclude s s.cur.id (.error e) := show execNop f s = _ from computeV_blocked hc
theorem br_blocked (hc : check (.br f) f s s.cur = .error e) :
    exec (.br f) s = conclude s s.cur.id (.error e) := show execBr f s = _ from branch_blocked hc
theorem bz_blocked (hc : check (.bz f) f s s.cur = .error e) :
    exec (.bz f) s = conclude s s.cur.id (.error e) := show execBz f s = _ from branch_blocked hc
theorem bnz_blocked (hc : check (.bnz f) f s s.cur = .error e) :
    exec (.bnz f) s = conclude s s.cur.id (.error e) := show execBnz f s = _ from branch_blocked hc
theorem bc_blocked (hc : check (.bc f) f s s.cur = .error e) :
    exec (.bc f) s = conclude s s.cur.id (.error e) := show execBc f s = _ from branch_blocked hc
theorem call_blocked (hc : check (.call f) f s s.cur = .error e) :
    exec (.call f) s = conclude s s.cur.id (.error e) := show execCall f s = _ from jumpTo_blocked hc
theorem callReg_blocked (hc : check (.callReg f) f s s.cur = .error e) :
    exec (.callReg f) s = conclude s s.cur.id (.error e) := show execCallReg f s = _ from jumpTo_blocked hc
theorem ret_blocked (hc : check (.ret f) f s s.cur = .error e) :
    exec (.ret f) s = conclude s s.cur.id (.error e) := show execRet f s = _ from jumpTo_blocked hc
theorem jmpi_blocked (hc : check (.jmpi f) f s s.cur = .error e) :
    exec (.jmpi f) s = conclude s s.cur.id (.error e) := show execJmpi f s = _ from jumpTo_blocked hc
theorem bmz_blocked (hc : check (.bmz f) f s s.cur = .error e) :
    exec (.bmz f) s = conclude s s.cur.id (.error e) := show execBmz f s = _ from branch_blocked hc
theorem bmnz_blocked (hc : check (.bmnz f) f s s.cur = .error e) :
    exec (.bmnz f) s = conclude s s.cur.id (.error e) := show execBmnz f s = _ from branch_blocked hc
theorem mif_blocked (hc : check (.mif f) f s s.cur = .error e) :
    exec (.mif f) s = conclude s s.cur.id (.error e) := show execMif f s = _ from maskOp_blocked hc
theorem melse_blocked (hc : check (.melse f) f s s.cur = .error e) :
    exec (.melse f) s = conclude s s.cur.id (.error e) := show execMelse f s = _ from maskOp_blocked hc
theorem mend_blocked (hc : check (.mend f) f s s.cur = .error e) :
    exec (.mend f) s = conclude s s.cur.id (.error e) := show execMend f s = _ from jump_blocked hc
theorem mloop_blocked (hc : check (.mloop f) f s s.cur = .error e) :
    exec (.mloop f) s = conclude s s.cur.id (.error e) := show execMloop f s = _ from maskOp_blocked hc
theorem mbrk_blocked (hc : check (.mbrk f) f s s.cur = .error e) :
    exec (.mbrk f) s = conclude s s.cur.id (.error e) := show execMbrk f s = _ from breakOp_blocked hc
theorem mcont_blocked (hc : check (.mcont f) f s s.cur = .error e) :
    exec (.mcont f) s = conclude s s.cur.id (.error e) := show execMcont f s = _ from breakOp_blocked hc
theorem mpush_blocked (hc : check (.mpush f) f s s.cur = .error e) :
    exec (.mpush f) s = conclude s s.cur.id (.error e) := show execMpush f s = _ from maskOp_blocked hc
theorem mpop_blocked (hc : check (.mpop f) f s s.cur = .error e) :
    exec (.mpop f) s = conclude s s.cur.id (.error e) := show execMpop f s = _ from maskOp_blocked hc
theorem waitc_blocked (hc : check (.waitc f) f s s.cur = .error e) :
    exec (.waitc f) s = conclude s s.cur.id (.error e) := show execWaitc f s = _ from computeV_blocked hc
theorem yield_blocked (hc : check (.yield f) f s s.cur = .error e) :
    exec (.yield f) s = conclude s s.cur.id (.error e) := show execYield f s = _ from computeV_blocked hc
theorem sleep_blocked (hc : check (.sleep f) f s s.cur = .error e) :
    exec (.sleep f) s = conclude s s.cur.id (.error e) := show execSleep f s = _ from control_blocked hc
theorem done_blocked (hc : check (.done f) f s s.cur = .error e) :
    exec (.done f) s = conclude s s.cur.id (.error e) := show execDone f s = _ from control_blocked hc
theorem trap_blocked (hc : check (.trap f) f s s.cur = .error e) :
    exec (.trap f) s = conclude s s.cur.id (.error e) := show execTrap f s = _ from control_blocked hc
theorem brkpt_blocked (hc : check (.brkpt f) f s s.cur = .error e) :
    exec (.brkpt f) s = conclude s s.cur.id (.error e) := show execBrkpt f s = _ from control_blocked hc
theorem sadd_blocked (hc : check (.sadd f) f s s.cur = .error e) :
    exec (.sadd f) s = conclude s s.cur.id (.error e) := show execSadd f s = _ from scalar2_blocked hc
theorem ssub_blocked (hc : check (.ssub f) f s s.cur = .error e) :
    exec (.ssub f) s = conclude s s.cur.id (.error e) := show execSsub f s = _ from scalar2_blocked hc
theorem smul_blocked (hc : check (.smul f) f s s.cur = .error e) :
    exec (.smul f) s = conclude s s.cur.id (.error e) := show execSmul f s = _ from scalar2_blocked hc
theorem smulh_blocked (hc : check (.smulh f) f s s.cur = .error e) :
    exec (.smulh f) s = conclude s s.cur.id (.error e) := show execSmulh f s = _ from scalar2_blocked hc
theorem sdiv_blocked (hc : check (.sdiv f) f s s.cur = .error e) :
    exec (.sdiv f) s = conclude s s.cur.id (.error e) := show execSdiv f s = _ from scalar2_blocked hc
theorem srem_blocked (hc : check (.srem f) f s s.cur = .error e) :
    exec (.srem f) s = conclude s s.cur.id (.error e) := show execSrem f s = _ from scalar2_blocked hc
theorem sand_blocked (hc : check (.sand f) f s s.cur = .error e) :
    exec (.sand f) s = conclude s s.cur.id (.error e) := show execSand f s = _ from scalar2_blocked hc
theorem sor_blocked (hc : check (.sor f) f s s.cur = .error e) :
    exec (.sor f) s = conclude s s.cur.id (.error e) := show execSor f s = _ from scalar2_blocked hc
theorem sxor_blocked (hc : check (.sxor f) f s s.cur = .error e) :
    exec (.sxor f) s = conclude s s.cur.id (.error e) := show execSxor f s = _ from scalar2_blocked hc
theorem sandn_blocked (hc : check (.sandn f) f s s.cur = .error e) :
    exec (.sandn f) s = conclude s s.cur.id (.error e) := show execSandn f s = _ from scalar2_blocked hc
theorem sshl_blocked (hc : check (.sshl f) f s s.cur = .error e) :
    exec (.sshl f) s = conclude s s.cur.id (.error e) := show execSshl f s = _ from scalar2_blocked hc
theorem sshr_blocked (hc : check (.sshr f) f s s.cur = .error e) :
    exec (.sshr f) s = conclude s s.cur.id (.error e) := show execSshr f s = _ from scalar2_blocked hc
theorem ssra_blocked (hc : check (.ssra f) f s s.cur = .error e) :
    exec (.ssra f) s = conclude s s.cur.id (.error e) := show execSsra f s = _ from scalar2_blocked hc
theorem srot_blocked (hc : check (.srot f) f s s.cur = .error e) :
    exec (.srot f) s = conclude s s.cur.id (.error e) := show execSrot f s = _ from scalar2_blocked hc
theorem smin_blocked (hc : check (.smin f) f s s.cur = .error e) :
    exec (.smin f) s = conclude s s.cur.id (.error e) := show execSmin f s = _ from scalar2_blocked hc
theorem smax_blocked (hc : check (.smax f) f s s.cur = .error e) :
    exec (.smax f) s = conclude s s.cur.id (.error e) := show execSmax f s = _ from scalar2_blocked hc
theorem sclz_blocked (hc : check (.sclz f) f s s.cur = .error e) :
    exec (.sclz f) s = conclude s s.cur.id (.error e) := show execSclz f s = _ from scalar1_blocked hc
theorem spopc_blocked (hc : check (.spopc f) f s s.cur = .error e) :
    exec (.spopc f) s = conclude s s.cur.id (.error e) := show execSpopc f s = _ from scalar1_blocked hc
theorem sbrev_blocked (hc : check (.sbrev f) f s s.cur = .error e) :
    exec (.sbrev f) s = conclude s s.cur.id (.error e) := show execSbrev f s = _ from scalar1_blocked hc
theorem sbfx_blocked (hc : check (.sbfx f) f s s.cur = .error e) :
    exec (.sbfx f) s = conclude s s.cur.id (.error e) := show execSbfx f s = _ from computeV_blocked hc
theorem sbfi_blocked (hc : check (.sbfi f) f s s.cur = .error e) :
    exec (.sbfi f) s = conclude s s.cur.id (.error e) := show execSbfi f s = _ from computeV_blocked hc
theorem ssel_blocked (hc : check (.ssel f) f s s.cur = .error e) :
    exec (.ssel f) s = conclude s s.cur.id (.error e) := show execSsel f s = _ from computeV_blocked hc
theorem scmp_blocked (hc : check (.scmp f) f s s.cur = .error e) :
    exec (.scmp f) s = conclude s s.cur.id (.error e) := show execScmp f s = _ from computeV_blocked hc
theorem smov_blocked (hc : check (.smov f) f s s.cur = .error e) :
    exec (.smov f) s = conclude s s.cur.id (.error e) := show execSmov f s = _ from computeV_blocked hc
theorem sli_blocked (hc : check (.sli f) f s s.cur = .error e) :
    exec (.sli f) s = conclude s s.cur.id (.error e) := show execSli f s = _ from computeV_blocked hc
theorem slea_blocked (hc : check (.slea f) f s s.cur = .error e) :
    exec (.slea f) s = conclude s s.cur.id (.error e) := show execSlea f s = _ from computeV_blocked hc
theorem sfadd_blocked (hc : check (.sfadd f) f s s.cur = .error e) :
    exec (.sfadd f) s = conclude s s.cur.id (.error e) := show execSfadd f s = _ from scalarF_blocked hc
theorem sfsub_blocked (hc : check (.sfsub f) f s s.cur = .error e) :
    exec (.sfsub f) s = conclude s s.cur.id (.error e) := show execSfsub f s = _ from scalarF_blocked hc
theorem sfmul_blocked (hc : check (.sfmul f) f s s.cur = .error e) :
    exec (.sfmul f) s = conclude s s.cur.id (.error e) := show execSfmul f s = _ from scalarF_blocked hc
theorem sffma_blocked (hc : check (.sffma f) f s s.cur = .error e) :
    exec (.sffma f) s = conclude s s.cur.id (.error e) := show execSffma f s = _ from computeV_blocked hc
theorem sfmin_blocked (hc : check (.sfmin f) f s s.cur = .error e) :
    exec (.sfmin f) s = conclude s s.cur.id (.error e) := show execSfmin f s = _ from scalarF_blocked hc
theorem sfmax_blocked (hc : check (.sfmax f) f s s.cur = .error e) :
    exec (.sfmax f) s = conclude s s.cur.id (.error e) := show execSfmax f s = _ from scalarF_blocked hc
theorem sfcmp_blocked (hc : check (.sfcmp f) f s s.cur = .error e) :
    exec (.sfcmp f) s = conclude s s.cur.id (.error e) := show execSfcmp f s = _ from scalarF_blocked hc
theorem sfcvt_blocked (hc : check (.sfcvt f) f s s.cur = .error e) :
    exec (.sfcvt f) s = conclude s s.cur.id (.error e) := show execSfcvt f s = _ from computeV_blocked hc
theorem sfsqrt_blocked (hc : check (.sfsqrt f) f s s.cur = .error e) :
    exec (.sfsqrt f) s = conclude s s.cur.id (.error e) := show execSfsqrt f s = _ from computeV_blocked hc
/-- `srd` has drawn its free value by then. -/
theorem srd_blocked (hc : check (.srd f) f s s.cur = .error e) :
    exec (.srd f) s = conclude { s with free := s.free + 1 } s.cur.id (.error e) :=
  show execSrd f s = _ by unfold execSrd; exact compute_blocked (s := { s with free := s.free + 1 }) hc
theorem swr_blocked (hc : check (.swr f) f s s.cur = .error e) :
    exec (.swr f) s = conclude s s.cur.id (.error e) := show execSwr f s = _ from compute_blocked hc
theorem sgtime_blocked (hc : check (.sgtime f) f s s.cur = .error e) :
    exec (.sgtime f) s = conclude s s.cur.id (.error e) := show execSgtime f s = _ from compute_blocked hc
theorem srnd_blocked (hc : check (.srnd f) f s s.cur = .error e) :
    exec (.srnd f) s = conclude s s.cur.id (.error e) := show execSrnd f s = _ from computeV_blocked hc
theorem smcnt_blocked (hc : check (.smcnt f) f s s.cur = .error e) :
    exec (.smcnt f) s = conclude s s.cur.id (.error e) := show execSmcnt f s = _ from computeV_blocked hc
theorem vadd_blocked (hc : check (.vadd f) f s s.cur = .error e) :
    exec (.vadd f) s = conclude s s.cur.id (.error e) := show execVadd f s = _ from vector2_blocked hc
theorem vsub_blocked (hc : check (.vsub f) f s s.cur = .error e) :
    exec (.vsub f) s = conclude s s.cur.id (.error e) := show execVsub f s = _ from vector2_blocked hc
theorem vmul_blocked (hc : check (.vmul f) f s s.cur = .error e) :
    exec (.vmul f) s = conclude s s.cur.id (.error e) := show execVmul f s = _ from vector2_blocked hc
theorem vmulh_blocked (hc : check (.vmulh f) f s s.cur = .error e) :
    exec (.vmulh f) s = conclude s s.cur.id (.error e) := show execVmulh f s = _ from vector2_blocked hc
theorem vmad_blocked (hc : check (.vmad f) f s s.cur = .error e) :
    exec (.vmad f) s = conclude s s.cur.id (.error e) := show execVmad f s = _ from computeV_blocked hc
theorem vand_blocked (hc : check (.vand f) f s s.cur = .error e) :
    exec (.vand f) s = conclude s s.cur.id (.error e) := show execVand f s = _ from vector2_blocked hc
theorem vor_blocked (hc : check (.vor f) f s s.cur = .error e) :
    exec (.vor f) s = conclude s s.cur.id (.error e) := show execVor f s = _ from vector2_blocked hc
theorem vxor_blocked (hc : check (.vxor f) f s s.cur = .error e) :
    exec (.vxor f) s = conclude s s.cur.id (.error e) := show execVxor f s = _ from vector2_blocked hc
theorem vandn_blocked (hc : check (.vandn f) f s s.cur = .error e) :
    exec (.vandn f) s = conclude s s.cur.id (.error e) := show execVandn f s = _ from vector2_blocked hc
theorem vshl_blocked (hc : check (.vshl f) f s s.cur = .error e) :
    exec (.vshl f) s = conclude s s.cur.id (.error e) := show execVshl f s = _ from vector2_blocked hc
theorem vshr_blocked (hc : check (.vshr f) f s s.cur = .error e) :
    exec (.vshr f) s = conclude s s.cur.id (.error e) := show execVshr f s = _ from vector2_blocked hc
theorem vsra_blocked (hc : check (.vsra f) f s s.cur = .error e) :
    exec (.vsra f) s = conclude s s.cur.id (.error e) := show execVsra f s = _ from vector2_blocked hc
theorem vmin_blocked (hc : check (.vmin f) f s s.cur = .error e) :
    exec (.vmin f) s = conclude s s.cur.id (.error e) := show execVmin f s = _ from vector2_blocked hc
theorem vmax_blocked (hc : check (.vmax f) f s s.cur = .error e) :
    exec (.vmax f) s = conclude s s.cur.id (.error e) := show execVmax f s = _ from vector2_blocked hc
theorem vabs_blocked (hc : check (.vabs f) f s s.cur = .error e) :
    exec (.vabs f) s = conclude s s.cur.id (.error e) := show execVabs f s = _ from vector1_blocked hc
theorem vclz_blocked (hc : check (.vclz f) f s s.cur = .error e) :
    exec (.vclz f) s = conclude s s.cur.id (.error e) := show execVclz f s = _ from vector1_blocked hc
theorem vpopc_blocked (hc : check (.vpopc f) f s s.cur = .error e) :
    exec (.vpopc f) s = conclude s s.cur.id (.error e) := show execVpopc f s = _ from vector1_blocked hc
theorem vbfx_blocked (hc : check (.vbfx f) f s s.cur = .error e) :
    exec (.vbfx f) s = conclude s s.cur.id (.error e) := show execVbfx f s = _ from computeV_blocked hc
theorem vsel_blocked (hc : check (.vsel f) f s s.cur = .error e) :
    exec (.vsel f) s = conclude s s.cur.id (.error e) := show execVsel f s = _ from computeV_blocked hc
theorem vcmp_blocked (hc : check (.vcmp f) f s s.cur = .error e) :
    exec (.vcmp f) s = conclude s s.cur.id (.error e) := show execVcmp f s = _ from computeV_blocked hc
theorem vmov_blocked (hc : check (.vmov f) f s s.cur = .error e) :
    exec (.vmov f) s = conclude s s.cur.id (.error e) := show execVmov f s = _ from computeV_blocked hc
theorem vlid_blocked (hc : check (.vlid f) f s s.cur = .error e) :
    exec (.vlid f) s = conclude s s.cur.id (.error e) := show execVlid f s = _ from computeV_blocked hc
theorem vbc_blocked (hc : check (.vbc f) f s s.cur = .error e) :
    exec (.vbc f) s = conclude s s.cur.id (.error e) := show execVbc f s = _ from computeV_blocked hc
theorem vget_blocked (hc : check (.vget f) f s s.cur = .error e) :
    exec (.vget f) s = conclude s s.cur.id (.error e) := show execVget f s = _ from computeV_blocked hc
theorem vput_blocked (hc : check (.vput f) f s s.cur = .error e) :
    exec (.vput f) s = conclude s s.cur.id (.error e) := show execVput f s = _ from computeV_blocked hc
theorem vperm_blocked (hc : check (.vperm f) f s s.cur = .error e) :
    exec (.vperm f) s = conclude s s.cur.id (.error e) := show execVperm f s = _ from computeV_blocked hc
theorem vshuf_blocked (hc : check (.vshuf f) f s s.cur = .error e) :
    exec (.vshuf f) s = conclude s s.cur.id (.error e) := show execVshuf f s = _ from computeV_blocked hc
theorem vred_blocked (hc : check (.vred f) f s s.cur = .error e) :
    exec (.vred f) s = conclude s s.cur.id (.error e) := show execVred f s = _ from computeV_blocked hc
theorem vscan_blocked (hc : check (.vscan f) f s s.cur = .error e) :
    exec (.vscan f) s = conclude s s.cur.id (.error e) := show execVscan f s = _ from computeV_blocked hc
theorem vhist_blocked (hc : check (.vhist f) f s s.cur = .error e) :
    exec (.vhist f) s = conclude s s.cur.id (.error e) := show execVhist f s = _ from computeV_blocked hc
theorem vbinm_blocked (hc : check (.vbinm f) f s s.cur = .error e) :
    exec (.vbinm f) s = conclude s s.cur.id (.error e) := show execVbinm f s = _ from computeV_blocked hc
theorem vcx_blocked (hc : check (.vcx f) f s s.cur = .error e) :
    exec (.vcx f) s = conclude s s.cur.id (.error e) := show execVcx f s = _ from computeV_blocked hc
theorem vrnd_blocked (hc : check (.vrnd f) f s s.cur = .error e) :
    exec (.vrnd f) s = conclude s s.cur.id (.error e) := show execVrnd f s = _ from computeV_blocked hc
theorem vfadd_blocked (hc : check (.vfadd f) f s s.cur = .error e) :
    exec (.vfadd f) s = conclude s s.cur.id (.error e) := show execVfadd f s = _ from vfloat2_blocked hc
theorem vfsub_blocked (hc : check (.vfsub f) f s s.cur = .error e) :
    exec (.vfsub f) s = conclude s s.cur.id (.error e) := show execVfsub f s = _ from vfloat2_blocked hc
theorem vfmul_blocked (hc : check (.vfmul f) f s s.cur = .error e) :
    exec (.vfmul f) s = conclude s s.cur.id (.error e) := show execVfmul f s = _ from vfloat2_blocked hc
theorem vffma_blocked (hc : check (.vffma f) f s s.cur = .error e) :
    exec (.vffma f) s = conclude s s.cur.id (.error e) := show execVffma f s = _ from computeV_blocked hc
theorem vfdiv_blocked (hc : check (.vfdiv f) f s s.cur = .error e) :
    exec (.vfdiv f) s = conclude s s.cur.id (.error e) := show execVfdiv f s = _ from vfloat2_blocked hc
theorem vfsqrt_blocked (hc : check (.vfsqrt f) f s s.cur = .error e) :
    exec (.vfsqrt f) s = conclude s s.cur.id (.error e) := show execVfsqrt f s = _ from vfloat1_blocked hc
theorem vfmin_blocked (hc : check (.vfmin f) f s s.cur = .error e) :
    exec (.vfmin f) s = conclude s s.cur.id (.error e) := show execVfmin f s = _ from vfloat2_blocked hc
theorem vfmax_blocked (hc : check (.vfmax f) f s s.cur = .error e) :
    exec (.vfmax f) s = conclude s s.cur.id (.error e) := show execVfmax f s = _ from vfloat2_blocked hc
theorem vfabs_blocked (hc : check (.vfabs f) f s s.cur = .error e) :
    exec (.vfabs f) s = conclude s s.cur.id (.error e) := show execVfabs f s = _ from vfloat1_blocked hc
theorem vfneg_blocked (hc : check (.vfneg f) f s s.cur = .error e) :
    exec (.vfneg f) s = conclude s s.cur.id (.error e) := show execVfneg f s = _ from vfloat1_blocked hc
theorem vfcmp_blocked (hc : check (.vfcmp f) f s s.cur = .error e) :
    exec (.vfcmp f) s = conclude s s.cur.id (.error e) := show execVfcmp f s = _ from computeV_blocked hc
theorem vfclass_blocked (hc : check (.vfclass f) f s s.cur = .error e) :
    exec (.vfclass f) s = conclude s s.cur.id (.error e) := show execVfclass f s = _ from computeV_blocked hc
theorem vfrcp_blocked (hc : check (.vfrcp f) f s s.cur = .error e) :
    exec (.vfrcp f) s = conclude s s.cur.id (.error e) := show execVfrcp f s = _ from vfloatSfu_blocked hc
theorem vfrsq_blocked (hc : check (.vfrsq f) f s s.cur = .error e) :
    exec (.vfrsq f) s = conclude s s.cur.id (.error e) := show execVfrsq f s = _ from vfloatSfu_blocked hc
theorem vfexp2_blocked (hc : check (.vfexp2 f) f s s.cur = .error e) :
    exec (.vfexp2 f) s = conclude s s.cur.id (.error e) := show execVfexp2 f s = _ from vfloatSfu_blocked hc
theorem vflog2_blocked (hc : check (.vflog2 f) f s s.cur = .error e) :
    exec (.vflog2 f) s = conclude s s.cur.id (.error e) := show execVflog2 f s = _ from vfloatSfu_blocked hc
theorem vfsin_blocked (hc : check (.vfsin f) f s s.cur = .error e) :
    exec (.vfsin f) s = conclude s s.cur.id (.error e) := show execVfsin f s = _ from vfloatSfu_blocked hc
theorem vfcos_blocked (hc : check (.vfcos f) f s s.cur = .error e) :
    exec (.vfcos f) s = conclude s s.cur.id (.error e) := show execVfcos f s = _ from vfloatSfu_blocked hc
theorem vftanh_blocked (hc : check (.vftanh f) f s s.cur = .error e) :
    exec (.vftanh f) s = conclude s s.cur.id (.error e) := show execVftanh f s = _ from vfloatSfu_blocked hc
theorem vferf_blocked (hc : check (.vferf f) f s s.cur = .error e) :
    exec (.vferf f) s = conclude s s.cur.id (.error e) := show execVferf f s = _ from vfloatSfu_blocked hc
theorem vcvt_blocked (hc : check (.vcvt f) f s s.cur = .error e) :
    exec (.vcvt f) s = conclude s s.cur.id (.error e) := show execVcvt f s = _ from computeV_blocked hc
theorem vbfma_blocked (hc : check (.vbfma f) f s s.cur = .error e) :
    exec (.vbfma f) s = conclude s s.cur.id (.error e) := show execVbfma f s = _ from computeV_blocked hc
theorem vq4s_blocked (hc : check (.vq4s f) f s s.cur = .error e) :
    exec (.vq4s f) s = conclude s s.cur.id (.error e) := show execVq4s f s = _ from compute_blocked hc
theorem vq4p_blocked (hc : check (.vq4p f) f s s.cur = .error e) :
    exec (.vq4p f) s = conclude s s.cur.id (.error e) := show execVq4p f s = _ from compute_blocked hc
theorem vq4x_blocked (hc : check (.vq4x f) f s s.cur = .error e) :
    exec (.vq4x f) s = conclude s s.cur.id (.error e) := show execVq4x f s = _ from computeV_blocked hc
theorem mset_blocked (hc : check (.mset f) f s s.cur = .error e) :
    exec (.mset f) s = conclude s s.cur.id (.error e) := show execMset f s = _ from computeV_blocked hc
theorem mcoll_blocked (hc : check (.mcoll f) f s s.cur = .error e) :
    exec (.mcoll f) s = conclude s s.cur.id (.error e) := show execMcoll f s = _ from compute_blocked hc
theorem msamp_blocked (hc : check (.msamp f) f s s.cur = .error e) :
    exec (.msamp f) s = conclude s s.cur.id (.error e) := show execMsamp f s = _ from computeV_blocked hc
theorem madd_blocked (hc : check (.madd f) f s s.cur = .error e) :
    exec (.madd f) s = conclude s s.cur.id (.error e) := show execMadd f s = _ from moment2_blocked hc
theorem msub_blocked (hc : check (.msub f) f s s.cur = .error e) :
    exec (.msub f) s = conclude s s.cur.id (.error e) := show execMsub f s = _ from moment2_blocked hc
theorem mmul_blocked (hc : check (.mmul f) f s s.cur = .error e) :
    exec (.mmul f) s = conclude s s.cur.id (.error e) := show execMmul f s = _ from moment2_blocked hc
theorem mfma_blocked (hc : check (.mfma f) f s s.cur = .error e) :
    exec (.mfma f) s = conclude s s.cur.id (.error e) := show execMfma f s = _ from computeV_blocked hc
theorem mscl_blocked (hc : check (.mscl f) f s s.cur = .error e) :
    exec (.mscl f) s = conclude s s.cur.id (.error e) := show execMscl f s = _ from computeV_blocked hc
theorem mrelu_blocked (hc : check (.mrelu f) f s s.cur = .error e) :
    exec (.mrelu f) s = conclude s s.cur.id (.error e) := show execMrelu f s = _ from moment1_blocked hc
theorem mexp_blocked (hc : check (.mexp f) f s s.cur = .error e) :
    exec (.mexp f) s = conclude s s.cur.id (.error e) := show execMexp f s = _ from moment1_blocked hc
theorem msig_blocked (hc : check (.msig f) f s s.cur = .error e) :
    exec (.msig f) s = conclude s s.cur.id (.error e) := show execMsig f s = _ from moment1_blocked hc
theorem mtanh_blocked (hc : check (.mtanh f) f s s.cur = .error e) :
    exec (.mtanh f) s = conclude s s.cur.id (.error e) := show execMtanh f s = _ from moment1_blocked hc
theorem mld_blocked (hc : check (.mld f) f s s.cur = .error e) :
    exec (.mld f) s = conclude s s.cur.id (.error e) := show execMld f s = _ from mem_blocked hc
theorem mst_blocked (hc : check (.mst f) f s s.cur = .error e) :
    exec (.mst f) s = conclude s s.cur.id (.error e) := show execMst f s = _ from control_blocked hc
theorem mmov_blocked (hc : check (.mmov f) f s s.cur = .error e) :
    exec (.mmov f) s = conclude s s.cur.id (.error e) := show execMmov f s = _ from computeV_blocked hc
theorem mcfgMcr_blocked (hc : check (.mcfgMcr f) f s s.cur = .error e) :
    exec (.mcfgMcr f) s = conclude s s.cur.id (.error e) := show execMcfgMcr f s = _ from compute_blocked hc
theorem mcfgMrho_blocked (hc : check (.mcfgMrho f) f s s.cur = .error e) :
    exec (.mcfgMrho f) s = conclude s s.cur.id (.error e) := show execMcfgMrho f s = _ from compute_blocked hc
theorem vld_blocked (hc : check (.vld f) f s s.cur = .error e) :
    exec (.vld f) s = conclude s s.cur.id (.error e) := show execVld f s = _ from mem_blocked hc
theorem vldu_blocked (hc : check (.vldu f) f s s.cur = .error e) :
    exec (.vldu f) s = conclude s s.cur.id (.error e) := show execVldu f s = _ from mem_blocked hc
theorem vst_blocked (hc : check (.vst f) f s s.cur = .error e) :
    exec (.vst f) s = conclude s s.cur.id (.error e) := show execVst f s = _ from mem_blocked hc
theorem vatm_blocked (hc : check (.vatm f) f s s.cur = .error e) :
    exec (.vatm f) s = conclude s s.cur.id (.error e) := show execVatm f s = _ from mem_blocked hc
theorem vmred_blocked (hc : check (.vmred f) f s s.cur = .error e) :
    exec (.vmred f) s = conclude s s.cur.id (.error e) := show execVmred f s = _ from mem_blocked hc
theorem vfld_blocked (hc : check (.vfld f) f s s.cur = .error e) :
    exec (.vfld f) s = conclude s s.cur.id (.error e) := show execVfld f s = _ from mem_blocked hc
theorem vfst_blocked (hc : check (.vfst f) f s s.cur = .error e) :
    exec (.vfst f) s = conclude s s.cur.id (.error e) := show execVfst f s = _ from mem_blocked hc
theorem sld_blocked (hc : check (.sld f) f s s.cur = .error e) :
    exec (.sld f) s = conclude s s.cur.id (.error e) := show execSld f s = _ from mem_blocked hc
theorem sst_blocked (hc : check (.sst f) f s s.cur = .error e) :
    exec (.sst f) s = conclude s s.cur.id (.error e) := show execSst f s = _ from mem_blocked hc
theorem satm_blocked (hc : check (.satm f) f s s.cur = .error e) :
    exec (.satm f) s = conclude s s.cur.id (.error e) := show execSatm f s = _ from mem_blocked hc
theorem smred_blocked (hc : check (.smred f) f s s.cur = .error e) :
    exec (.smred f) s = conclude s s.cur.id (.error e) := show execSmred f s = _ from mem_blocked hc
theorem sfld_blocked (hc : check (.sfld f) f s s.cur = .error e) :
    exec (.sfld f) s = conclude s s.cur.id (.error e) := show execSfld f s = _ from mem_blocked hc
theorem sfst_blocked (hc : check (.sfst f) f s s.cur = .error e) :
    exec (.sfst f) s = conclude s s.cur.id (.error e) := show execSfst f s = _ from mem_blocked hc
theorem srsv_blocked (hc : check (.srsv f) f s s.cur = .error e) :
    exec (.srsv f) s = conclude s s.cur.id (.error e) := show execSrsv f s = _ from mem_blocked hc
theorem scnd_blocked (hc : check (.scnd f) f s s.cur = .error e) :
    exec (.scnd f) s = conclude s s.cur.id (.error e) := show execScnd f s = _ from mem_blocked hc
theorem bset_blocked (hc : check (.bset f) f s s.cur = .error e) :
    exec (.bset f) s = conclude s s.cur.id (.error e) := show execBset f s = _ from control_blocked hc
theorem bsetClu_blocked (hc : check (.bsetClu f) f s s.cur = .error e) :
    exec (.bsetClu f) s = conclude s s.cur.id (.error e) := show execBsetClu f s = _ from scopeOp_blocked hc
theorem binv_blocked (hc : check (.binv f) f s s.cur = .error e) :
    exec (.binv f) s = conclude s s.cur.id (.error e) := show execBinv f s = _ from compute_blocked hc
theorem binvAll_blocked (hc : check (.binvAll f) f s s.cur = .error e) :
    exec (.binvAll f) s = conclude s s.cur.id (.error e) := show execBinvAll f s = _ from compute_blocked hc
theorem fence_blocked (hc : check (.fence f) f s s.cur = .error e) :
    exec (.fence f) s = conclude s s.cur.id (.error e) := show execFence f s = _ from control_blocked hc
theorem cwb_blocked (hc : check (.cwb f) f s s.cur = .error e) :
    exec (.cwb f) s = conclude s s.cur.id (.error e) := show execCwb f s = _ from lineOp_blocked hc
theorem cinv_blocked (hc : check (.cinv f) f s s.cur = .error e) :
    exec (.cinv f) s = conclude s s.cur.id (.error e) := show execCinv f s = _ from lineOp_blocked hc
theorem cp_blocked (hc : check (.cp f) f s s.cur = .error e) :
    exec (.cp f) s = conclude s s.cur.id (.error e) := show execCp f s = _ from engine_blocked hc
theorem cpq_blocked (hc : check (.cpq f) f s s.cur = .error e) :
    exec (.cpq f) s = conclude s s.cur.id (.error e) := show execCpq f s = _ from engine_blocked hc
theorem cpg_blocked (hc : check (.cpg f) f s s.cur = .error e) :
    exec (.cpg f) s = conclude s s.cur.id (.error e) := show execCpg f s = _ from engine_blocked hc
theorem seal_blocked (hc : check (.seal f) f s s.cur = .error e) :
    exec (.seal f) s = conclude s s.cur.id (.error e) := show execSeal f s = _ from control_blocked hc
theorem tmma_blocked (hc : check (.tmma f) f s s.cur = .error e) :
    exec (.tmma f) s = conclude s s.cur.id (.error e) := show execTmma f s = _ from engine_blocked hc
theorem tmmag_blocked (hc : check (.tmmag f) f s s.cur = .error e) :
    exec (.tmmag f) s = conclude s s.cur.id (.error e) := show execTmmag f s = _ from engine_blocked hc
theorem tzero_blocked (hc : check (.tzero f) f s s.cur = .error e) :
    exec (.tzero f) s = conclude s s.cur.id (.error e) := show execTzero f s = _ from engine_blocked hc
theorem tld_blocked (hc : check (.tld f) f s s.cur = .error e) :
    exec (.tld f) s = conclude s s.cur.id (.error e) := show execTld f s = _ from engine_blocked hc
theorem tst_blocked (hc : check (.tst f) f s s.cur = .error e) :
    exec (.tst f) s = conclude s s.cur.id (.error e) := show execTst f s = _ from engine_blocked hc
theorem tmam_blocked (hc : check (.tmam f) f s s.cur = .error e) :
    exec (.tmam f) s = conclude s s.cur.id (.error e) := show execTmam f s = _ from engine_blocked hc
theorem tmamm_blocked (hc : check (.tmamm f) f s s.cur = .error e) :
    exec (.tmamm f) s = conclude s s.cur.id (.error e) := show execTmamm f s = _ from engine_blocked hc
theorem scget_blocked (hc : check (.scget f) f s s.cur = .error e) :
    exec (.scget f) s = conclude s s.cur.id (.error e) := show execScget f s = _ from scopeOp_blocked hc
theorem scq_blocked (hc : check (.scq f) f s s.cur = .error e) :
    exec (.scq f) s = conclude s s.cur.id (.error e) := show execScq f s = _ from scopeOp_blocked hc
theorem scfrz_blocked (hc : check (.scfrz f) f s s.cur = .error e) :
    exec (.scfrz f) s = conclude s s.cur.id (.error e) := show execScfrz f s = _ from scopeOp_blocked hc
theorem scthaw_blocked (hc : check (.scthaw f) f s s.cur = .error e) :
    exec (.scthaw f) s = conclude s s.cur.id (.error e) := show execScthaw f s = _ from scopeOp_blocked hc
theorem bar_blocked (hc : check (.bar f) f s s.cur = .error e) :
    exec (.bar f) s = conclude s s.cur.id (.error e) := show execBar f s = _ from arrival_blocked hc
theorem barv_blocked (hc : check (.barv f) f s s.cur = .error e) :
    exec (.barv f) s = conclude s s.cur.id (.error e) := show execBarv f s = _ from arrival_blocked hc
theorem barw_blocked (hc : check (.barw f) f s s.cur = .error e) :
    exec (.barw f) s = conclude s s.cur.id (.error e) := show execBarw f s = _ from control_blocked hc
theorem tmq_blocked (hc : check (.tmq f) f s s.cur = .error e) :
    exec (.tmq f) s = conclude s s.cur.id (.error e) := show execTmq f s = _ from control_blocked hc
theorem qpush_blocked (hc : check (.qpush f) f s s.cur = .error e) :
    exec (.qpush f) s = conclude s s.cur.id (.error e) := show execQpush f s = _ from queueOp_blocked hc
theorem qpop_blocked (hc : check (.qpop f) f s s.cur = .error e) :
    exec (.qpop f) s = conclude s s.cur.id (.error e) := show execQpop f s = _ from control_blocked hc
theorem qdone_blocked (hc : check (.qdone f) f s s.cur = .error e) :
    exec (.qdone f) s = conclude s s.cur.id (.error e) := show execQdone f s = _ from queueOp_blocked hc
theorem qspawn_blocked (hc : check (.qspawn f) f s s.cur = .error e) :
    exec (.qspawn f) s = conclude s s.cur.id (.error e) := show execQspawn f s = _ from queueOp_blocked hc
theorem qjoin_blocked (hc : check (.qjoin f) f s s.cur = .error e) :
    exec (.qjoin f) s = conclude s s.cur.id (.error e) := show execQjoin f s = _ from control_blocked hc
theorem qstat_blocked (hc : check (.qstat f) f s s.cur = .error e) :
    exec (.qstat f) s = conclude s s.cur.id (.error e) := show execQstat f s = _ from control_blocked hc
theorem klaunch_blocked (hc : check (.klaunch f) f s s.cur = .error e) :
    exec (.klaunch f) s = conclude s s.cur.id (.error e) := show execKlaunch f s = _ from launchOp_blocked hc
theorem depart_blocked (hc : check (.depart f) f s s.cur = .error e) :
    exec (.depart f) s = conclude s s.cur.id (.error e) := show execDepart f s = _ from launchOp_blocked hc
theorem dtbeg_blocked (hc : check (.dtbeg f) f s s.cur = .error e) :
    exec (.dtbeg f) s = conclude s s.cur.id (.error e) := show execDtbeg f s = _ from control_blocked hc
theorem dtend_blocked (hc : check (.dtend f) f s s.cur = .error e) :
    exec (.dtend f) s = conclude s s.cur.id (.error e) := show execDtend f s = _ from control_blocked hc
theorem syscResume_blocked (hc : check (.syscResume f) f s s.cur = .error e) :
    exec (.syscResume f) s = conclude s s.cur.id (.error e) := show execSyscResume f s = _ from syscAnswer_blocked hc
theorem syscSkip_blocked (hc : check (.syscSkip f) f s s.cur = .error e) :
    exec (.syscSkip f) s = conclude s s.cur.id (.error e) := show execSyscSkip f s = _ from syscAnswer_blocked hc
theorem syscAbandon_blocked (hc : check (.syscAbandon f) f s s.cur = .error e) :
    exec (.syscAbandon f) s = conclude s s.cur.id (.error e) := show execSyscAbandon f s = _ from syscAnswer_blocked hc
theorem syscCall_blocked (hc : check (.syscCall f) f s s.cur = .error e) :
    exec (.syscCall f) s = conclude s s.cur.id (.error e) := show execSyscCall f s = _ from control_blocked hc
theorem eret_blocked (hc : check (.eret f) f s s.cur = .error e) :
    exec (.eret f) s = conclude s s.cur.id (.error e) := show execEret f s = _ from control_blocked hc
theorem srdp_blocked (hc : check (.srdp f) f s s.cur = .error e) :
    exec (.srdp f) s = conclude s s.cur.id (.error e) := show execSrdp f s = _ from control_blocked hc
theorem swrp_blocked (hc : check (.swrp f) f s s.cur = .error e) :
    exec (.swrp f) s = conclude s s.cur.id (.error e) := show execSwrp f s = _ from control_blocked hc
theorem tlbiVa_blocked (hc : check (.tlbiVa f) f s s.cur = .error e) :
    exec (.tlbiVa f) s = conclude s s.cur.id (.error e) := show execTlbiVa f s = _ from tlbi_blocked hc
theorem tlbiCtx_blocked (hc : check (.tlbiCtx f) f s s.cur = .error e) :
    exec (.tlbiCtx f) s = conclude s s.cur.id (.error e) := show execTlbiCtx f s = _ from tlbi_blocked hc
theorem tlbiAll_blocked (hc : check (.tlbiAll f) f s s.cur = .error e) :
    exec (.tlbiAll f) s = conclude s s.cur.id (.error e) := show execTlbiAll f s = _ from tlbi_blocked hc
theorem ctxs_blocked (hc : check (.ctxs f) f s s.cur = .error e) :
    exec (.ctxs f) s = conclude s s.cur.id (.error e) := show execCtxs f s = _ from control_blocked hc
theorem ctxr_blocked (hc : check (.ctxr f) f s s.cur = .error e) :
    exec (.ctxr f) s = conclude s s.cur.id (.error e) := show execCtxr f s = _ from control_blocked hc
theorem idle_blocked (hc : check (.idle f) f s s.cur = .error e) :
    exec (.idle f) s = conclude s s.cur.id (.error e) := show execIdle f s = _ from control_blocked hc

end Sys2Proof.Machine
end

