-- ==== Sys2Proof/Laws/Encoding.lean ====
section
/-! SUPPORT. Laws of the layout of a word (03_encoding R54, R59): the fields that are packed are the fields that are read
back, and the bytes of a slot are the bytes that were laid out (00_scope R4). -/

namespace Sys2Proof

/-! ### Fields of a word -/

theorem bits_below_self (n : Nat) (x : BitVec n) (r : Nat) : bits 0 n (below n x r) = x := by
  apply BitVec.eq_of_toNat_eq
  simp [bits, below, Nat.add_mul_mod_self_left]

theorem below_div (n k : Nat) (x : BitVec n) (r : Nat) : below n x r / 2 ^ (n + k) = r / 2 ^ k := by
  rw [Nat.pow_add, ← Nat.div_div_eq_div_mul, below, Nat.add_mul_div_left _ _ (Nat.two_pow_pos n),
    Nat.div_eq_of_lt x.isLt, Nat.zero_add]

theorem bits_below_skip (n k m : Nat) (x : BitVec n) (r : Nat) : bits (n + k) m (below n x r) = bits k m r := by
  rw [bits, bits, below_div]

theorem below_lt {n k r : Nat} (x : BitVec n) (h : r < 2 ^ k) : below n x r < 2 ^ (n + k) := by
  have : 2 ^ n * (r + 1) ≤ 2 ^ n * 2 ^ k := Nat.mul_le_mul_left _ h
  rw [Nat.pow_add, below]
  have := x.isLt
  rw [Nat.mul_add] at *
  omega

theorem ofBool_flag (b : Bool) : (BitVec.ofBool b == 1#1) = b := by cases b <;> rfl

/-- A base word fits 64 bits. -/
theorem packBase_lt (op : Nat) (f : Fields) : packBase op f < 2 ^ 64 := by
  unfold packBase
  exact below_lt (k := 62) _ (below_lt (k := 54) _ (below_lt (k := 50) _ (below_lt (k := 49) _ (below_lt (k := 48) _
    (below_lt (k := 40) _ (below_lt (k := 32) _ (below_lt (k := 24) _ (below_lt (k := 16) _ (below_lt (k := 12) _
    (below_lt (k := 8) _ (below_lt (k := 0) _ (Nat.one_pos))))))))))))

theorem bits_len (op : Nat) (f : Fields) : bits 0 2 (packBase op f) = f.len.code := bits_below_self ..

theorem bits_op (op : Nat) (f : Fields) : bits 2 8 (packBase op f) = BitVec.ofNat 8 op := by
  exact (bits_below_skip 2 0 8 _ _).trans (bits_below_self ..)

/-- The fields read back from a base word are those that were packed (R59). -/
theorem unpackBase_packBase (op : Nat) (f : Fields) (imm : Nat) :
    unpackBase f.len (packBase op f) imm = { f with imm := BitVec.ofNat 64 imm } := by
  have skip (a b c : Nat) (h : a = b + c) (m : Nat) (x : BitVec b) (r : Nat) : bits a m (below b x r) = bits c m r := by
    subst h; exact bits_below_skip ..
  unfold unpackBase packBase
  congr 1
  · rw [skip 10 2 8 rfl, skip 8 8 0 rfl, bits_below_self]
  · rw [skip 14 2 12 rfl, skip 12 8 4 rfl, skip 4 4 0 rfl, bits_below_self]; exact ofBool_flag _
  · rw [skip 15 2 13 rfl, skip 13 8 5 rfl, skip 5 4 1 rfl, skip 1 1 0 rfl, bits_below_self]; exact ofBool_flag _
  · rw [skip 16 2 14 rfl, skip 14 8 6 rfl, skip 6 4 2 rfl, skip 2 1 1 rfl, skip 1 1 0 rfl, bits_below_self]
  · rw [skip 24 2 22 rfl, skip 22 8 14 rfl, skip 14 4 10 rfl, skip 10 1 9 rfl, skip 9 1 8 rfl, skip 8 8 0 rfl, bits_below_self]
  · rw [skip 32 2 30 rfl, skip 30 8 22 rfl, skip 22 4 18 rfl, skip 18 1 17 rfl, skip 17 1 16 rfl, skip 16 8 8 rfl,
      skip 8 8 0 rfl, bits_below_self]
  · rw [skip 40 2 38 rfl, skip 38 8 30 rfl, skip 30 4 26 rfl, skip 26 1 25 rfl, skip 25 1 24 rfl, skip 24 8 16 rfl,
      skip 16 8 8 rfl, skip 8 8 0 rfl, bits_below_self]
  · rw [skip 48 2 46 rfl, skip 46 8 38 rfl, skip 38 4 34 rfl, skip 34 1 33 rfl, skip 33 1 32 rfl, skip 32 8 24 rfl,
      skip 24 8 16 rfl, skip 16 8 8 rfl, skip 8 8 0 rfl, bits_below_self]
  · rw [skip 52 2 50 rfl, skip 50 8 42 rfl, skip 42 4 38 rfl, skip 38 1 37 rfl, skip 37 1 36 rfl, skip 36 8 28 rfl,
      skip 28 8 20 rfl, skip 20 8 12 rfl, skip 12 8 4 rfl, skip 4 4 0 rfl, bits_below_self]
  · rw [skip 56 2 54 rfl, skip 54 8 46 rfl, skip 46 4 42 rfl, skip 42 1 41 rfl, skip 41 1 40 rfl, skip 40 8 32 rfl,
      skip 32 8 24 rfl, skip 24 8 16 rfl, skip 16 8 8 rfl, skip 8 4 4 rfl, skip 4 4 0 rfl, bits_below_self]

/-! ### Bytes of a slot -/

/-- The number whose `n` bytes were laid out, where it fits. -/
theorem ofLeBytes_leBytes_lt {n x : Nat} (h : x < 256 ^ n) : ofLeBytes (leBytes n x) = x := by
  rw [ofLeBytes_leBytes, Nat.mod_eq_of_lt h]

/-- A slot of one base word and the bytes `tail` gives back the base word and the tail (R54). -/
theorem readSlot_base (op : Nat) (f : Fields) (tail : List Byte) :
    ofLeBytes ((leBytes 8 (packBase op f) ++ tail).take 8) = packBase op f ∧
    (leBytes 8 (packBase op f) ++ tail).drop 8 = tail := by
  have hl : (leBytes 8 (packBase op f)).length = 8 := leBytes_length ..
  constructor
  · rw [List.take_append_of_le_length (by omega), List.take_of_length_le (by omega),
      ofLeBytes_leBytes_lt (by simpa using packBase_lt op f)]
  · rw [List.drop_append_of_le_length (by omega), List.drop_of_length_le (by omega), List.nil_append]

end Sys2Proof
end

