-- ==== Sys2Proof/Laws/PerInstr.lean ====
section
/-! SUPPORT. Laws stated per instruction. `Coded` (03_encoding R76, R77): the opcode of an instruction's entry is assigned, and
with the fields of a legal instruction it leads back to that instruction. -/

namespace Sys2Proof.Laws

/-- The entry's opcode and the instruction's legal fields select the instruction (R76, R77). -/
def Coded.Statement (i : Instr) : Prop :=
  ∀ r f, row i = some r → fieldsOf i = some f → r.legal f = true →
    candidate r.op f = some i ∧ assigned r.op = true ∧ r.op < 256

/-- What legal fields meet: every demand of R81 steps 4 to 7. -/
theorem legal_parts {r : Row} {f : Fields} (h : r.legal f = true) :
    r.fns.contains f.fn.toNat = true ∧ r.lens.contains f.len = true ∧ r.tys.contains f.ty.toNat = true ∧
    r.mos.contains f.mo.toNat = true ∧ r.ax.accepts f.ax = true ∧ r.acceptsImm f = true ∧
    (f.nd = true → r.nd = true ∧ f.d = 0) ∧
    (r.d.accepts false f.d && r.a.accepts true f.a && (r.bCls f).accepts true f.b && r.acceptsC f) = true ∧ r.extra = true := by
  have hc : r.check f = .ok () := by
    unfold Row.legal at h
    cases e : r.check f with
    | ok _ => rfl
    | error _ => simp [e] at h
  unfold Row.check at hc
  repeat' (split at hc; · exact absurd hc (by simp))
  simp_all

/-- The FN is one that the entry assigns, and the entry's own demand holds. -/
theorem legal_fn_extra {r : Row} {f : Fields} (h : r.legal f = true) :
    r.fns.contains f.fn.toNat = true ∧ r.extra = true :=
  ⟨(legal_parts h).1, (legal_parts h).2.2.2.2.2.2.2.2⟩

/-- A well-formed encoded instruction is legal by its entry. -/
theorem legal_of_wellFormed {i : Instr} {r : Row} {f : Fields} (h : i.wellFormed = true) (hr : row i = some r)
    (hf : fieldsOf i = some f) : r.legal f = true := by
  simpa [Instr.wellFormed, hr, hf] using h

theorem fn_of_legal {r : Row} {f : Fields} (h : r.legal f = true) : r.fns.contains f.fn.toNat = true := (legal_fn_extra h).1
theorem extra_of_legal {r : Row} {f : Fields} (h : r.legal f = true) : r.extra = true := (legal_fn_extra h).2

/-- An entry that assigns one FN. -/
theorem fn_of_single {r : Row} {f : Fields} {n : Nat} (h : r.legal f = true) (e : r.fns = [n]) : f.fn.toNat = n := by
  simpa [e] using fn_of_legal h

/-- An entry of opcode `n` is coded where the opcode map leads from `n` to the instruction. -/
theorem coded {r : Row} {f : Fields} {i : Instr} {n : Nat} (hop : r.op = n) (hc : candidate n f = some i)
    (ha : assigned n = true) (hn : n < 256) : candidate r.op f = some i ∧ assigned r.op = true ∧ r.op < 256 := by
  subst hop; exact ⟨hc, ha, hn⟩

/-- A four-bit field is given by its number. -/
theorem fn_eq {x : BitVec 4} {n : Nat} (h : x.toNat = n) (hn : n < 16) : x = BitVec.ofNat 4 n := by
  apply BitVec.eq_of_toNat_eq
  simp [h, Nat.mod_eq_of_lt hn]


theorem Coded.nop (f : Fields) : Coded.Statement (.nop f) := by
  intro r g hr hg _; cases hr; cases hg; exact coded (n := 0x00) rfl rfl rfl (by decide)

theorem Coded.br (f : Fields) : Coded.Statement (.br f) := by
  intro r g hr hg _; cases hr; cases hg; exact coded (n := 0x01) rfl rfl rfl (by decide)

theorem Coded.bz (f : Fields) : Coded.Statement (.bz f) := by
  intro r g hr hg _; cases hr; cases hg; exact coded (n := 0x02) rfl rfl rfl (by decide)

theorem Coded.bnz (f : Fields) : Coded.Statement (.bnz f) := by
  intro r g hr hg _; cases hr; cases hg; exact coded (n := 0x03) rfl rfl rfl (by decide)

theorem Coded.bc (f : Fields) : Coded.Statement (.bc f) := by
  intro r g hr hg _; cases hr; cases hg; exact coded (n := 0x04) rfl rfl rfl (by decide)

theorem Coded.call (f : Fields) : Coded.Statement (.call f) := by
  intro r g hr hg h; cases hr; cases hg
  have hf : f.fn = 0 := fn_eq (fn_of_single h rfl) (by decide)
  have hc : candidate 0x05 f = some (if f.fn == 1 then .callReg f else .call f) := rfl
  exact coded (n := 0x05) rfl (by rw [hc, hf]; rfl) rfl (by decide)

theorem Coded.callReg (f : Fields) : Coded.Statement (.callReg f) := by
  intro r g hr hg h; cases hr; cases hg
  have hf : f.fn = 1 := fn_eq (fn_of_single h rfl) (by decide)
  have hc : candidate 0x05 f = some (if f.fn == 1 then .callReg f else .call f) := rfl
  exact coded (n := 0x05) rfl (by rw [hc, hf]; rfl) rfl (by decide)

theorem Coded.ret (f : Fields) : Coded.Statement (.ret f) := by
  intro r g hr hg _; cases hr; cases hg; exact coded (n := 0x06) rfl rfl rfl (by decide)

theorem Coded.jmpi (f : Fields) : Coded.Statement (.jmpi f) := by
  intro r g hr hg _; cases hr; cases hg; exact coded (n := 0x07) rfl rfl rfl (by decide)

theorem Coded.bmz (f : Fields) : Coded.Statement (.bmz f) := by
  intro r g hr hg _; cases hr; cases hg; exact coded (n := 0x08) rfl rfl rfl (by decide)

theorem Coded.bmnz (f : Fields) : Coded.Statement (.bmnz f) := by
  intro r g hr hg _; cases hr; cases hg; exact coded (n := 0x09) rfl rfl rfl (by decide)

theorem Coded.mif (f : Fields) : Coded.Statement (.mif f) := by
  intro r g hr hg _; cases hr; cases hg; exact coded (n := 0x0A) rfl rfl rfl (by decide)

theorem Coded.melse (f : Fields) : Coded.Statement (.melse f) := by
  intro r g hr hg _; cases hr; cases hg; exact coded (n := 0x0B) rfl rfl rfl (by decide)

theorem Coded.mend (f : Fields) : Coded.Statement (.mend f) := by
  intro r g hr hg _; cases hr; cases hg; exact coded (n := 0x0C) rfl rfl rfl (by decide)

theorem Coded.mloop (f : Fields) : Coded.Statement (.mloop f) := by
  intro r g hr hg _; cases hr; cases hg; exact coded (n := 0x0D) rfl rfl rfl (by decide)

theorem Coded.mbrk (f : Fields) : Coded.Statement (.mbrk f) := by
  intro r g hr hg _; cases hr; cases hg; exact coded (n := 0x0E) rfl rfl rfl (by decide)

theorem Coded.mcont (f : Fields) : Coded.Statement (.mcont f) := by
  intro r g hr hg _; cases hr; cases hg; exact coded (n := 0x0F) rfl rfl rfl (by decide)

theorem Coded.mpush (f : Fields) : Coded.Statement (.mpush f) := by
  intro r g hr hg _; cases hr; cases hg; exact coded (n := 0x10) rfl rfl rfl (by decide)

theorem Coded.mpop (f : Fields) : Coded.Statement (.mpop f) := by
  intro r g hr hg _; cases hr; cases hg; exact coded (n := 0x11) rfl rfl rfl (by decide)

theorem Coded.waitc (f : Fields) : Coded.Statement (.waitc f) := by
  intro r g hr hg _; cases hr; cases hg; exact coded (n := 0x12) rfl rfl rfl (by decide)

theorem Coded.yield (f : Fields) : Coded.Statement (.yield f) := by
  intro r g hr hg _; cases hr; cases hg; exact coded (n := 0x13) rfl rfl rfl (by decide)

theorem Coded.sleep (f : Fields) : Coded.Statement (.sleep f) := by
  intro r g hr hg _; cases hr; cases hg; exact coded (n := 0x14) rfl rfl rfl (by decide)

theorem Coded.done (f : Fields) : Coded.Statement (.done f) := by
  intro r g hr hg _; cases hr; cases hg; exact coded (n := 0x15) rfl rfl rfl (by decide)

theorem Coded.trap (f : Fields) : Coded.Statement (.trap f) := by
  intro r g hr hg _; cases hr; cases hg; exact coded (n := 0x16) rfl rfl rfl (by decide)

theorem Coded.brkpt (f : Fields) : Coded.Statement (.brkpt f) := by
  intro r g hr hg _; cases hr; cases hg; exact coded (n := 0x17) rfl rfl rfl (by decide)

theorem Coded.sadd (f : Fields) : Coded.Statement (.sadd f) := by
  intro r g hr hg _; cases hr; cases hg; exact coded (n := 0x20) rfl rfl rfl (by decide)

theorem Coded.ssub (f : Fields) : Coded.Statement (.ssub f) := by
  intro r g hr hg _; cases hr; cases hg; exact coded (n := 0x21) rfl rfl rfl (by decide)

theorem Coded.smul (f : Fields) : Coded.Statement (.smul f) := by
  intro r g hr hg _; cases hr; cases hg; exact coded (n := 0x22) rfl rfl rfl (by decide)

theorem Coded.smulh (f : Fields) : Coded.Statement (.smulh f) := by
  intro r g hr hg _; cases hr; cases hg; exact coded (n := 0x23) rfl rfl rfl (by decide)

theorem Coded.sdiv (f : Fields) : Coded.Statement (.sdiv f) := by
  intro r g hr hg _; cases hr; cases hg; exact coded (n := 0x24) rfl rfl rfl (by decide)

theorem Coded.srem (f : Fields) : Coded.Statement (.srem f) := by
  intro r g hr hg _; cases hr; cases hg; exact coded (n := 0x25) rfl rfl rfl (by decide)

theorem Coded.sand (f : Fields) : Coded.Statement (.sand f) := by
  intro r g hr hg _; cases hr; cases hg; exact coded (n := 0x26) rfl rfl rfl (by decide)

theorem Coded.sor (f : Fields) : Coded.Statement (.sor f) := by
  intro r g hr hg _; cases hr; cases hg; exact coded (n := 0x27) rfl rfl rfl (by decide)

theorem Coded.sxor (f : Fields) : Coded.Statement (.sxor f) := by
  intro r g hr hg _; cases hr; cases hg; exact coded (n := 0x28) rfl rfl rfl (by decide)

theorem Coded.sandn (f : Fields) : Coded.Statement (.sandn f) := by
  intro r g hr hg _; cases hr; cases hg; exact coded (n := 0x29) rfl rfl rfl (by decide)

theorem Coded.sshl (f : Fields) : Coded.Statement (.sshl f) := by
  intro r g hr hg _; cases hr; cases hg; exact coded (n := 0x2A) rfl rfl rfl (by decide)

theorem Coded.sshr (f : Fields) : Coded.Statement (.sshr f) := by
  intro r g hr hg _; cases hr; cases hg; exact coded (n := 0x2B) rfl rfl rfl (by decide)

theorem Coded.ssra (f : Fields) : Coded.Statement (.ssra f) := by
  intro r g hr hg _; cases hr; cases hg; exact coded (n := 0x2C) rfl rfl rfl (by decide)

theorem Coded.srot (f : Fields) : Coded.Statement (.srot f) := by
  intro r g hr hg _; cases hr; cases hg; exact coded (n := 0x2D) rfl rfl rfl (by decide)

theorem Coded.smin (f : Fields) : Coded.Statement (.smin f) := by
  intro r g hr hg _; cases hr; cases hg; exact coded (n := 0x2E) rfl rfl rfl (by decide)

theorem Coded.smax (f : Fields) : Coded.Statement (.smax f) := by
  intro r g hr hg _; cases hr; cases hg; exact coded (n := 0x2F) rfl rfl rfl (by decide)

theorem Coded.sclz (f : Fields) : Coded.Statement (.sclz f) := by
  intro r g hr hg _; cases hr; cases hg; exact coded (n := 0x30) rfl rfl rfl (by decide)

theorem Coded.spopc (f : Fields) : Coded.Statement (.spopc f) := by
  intro r g hr hg _; cases hr; cases hg; exact coded (n := 0x31) rfl rfl rfl (by decide)

theorem Coded.sbrev (f : Fields) : Coded.Statement (.sbrev f) := by
  intro r g hr hg _; cases hr; cases hg; exact coded (n := 0x32) rfl rfl rfl (by decide)

theorem Coded.sbfx (f : Fields) : Coded.Statement (.sbfx f) := by
  intro r g hr hg _; cases hr; cases hg; exact coded (n := 0x33) rfl rfl rfl (by decide)

theorem Coded.sbfi (f : Fields) : Coded.Statement (.sbfi f) := by
  intro r g hr hg _; cases hr; cases hg; exact coded (n := 0x34) rfl rfl rfl (by decide)

theorem Coded.ssel (f : Fields) : Coded.Statement (.ssel f) := by
  intro r g hr hg _; cases hr; cases hg; exact coded (n := 0x35) rfl rfl rfl (by decide)

theorem Coded.scmp (f : Fields) : Coded.Statement (.scmp f) := by
  intro r g hr hg _; cases hr; cases hg; exact coded (n := 0x36) rfl rfl rfl (by decide)

theorem Coded.smov (f : Fields) : Coded.Statement (.smov f) := by
  intro r g hr hg _; cases hr; cases hg; exact coded (n := 0x37) rfl rfl rfl (by decide)

theorem Coded.sli (f : Fields) : Coded.Statement (.sli f) := by
  intro r g hr hg _; cases hr; cases hg; exact coded (n := 0x38) rfl rfl rfl (by decide)

theorem Coded.slea (f : Fields) : Coded.Statement (.slea f) := by
  intro r g hr hg _; cases hr; cases hg; exact coded (n := 0x39) rfl rfl rfl (by decide)

theorem Coded.sfadd (f : Fields) : Coded.Statement (.sfadd f) := by
  intro r g hr hg _; cases hr; cases hg; exact coded (n := 0x40) rfl rfl rfl (by decide)

theorem Coded.sfsub (f : Fields) : Coded.Statement (.sfsub f) := by
  intro r g hr hg _; cases hr; cases hg; exact coded (n := 0x41) rfl rfl rfl (by decide)

theorem Coded.sfmul (f : Fields) : Coded.Statement (.sfmul f) := by
  intro r g hr hg _; cases hr; cases hg; exact coded (n := 0x42) rfl rfl rfl (by decide)

theorem Coded.sffma (f : Fields) : Coded.Statement (.sffma f) := by
  intro r g hr hg _; cases hr; cases hg; exact coded (n := 0x43) rfl rfl rfl (by decide)

theorem Coded.sfmin (f : Fields) : Coded.Statement (.sfmin f) := by
  intro r g hr hg _; cases hr; cases hg; exact coded (n := 0x44) rfl rfl rfl (by decide)

theorem Coded.sfmax (f : Fields) : Coded.Statement (.sfmax f) := by
  intro r g hr hg _; cases hr; cases hg; exact coded (n := 0x45) rfl rfl rfl (by decide)

theorem Coded.sfcmp (f : Fields) : Coded.Statement (.sfcmp f) := by
  intro r g hr hg _; cases hr; cases hg; exact coded (n := 0x46) rfl rfl rfl (by decide)

theorem Coded.sfcvt (f : Fields) : Coded.Statement (.sfcvt f) := by
  intro r g hr hg _; cases hr; cases hg; exact coded (n := 0x47) rfl rfl rfl (by decide)

theorem Coded.sfsqrt (f : Fields) : Coded.Statement (.sfsqrt f) := by
  intro r g hr hg _; cases hr; cases hg; exact coded (n := 0x48) rfl rfl rfl (by decide)

theorem Coded.srd (f : Fields) : Coded.Statement (.srd f) := by
  intro r g hr hg _; cases hr; cases hg; exact coded (n := 0x49) rfl rfl rfl (by decide)

theorem Coded.swr (f : Fields) : Coded.Statement (.swr f) := by
  intro r g hr hg _; cases hr; cases hg; exact coded (n := 0x4A) rfl rfl rfl (by decide)

theorem Coded.sgtime (f : Fields) : Coded.Statement (.sgtime f) := by
  intro r g hr hg _; cases hr; cases hg; exact coded (n := 0x4B) rfl rfl rfl (by decide)

theorem Coded.srnd (f : Fields) : Coded.Statement (.srnd f) := by
  intro r g hr hg _; cases hr; cases hg; exact coded (n := 0x4C) rfl rfl rfl (by decide)

theorem Coded.smcnt (f : Fields) : Coded.Statement (.smcnt f) := by
  intro r g hr hg _; cases hr; cases hg; exact coded (n := 0x4D) rfl rfl rfl (by decide)

theorem Coded.vadd (f : Fields) : Coded.Statement (.vadd f) := by
  intro r g hr hg _; cases hr; cases hg; exact coded (n := 0x50) rfl rfl rfl (by decide)

theorem Coded.vsub (f : Fields) : Coded.Statement (.vsub f) := by
  intro r g hr hg _; cases hr; cases hg; exact coded (n := 0x51) rfl rfl rfl (by decide)

theorem Coded.vmul (f : Fields) : Coded.Statement (.vmul f) := by
  intro r g hr hg _; cases hr; cases hg; exact coded (n := 0x52) rfl rfl rfl (by decide)

theorem Coded.vmulh (f : Fields) : Coded.Statement (.vmulh f) := by
  intro r g hr hg _; cases hr; cases hg; exact coded (n := 0x53) rfl rfl rfl (by decide)

theorem Coded.vmad (f : Fields) : Coded.Statement (.vmad f) := by
  intro r g hr hg _; cases hr; cases hg; exact coded (n := 0x54) rfl rfl rfl (by decide)

theorem Coded.vand (f : Fields) : Coded.Statement (.vand f) := by
  intro r g hr hg _; cases hr; cases hg; exact coded (n := 0x55) rfl rfl rfl (by decide)

theorem Coded.vor (f : Fields) : Coded.Statement (.vor f) := by
  intro r g hr hg _; cases hr; cases hg; exact coded (n := 0x56) rfl rfl rfl (by decide)

theorem Coded.vxor (f : Fields) : Coded.Statement (.vxor f) := by
  intro r g hr hg _; cases hr; cases hg; exact coded (n := 0x57) rfl rfl rfl (by decide)

theorem Coded.vandn (f : Fields) : Coded.Statement (.vandn f) := by
  intro r g hr hg _; cases hr; cases hg; exact coded (n := 0x58) rfl rfl rfl (by decide)

theorem Coded.vshl (f : Fields) : Coded.Statement (.vshl f) := by
  intro r g hr hg _; cases hr; cases hg; exact coded (n := 0x59) rfl rfl rfl (by decide)

theorem Coded.vshr (f : Fields) : Coded.Statement (.vshr f) := by
  intro r g hr hg _; cases hr; cases hg; exact coded (n := 0x5A) rfl rfl rfl (by decide)

theorem Coded.vsra (f : Fields) : Coded.Statement (.vsra f) := by
  intro r g hr hg _; cases hr; cases hg; exact coded (n := 0x5B) rfl rfl rfl (by decide)

theorem Coded.vmin (f : Fields) : Coded.Statement (.vmin f) := by
  intro r g hr hg _; cases hr; cases hg; exact coded (n := 0x5C) rfl rfl rfl (by decide)

theorem Coded.vmax (f : Fields) : Coded.Statement (.vmax f) := by
  intro r g hr hg _; cases hr; cases hg; exact coded (n := 0x5D) rfl rfl rfl (by decide)

theorem Coded.vabs (f : Fields) : Coded.Statement (.vabs f) := by
  intro r g hr hg _; cases hr; cases hg; exact coded (n := 0x5E) rfl rfl rfl (by decide)

theorem Coded.vclz (f : Fields) : Coded.Statement (.vclz f) := by
  intro r g hr hg _; cases hr; cases hg; exact coded (n := 0x5F) rfl rfl rfl (by decide)

theorem Coded.vpopc (f : Fields) : Coded.Statement (.vpopc f) := by
  intro r g hr hg _; cases hr; cases hg; exact coded (n := 0x60) rfl rfl rfl (by decide)

theorem Coded.vbfx (f : Fields) : Coded.Statement (.vbfx f) := by
  intro r g hr hg _; cases hr; cases hg; exact coded (n := 0x61) rfl rfl rfl (by decide)

theorem Coded.vsel (f : Fields) : Coded.Statement (.vsel f) := by
  intro r g hr hg _; cases hr; cases hg; exact coded (n := 0x62) rfl rfl rfl (by decide)

theorem Coded.vcmp (f : Fields) : Coded.Statement (.vcmp f) := by
  intro r g hr hg _; cases hr; cases hg; exact coded (n := 0x63) rfl rfl rfl (by decide)

theorem Coded.vmov (f : Fields) : Coded.Statement (.vmov f) := by
  intro r g hr hg _; cases hr; cases hg; exact coded (n := 0x64) rfl rfl rfl (by decide)

theorem Coded.vlid (f : Fields) : Coded.Statement (.vlid f) := by
  intro r g hr hg _; cases hr; cases hg; exact coded (n := 0x65) rfl rfl rfl (by decide)

theorem Coded.vbc (f : Fields) : Coded.Statement (.vbc f) := by
  intro r g hr hg _; cases hr; cases hg; exact coded (n := 0x66) rfl rfl rfl (by decide)

theorem Coded.vget (f : Fields) : Coded.Statement (.vget f) := by
  intro r g hr hg _; cases hr; cases hg; exact coded (n := 0x67) rfl rfl rfl (by decide)

theorem Coded.vput (f : Fields) : Coded.Statement (.vput f) := by
  intro r g hr hg _; cases hr; cases hg; exact coded (n := 0x68) rfl rfl rfl (by decide)

theorem Coded.vperm (f : Fields) : Coded.Statement (.vperm f) := by
  intro r g hr hg _; cases hr; cases hg; exact coded (n := 0x69) rfl rfl rfl (by decide)

theorem Coded.vshuf (f : Fields) : Coded.Statement (.vshuf f) := by
  intro r g hr hg _; cases hr; cases hg; exact coded (n := 0x6A) rfl rfl rfl (by decide)

theorem Coded.vred (f : Fields) : Coded.Statement (.vred f) := by
  intro r g hr hg _; cases hr; cases hg; exact coded (n := 0x6B) rfl rfl rfl (by decide)

theorem Coded.vscan (f : Fields) : Coded.Statement (.vscan f) := by
  intro r g hr hg _; cases hr; cases hg; exact coded (n := 0x6C) rfl rfl rfl (by decide)

theorem Coded.vhist (f : Fields) : Coded.Statement (.vhist f) := by
  intro r g hr hg _; cases hr; cases hg; exact coded (n := 0x6D) rfl rfl rfl (by decide)

theorem Coded.vbinm (f : Fields) : Coded.Statement (.vbinm f) := by
  intro r g hr hg _; cases hr; cases hg; exact coded (n := 0x6E) rfl rfl rfl (by decide)

theorem Coded.vcx (f : Fields) : Coded.Statement (.vcx f) := by
  intro r g hr hg _; cases hr; cases hg; exact coded (n := 0x6F) rfl rfl rfl (by decide)

theorem Coded.vrnd (f : Fields) : Coded.Statement (.vrnd f) := by
  intro r g hr hg _; cases hr; cases hg; exact coded (n := 0xA3) rfl rfl rfl (by decide)

theorem Coded.vfadd (f : Fields) : Coded.Statement (.vfadd f) := by
  intro r g hr hg _; cases hr; cases hg; exact coded (n := 0x80) rfl rfl rfl (by decide)

theorem Coded.vfsub (f : Fields) : Coded.Statement (.vfsub f) := by
  intro r g hr hg _; cases hr; cases hg; exact coded (n := 0x81) rfl rfl rfl (by decide)

theorem Coded.vfmul (f : Fields) : Coded.Statement (.vfmul f) := by
  intro r g hr hg _; cases hr; cases hg; exact coded (n := 0x82) rfl rfl rfl (by decide)

theorem Coded.vffma (f : Fields) : Coded.Statement (.vffma f) := by
  intro r g hr hg _; cases hr; cases hg; exact coded (n := 0x83) rfl rfl rfl (by decide)

theorem Coded.vfdiv (f : Fields) : Coded.Statement (.vfdiv f) := by
  intro r g hr hg _; cases hr; cases hg; exact coded (n := 0x84) rfl rfl rfl (by decide)

theorem Coded.vfsqrt (f : Fields) : Coded.Statement (.vfsqrt f) := by
  intro r g hr hg _; cases hr; cases hg; exact coded (n := 0x85) rfl rfl rfl (by decide)

theorem Coded.vfmin (f : Fields) : Coded.Statement (.vfmin f) := by
  intro r g hr hg _; cases hr; cases hg; exact coded (n := 0x86) rfl rfl rfl (by decide)

theorem Coded.vfmax (f : Fields) : Coded.Statement (.vfmax f) := by
  intro r g hr hg _; cases hr; cases hg; exact coded (n := 0x87) rfl rfl rfl (by decide)

theorem Coded.vfabs (f : Fields) : Coded.Statement (.vfabs f) := by
  intro r g hr hg _; cases hr; cases hg; exact coded (n := 0x88) rfl rfl rfl (by decide)

theorem Coded.vfneg (f : Fields) : Coded.Statement (.vfneg f) := by
  intro r g hr hg _; cases hr; cases hg; exact coded (n := 0x89) rfl rfl rfl (by decide)

theorem Coded.vfcmp (f : Fields) : Coded.Statement (.vfcmp f) := by
  intro r g hr hg _; cases hr; cases hg; exact coded (n := 0x8A) rfl rfl rfl (by decide)

theorem Coded.vfclass (f : Fields) : Coded.Statement (.vfclass f) := by
  intro r g hr hg _; cases hr; cases hg; exact coded (n := 0x8B) rfl rfl rfl (by decide)

theorem Coded.vfrcp (f : Fields) : Coded.Statement (.vfrcp f) := by
  intro r g hr hg _; cases hr; cases hg; exact coded (n := 0x8C) rfl rfl rfl (by decide)

theorem Coded.vfrsq (f : Fields) : Coded.Statement (.vfrsq f) := by
  intro r g hr hg _; cases hr; cases hg; exact coded (n := 0x8D) rfl rfl rfl (by decide)

theorem Coded.vfexp2 (f : Fields) : Coded.Statement (.vfexp2 f) := by
  intro r g hr hg _; cases hr; cases hg; exact coded (n := 0x8E) rfl rfl rfl (by decide)

theorem Coded.vflog2 (f : Fields) : Coded.Statement (.vflog2 f) := by
  intro r g hr hg _; cases hr; cases hg; exact coded (n := 0x8F) rfl rfl rfl (by decide)

theorem Coded.vfsin (f : Fields) : Coded.Statement (.vfsin f) := by
  intro r g hr hg _; cases hr; cases hg; exact coded (n := 0x90) rfl rfl rfl (by decide)

theorem Coded.vfcos (f : Fields) : Coded.Statement (.vfcos f) := by
  intro r g hr hg _; cases hr; cases hg; exact coded (n := 0x91) rfl rfl rfl (by decide)

theorem Coded.vftanh (f : Fields) : Coded.Statement (.vftanh f) := by
  intro r g hr hg _; cases hr; cases hg; exact coded (n := 0x92) rfl rfl rfl (by decide)

theorem Coded.vferf (f : Fields) : Coded.Statement (.vferf f) := by
  intro r g hr hg _; cases hr; cases hg; exact coded (n := 0x93) rfl rfl rfl (by decide)

theorem Coded.vcvt (f : Fields) : Coded.Statement (.vcvt f) := by
  intro r g hr hg _; cases hr; cases hg; exact coded (n := 0x94) rfl rfl rfl (by decide)

theorem Coded.vbfma (f : Fields) : Coded.Statement (.vbfma f) := by
  intro r g hr hg _; cases hr; cases hg; exact coded (n := 0x95) rfl rfl rfl (by decide)

theorem Coded.vq4s (f : Fields) : Coded.Statement (.vq4s f) := by
  intro r g hr hg _; cases hr; cases hg; exact coded (n := 0xA0) rfl rfl rfl (by decide)

theorem Coded.vq4p (f : Fields) : Coded.Statement (.vq4p f) := by
  intro r g hr hg _; cases hr; cases hg; exact coded (n := 0xA1) rfl rfl rfl (by decide)

theorem Coded.vq4x (f : Fields) : Coded.Statement (.vq4x f) := by
  intro r g hr hg _; cases hr; cases hg; exact coded (n := 0xA2) rfl rfl rfl (by decide)

theorem Coded.mset (f : Fields) : Coded.Statement (.mset f) := by
  intro r g hr hg _; cases hr; cases hg; exact coded (n := 0xB0) rfl rfl rfl (by decide)

theorem Coded.mcoll (f : Fields) : Coded.Statement (.mcoll f) := by
  intro r g hr hg _; cases hr; cases hg; exact coded (n := 0xB1) rfl rfl rfl (by decide)

theorem Coded.msamp (f : Fields) : Coded.Statement (.msamp f) := by
  intro r g hr hg _; cases hr; cases hg; exact coded (n := 0xB2) rfl rfl rfl (by decide)

theorem Coded.madd (f : Fields) : Coded.Statement (.madd f) := by
  intro r g hr hg _; cases hr; cases hg; exact coded (n := 0xB3) rfl rfl rfl (by decide)

theorem Coded.msub (f : Fields) : Coded.Statement (.msub f) := by
  intro r g hr hg _; cases hr; cases hg; exact coded (n := 0xB4) rfl rfl rfl (by decide)

theorem Coded.mmul (f : Fields) : Coded.Statement (.mmul f) := by
  intro r g hr hg _; cases hr; cases hg; exact coded (n := 0xB5) rfl rfl rfl (by decide)

theorem Coded.mfma (f : Fields) : Coded.Statement (.mfma f) := by
  intro r g hr hg _; cases hr; cases hg; exact coded (n := 0xB6) rfl rfl rfl (by decide)

theorem Coded.mscl (f : Fields) : Coded.Statement (.mscl f) := by
  intro r g hr hg _; cases hr; cases hg; exact coded (n := 0xB7) rfl rfl rfl (by decide)

theorem Coded.mrelu (f : Fields) : Coded.Statement (.mrelu f) := by
  intro r g hr hg _; cases hr; cases hg; exact coded (n := 0xB8) rfl rfl rfl (by decide)

theorem Coded.mexp (f : Fields) : Coded.Statement (.mexp f) := by
  intro r g hr hg _; cases hr; cases hg; exact coded (n := 0xB9) rfl rfl rfl (by decide)

theorem Coded.msig (f : Fields) : Coded.Statement (.msig f) := by
  intro r g hr hg _; cases hr; cases hg; exact coded (n := 0xBA) rfl rfl rfl (by decide)

theorem Coded.mtanh (f : Fields) : Coded.Statement (.mtanh f) := by
  intro r g hr hg _; cases hr; cases hg; exact coded (n := 0xBB) rfl rfl rfl (by decide)

theorem Coded.mld (f : Fields) : Coded.Statement (.mld f) := by
  intro r g hr hg _; cases hr; cases hg; exact coded (n := 0xBC) rfl rfl rfl (by decide)

theorem Coded.mst (f : Fields) : Coded.Statement (.mst f) := by
  intro r g hr hg _; cases hr; cases hg; exact coded (n := 0xBD) rfl rfl rfl (by decide)

theorem Coded.mmov (f : Fields) : Coded.Statement (.mmov f) := by
  intro r g hr hg _; cases hr; cases hg; exact coded (n := 0xBE) rfl rfl rfl (by decide)

theorem Coded.mcfgMcr (f : Fields) : Coded.Statement (.mcfgMcr f) := by
  intro r g hr hg h; cases hr; cases hg
  have hf : f.fn = 0 := fn_eq (fn_of_single h rfl) (by decide)
  have hc : candidate 0xBF f = some (if f.fn == 1 then .mcfgMrho f else .mcfgMcr f) := rfl
  exact coded (n := 0xBF) rfl (by rw [hc, hf]; rfl) rfl (by decide)

theorem Coded.mcfgMrho (f : Fields) : Coded.Statement (.mcfgMrho f) := by
  intro r g hr hg h; cases hr; cases hg
  have hf : f.fn = 1 := fn_eq (fn_of_single h rfl) (by decide)
  have hc : candidate 0xBF f = some (if f.fn == 1 then .mcfgMrho f else .mcfgMcr f) := rfl
  exact coded (n := 0xBF) rfl (by rw [hc, hf]; rfl) rfl (by decide)

theorem Coded.vld (f : Fields) : Coded.Statement (.vld f) := by
  intro r g hr hg _; cases hr; cases hg; exact coded (n := 0xC0) rfl rfl rfl (by decide)

theorem Coded.vldu (f : Fields) : Coded.Statement (.vldu f) := by
  intro r g hr hg _; cases hr; cases hg; exact coded (n := 0xC1) rfl rfl rfl (by decide)

theorem Coded.vst (f : Fields) : Coded.Statement (.vst f) := by
  intro r g hr hg _; cases hr; cases hg; exact coded (n := 0xC2) rfl rfl rfl (by decide)

theorem Coded.vatm (f : Fields) : Coded.Statement (.vatm f) := by
  intro r g hr hg _; cases hr; cases hg; exact coded (n := 0xC3) rfl rfl rfl (by decide)

theorem Coded.vmred (f : Fields) : Coded.Statement (.vmred f) := by
  intro r g hr hg _; cases hr; cases hg; exact coded (n := 0xC4) rfl rfl rfl (by decide)

theorem Coded.vfld (f : Fields) : Coded.Statement (.vfld f) := by
  intro r g hr hg _; cases hr; cases hg; exact coded (n := 0xC5) rfl rfl rfl (by decide)

theorem Coded.vfst (f : Fields) : Coded.Statement (.vfst f) := by
  intro r g hr hg _; cases hr; cases hg; exact coded (n := 0xC6) rfl rfl rfl (by decide)

theorem Coded.sld (f : Fields) : Coded.Statement (.sld f) := by
  intro r g hr hg _; cases hr; cases hg; exact coded (n := 0xC7) rfl rfl rfl (by decide)

theorem Coded.sst (f : Fields) : Coded.Statement (.sst f) := by
  intro r g hr hg _; cases hr; cases hg; exact coded (n := 0xC8) rfl rfl rfl (by decide)

theorem Coded.satm (f : Fields) : Coded.Statement (.satm f) := by
  intro r g hr hg _; cases hr; cases hg; exact coded (n := 0xC9) rfl rfl rfl (by decide)

theorem Coded.smred (f : Fields) : Coded.Statement (.smred f) := by
  intro r g hr hg _; cases hr; cases hg; exact coded (n := 0xCA) rfl rfl rfl (by decide)

theorem Coded.sfld (f : Fields) : Coded.Statement (.sfld f) := by
  intro r g hr hg _; cases hr; cases hg; exact coded (n := 0xCB) rfl rfl rfl (by decide)

theorem Coded.sfst (f : Fields) : Coded.Statement (.sfst f) := by
  intro r g hr hg _; cases hr; cases hg; exact coded (n := 0xCC) rfl rfl rfl (by decide)

theorem Coded.srsv (f : Fields) : Coded.Statement (.srsv f) := by
  intro r g hr hg _; cases hr; cases hg; exact coded (n := 0xCD) rfl rfl rfl (by decide)

theorem Coded.scnd (f : Fields) : Coded.Statement (.scnd f) := by
  intro r g hr hg _; cases hr; cases hg; exact coded (n := 0xCE) rfl rfl rfl (by decide)

theorem Coded.bset (f : Fields) : Coded.Statement (.bset f) := by
  intro r g hr hg h; cases hr; cases hg
  have hf : f.fn = 0 := fn_eq (fn_of_single h rfl) (by decide)
  have hc : candidate 0xCF f = some (if f.fn == 1 then .bsetClu f else .bset f) := rfl
  exact coded (n := 0xCF) rfl (by rw [hc, hf]; rfl) rfl (by decide)

theorem Coded.bsetClu (f : Fields) : Coded.Statement (.bsetClu f) := by
  intro r g hr hg h; cases hr; cases hg
  have hf : f.fn = 1 := fn_eq (fn_of_single h rfl) (by decide)
  have hc : candidate 0xCF f = some (if f.fn == 1 then .bsetClu f else .bset f) := rfl
  exact coded (n := 0xCF) rfl (by rw [hc, hf]; rfl) rfl (by decide)

theorem Coded.binv (f : Fields) : Coded.Statement (.binv f) := by
  intro r g hr hg h; cases hr; cases hg
  have hf : f.fn = 0 := fn_eq (fn_of_single h rfl) (by decide)
  have hc : candidate 0xD0 f = some (if f.fn == 1 then .binvAll f else .binv f) := rfl
  exact coded (n := 0xD0) rfl (by rw [hc, hf]; rfl) rfl (by decide)

theorem Coded.binvAll (f : Fields) : Coded.Statement (.binvAll f) := by
  intro r g hr hg h; cases hr; cases hg
  have hf : f.fn = 1 := fn_eq (fn_of_single h rfl) (by decide)
  have hc : candidate 0xD0 f = some (if f.fn == 1 then .binvAll f else .binv f) := rfl
  exact coded (n := 0xD0) rfl (by rw [hc, hf]; rfl) rfl (by decide)

theorem Coded.fence (f : Fields) : Coded.Statement (.fence f) := by
  intro r g hr hg _; cases hr; cases hg; exact coded (n := 0xD1) rfl rfl rfl (by decide)

theorem Coded.cwb (f : Fields) : Coded.Statement (.cwb f) := by
  intro r g hr hg _; cases hr; cases hg; exact coded (n := 0xD2) rfl rfl rfl (by decide)

theorem Coded.cinv (f : Fields) : Coded.Statement (.cinv f) := by
  intro r g hr hg _; cases hr; cases hg; exact coded (n := 0xD3) rfl rfl rfl (by decide)

theorem Coded.cp (f : Fields) : Coded.Statement (.cp f) := by
  intro r g hr hg _; cases hr; cases hg; exact coded (n := 0xE0) rfl rfl rfl (by decide)

theorem Coded.cpq (f : Fields) : Coded.Statement (.cpq f) := by
  intro r g hr hg _; cases hr; cases hg; exact coded (n := 0xE1) rfl rfl rfl (by decide)

theorem Coded.cpg (f : Fields) : Coded.Statement (.cpg f) := by
  intro r g hr hg _; cases hr; cases hg; exact coded (n := 0xE2) rfl rfl rfl (by decide)

theorem Coded.seal (f : Fields) : Coded.Statement (.seal f) := by
  intro r g hr hg _; cases hr; cases hg; exact coded (n := 0xE3) rfl rfl rfl (by decide)

theorem Coded.tmma (f : Fields) : Coded.Statement (.tmma f) := by
  intro r g hr hg _; cases hr; cases hg; exact coded (n := 0xE4) rfl rfl rfl (by decide)

theorem Coded.tmmag (f : Fields) : Coded.Statement (.tmmag f) := by
  intro r g hr hg _; cases hr; cases hg; exact coded (n := 0xE5) rfl rfl rfl (by decide)

theorem Coded.tzero (f : Fields) : Coded.Statement (.tzero f) := by
  intro r g hr hg _; cases hr; cases hg; exact coded (n := 0xE6) rfl rfl rfl (by decide)

theorem Coded.tld (f : Fields) : Coded.Statement (.tld f) := by
  intro r g hr hg _; cases hr; cases hg; exact coded (n := 0xE7) rfl rfl rfl (by decide)

theorem Coded.tst (f : Fields) : Coded.Statement (.tst f) := by
  intro r g hr hg _; cases hr; cases hg; exact coded (n := 0xE8) rfl rfl rfl (by decide)

theorem Coded.tmam (f : Fields) : Coded.Statement (.tmam f) := by
  intro r g hr hg _; cases hr; cases hg; exact coded (n := 0xE9) rfl rfl rfl (by decide)

theorem Coded.tmamm (f : Fields) : Coded.Statement (.tmamm f) := by
  intro r g hr hg _; cases hr; cases hg; exact coded (n := 0xEA) rfl rfl rfl (by decide)

theorem Coded.scget (f : Fields) : Coded.Statement (.scget f) := by
  intro r g hr hg h; cases hr; cases hg
  have hf : f.fn = 0 := fn_eq (fn_of_single h rfl) (by decide)
  exact coded (n := 0xF0) rfl (by cases f; cases hf; rfl) rfl (by decide)

theorem Coded.scq (f : Fields) : Coded.Statement (.scq f) := by
  intro r g hr hg h; cases hr; cases hg
  have hf : f.fn = 1 := fn_eq (fn_of_single h rfl) (by decide)
  exact coded (n := 0xF0) rfl (by cases f; cases hf; rfl) rfl (by decide)

theorem Coded.scfrz (f : Fields) : Coded.Statement (.scfrz f) := by
  intro r g hr hg h; cases hr; cases hg
  have hf : f.fn = 2 := fn_eq (fn_of_single h rfl) (by decide)
  exact coded (n := 0xF0) rfl (by cases f; cases hf; rfl) rfl (by decide)

theorem Coded.scthaw (f : Fields) : Coded.Statement (.scthaw f) := by
  intro r g hr hg h; cases hr; cases hg
  have hf : f.fn = 3 := fn_eq (fn_of_single h rfl) (by decide)
  exact coded (n := 0xF0) rfl (by cases f; cases hf; rfl) rfl (by decide)

theorem Coded.bar (f : Fields) : Coded.Statement (.bar f) := by
  intro r g hr hg h; cases hr; cases hg
  have hf : f.fn = 0 := fn_eq (fn_of_single h rfl) (by decide)
  exact coded (n := 0xF1) rfl (by cases f; cases hf; rfl) rfl (by decide)

theorem Coded.barv (f : Fields) : Coded.Statement (.barv f) := by
  intro r g hr hg h; cases hr; cases hg
  have hf : f.fn = 1 := fn_eq (fn_of_single h rfl) (by decide)
  exact coded (n := 0xF1) rfl (by cases f; cases hf; rfl) rfl (by decide)

theorem Coded.barw (f : Fields) : Coded.Statement (.barw f) := by
  intro r g hr hg h; cases hr; cases hg
  have hf : f.fn = 2 := fn_eq (fn_of_single h rfl) (by decide)
  exact coded (n := 0xF1) rfl (by cases f; cases hf; rfl) rfl (by decide)

theorem Coded.tmq (f : Fields) : Coded.Statement (.tmq f) := by
  intro r g hr hg h; cases hr; cases hg
  have hf : f.fn = 3 := fn_eq (fn_of_single h rfl) (by decide)
  exact coded (n := 0xF1) rfl (by cases f; cases hf; rfl) rfl (by decide)

theorem Coded.qpush (f : Fields) : Coded.Statement (.qpush f) := by
  intro r g hr hg h; cases hr; cases hg
  have hf : f.fn = 0 := fn_eq (fn_of_single h rfl) (by decide)
  exact coded (n := 0xF2) rfl (by cases f; cases hf; rfl) rfl (by decide)

theorem Coded.qpop (f : Fields) : Coded.Statement (.qpop f) := by
  intro r g hr hg h; cases hr; cases hg
  have hf : f.fn = 1 := fn_eq (fn_of_single h rfl) (by decide)
  exact coded (n := 0xF2) rfl (by cases f; cases hf; rfl) rfl (by decide)

theorem Coded.qdone (f : Fields) : Coded.Statement (.qdone f) := by
  intro r g hr hg h; cases hr; cases hg
  have hf : f.fn = 2 := fn_eq (fn_of_single h rfl) (by decide)
  exact coded (n := 0xF2) rfl (by cases f; cases hf; rfl) rfl (by decide)

theorem Coded.qspawn (f : Fields) : Coded.Statement (.qspawn f) := by
  intro r g hr hg h; cases hr; cases hg
  have hf : f.fn = 3 := fn_eq (fn_of_single h rfl) (by decide)
  exact coded (n := 0xF2) rfl (by cases f; cases hf; rfl) rfl (by decide)

theorem Coded.qjoin (f : Fields) : Coded.Statement (.qjoin f) := by
  intro r g hr hg h; cases hr; cases hg
  have hf : f.fn = 4 := fn_eq (fn_of_single h rfl) (by decide)
  exact coded (n := 0xF2) rfl (by cases f; cases hf; rfl) rfl (by decide)

theorem Coded.qstat (f : Fields) : Coded.Statement (.qstat f) := by
  intro r g hr hg h; cases hr; cases hg
  have hf : f.fn = 5 := fn_eq (fn_of_single h rfl) (by decide)
  exact coded (n := 0xF2) rfl (by cases f; cases hf; rfl) rfl (by decide)

theorem Coded.klaunch (f : Fields) : Coded.Statement (.klaunch f) := by
  intro r g hr hg h; cases hr; cases hg
  have hf : f.fn = 0 := fn_eq (fn_of_single h rfl) (by decide)
  exact coded (n := 0xF3) rfl (by cases f; cases hf; rfl) rfl (by decide)

theorem Coded.depart (f : Fields) : Coded.Statement (.depart f) := by
  intro r g hr hg h; cases hr; cases hg
  have hf : f.fn = 1 := fn_eq (fn_of_single h rfl) (by decide)
  exact coded (n := 0xF3) rfl (by cases f; cases hf; rfl) rfl (by decide)

theorem Coded.dtbeg (f : Fields) : Coded.Statement (.dtbeg f) := by
  intro r g hr hg h; cases hr; cases hg
  have hf : f.fn = 2 := fn_eq (fn_of_single h rfl) (by decide)
  exact coded (n := 0xF3) rfl (by cases f; cases hf; rfl) rfl (by decide)

theorem Coded.dtend (f : Fields) : Coded.Statement (.dtend f) := by
  intro r g hr hg h; cases hr; cases hg
  have hf : f.fn = 3 := fn_eq (fn_of_single h rfl) (by decide)
  exact coded (n := 0xF3) rfl (by cases f; cases hf; rfl) rfl (by decide)

theorem Coded.syscResume (f : Fields) : Coded.Statement (.syscResume f) := by
  intro r g hr hg h; cases hr; cases hg
  have hx : f.ax = 0 := by simpa using extra_of_legal h
  exact coded (n := 0xF8) rfl (by simp [candidate, candidateF, hx]) rfl (by decide)

theorem Coded.syscSkip (f : Fields) : Coded.Statement (.syscSkip f) := by
  intro r g hr hg h; cases hr; cases hg
  have hx : f.ax = 1 := by simpa using extra_of_legal h
  exact coded (n := 0xF8) rfl (by simp [candidate, candidateF, hx]) rfl (by decide)

theorem Coded.syscAbandon (f : Fields) : Coded.Statement (.syscAbandon f) := by
  intro r g hr hg h; cases hr; cases hg
  have hx : f.ax = 2 := by simpa using extra_of_legal h
  exact coded (n := 0xF8) rfl (by simp [candidate, candidateF, hx]) rfl (by decide)

theorem Coded.syscCall (f : Fields) : Coded.Statement (.syscCall f) := by
  intro r g hr hg h; cases hr; cases hg
  have hx : 3 ≤ f.ax.toNat := by simpa using extra_of_legal h
  have h0 : f.ax ≠ 0 := by rintro e; simp [e] at hx
  have h1 : f.ax ≠ 1 := by rintro e; simp [e] at hx
  have h2 : f.ax ≠ 2 := by rintro e; simp [e] at hx
  exact coded (n := 0xF8) rfl (by
    rw [show candidate 0xF8 f = some (if f.ax == 0 then .syscResume f else if f.ax == 1 then .syscSkip f else
      if f.ax == 2 then .syscAbandon f else .syscCall f) from rfl]
    rw [if_neg (by simpa using h0), if_neg (by simpa using h1), if_neg (by simpa using h2)]) rfl (by decide)

theorem Coded.eret (f : Fields) : Coded.Statement (.eret f) := by
  intro r g hr hg _; cases hr; cases hg; exact coded (n := 0xF9) rfl rfl rfl (by decide)

theorem Coded.srdp (f : Fields) : Coded.Statement (.srdp f) := by
  intro r g hr hg _; cases hr; cases hg; exact coded (n := 0xFA) rfl rfl rfl (by decide)

theorem Coded.swrp (f : Fields) : Coded.Statement (.swrp f) := by
  intro r g hr hg _; cases hr; cases hg; exact coded (n := 0xFB) rfl rfl rfl (by decide)

theorem Coded.tlbiVa (f : Fields) : Coded.Statement (.tlbiVa f) := by
  intro r g hr hg h; cases hr; cases hg
  have hf : f.fn = 0 := fn_eq (fn_of_single h rfl) (by decide)
  exact coded (n := 0xFC) rfl (by cases f; cases hf; rfl) rfl (by decide)

theorem Coded.tlbiCtx (f : Fields) : Coded.Statement (.tlbiCtx f) := by
  intro r g hr hg h; cases hr; cases hg
  have hf : f.fn = 1 := fn_eq (fn_of_single h rfl) (by decide)
  exact coded (n := 0xFC) rfl (by cases f; cases hf; rfl) rfl (by decide)

theorem Coded.tlbiAll (f : Fields) : Coded.Statement (.tlbiAll f) := by
  intro r g hr hg h; cases hr; cases hg
  have hf : f.fn = 2 := fn_eq (fn_of_single h rfl) (by decide)
  exact coded (n := 0xFC) rfl (by cases f; cases hf; rfl) rfl (by decide)

theorem Coded.ctxs (f : Fields) : Coded.Statement (.ctxs f) := by
  intro r g hr hg _; cases hr; cases hg; exact coded (n := 0xFD) rfl rfl rfl (by decide)

theorem Coded.ctxr (f : Fields) : Coded.Statement (.ctxr f) := by
  intro r g hr hg _; cases hr; cases hg; exact coded (n := 0xFE) rfl rfl rfl (by decide)

theorem Coded.idle (f : Fields) : Coded.Statement (.idle f) := by
  intro r g hr hg _; cases hr; cases hg; exact coded (n := 0xFF) rfl rfl rfl (by decide)

theorem Coded.unassignedOpcode (op : BitVec 8) (len : BitVec 2) : Coded.Statement (.unassignedOpcode op len) := by
  intro r g hr; cases hr

theorem Coded.fetchFault (cause : FetchCause) : Coded.Statement (.fetchFault cause) := by
  intro r g hr; cases hr

theorem Coded.pendingWriteComplete (th : ThreadId) (tag : Nat) : Coded.Statement (.pendingWriteComplete th tag) := by
  intro r g hr; cases hr

theorem Coded.loadComplete (acc : Nat) : Coded.Statement (.loadComplete acc) := by
  intro r g hr; cases hr

theorem Coded.storePerformed (acc : Nat) : Coded.Statement (.storePerformed acc) := by
  intro r g hr; cases hr

theorem Coded.drained (th : ThreadId) : Coded.Statement (.drained th) := by
  intro r g hr; cases hr

theorem Coded.preemptSave (th : ThreadId) : Coded.Statement (.preemptSave th) := by
  intro r g hr; cases hr

theorem Coded.homeTokenRequest (acc line : Nat) : Coded.Statement (.homeTokenRequest acc line) := by
  intro r g hr; cases hr

theorem Coded.homeAllTokenRequest (acc line : Nat) : Coded.Statement (.homeAllTokenRequest acc line) := by
  intro r g hr; cases hr

theorem Coded.homePersistentRequest (acc line : Nat) : Coded.Statement (.homePersistentRequest acc line) := by
  intro r g hr; cases hr

theorem Coded.persistentCompletion (core line : Nat) : Coded.Statement (.persistentCompletion core line) := by
  intro r g hr; cases hr

theorem Coded.persistentForward (core line : Nat) : Coded.Statement (.persistentForward core line) := by
  intro r g hr; cases hr

theorem Coded.homeSisLoad (acc line : Nat) : Coded.Statement (.homeSisLoad acc line) := by
  intro r g hr; cases hr

theorem Coded.homeWtLoad (acc line : Nat) : Coded.Statement (.homeWtLoad acc line) := by
  intro r g hr; cases hr

theorem Coded.homeWrite (acc lane : Nat) : Coded.Statement (.homeWrite acc lane) := by
  intro r g hr; cases hr

theorem Coded.holderRecall (core line : Nat) : Coded.Statement (.holderRecall core line) := by
  intro r g hr; cases hr

theorem Coded.holderTokenAsk (core line count requester : Nat) : Coded.Statement (.holderTokenAsk core line count requester) := by
  intro r g hr; cases hr

theorem Coded.tokenReturn (msg : Nat) : Coded.Statement (.tokenReturn msg) := by
  intro r g hr; cases hr

theorem Coded.forwardedMerge (acc lane owner : Nat) : Coded.Statement (.forwardedMerge acc lane owner) := by
  intro r g hr; cases hr

theorem Coded.forwardedSisRead (acc line owner : Nat) : Coded.Statement (.forwardedSisRead acc line owner) := by
  intro r g hr; cases hr

theorem Coded.forwardedWtRead (acc line owner : Nat) : Coded.Statement (.forwardedWtRead acc line owner) := by
  intro r g hr; cases hr

theorem Coded.reductionRequest (acc lane : Nat) : Coded.Statement (.reductionRequest acc lane) := by
  intro r g hr; cases hr

theorem Coded.reductionAckConfirm (acc lane : Nat) : Coded.Statement (.reductionAckConfirm acc lane) := by
  intro r g hr; cases hr

theorem Coded.futureLoadRequest (acc word : Nat) : Coded.Statement (.futureLoadRequest acc word) := by
  intro r g hr; cases hr

theorem Coded.futureFill (acc lane : Nat) : Coded.Statement (.futureFill acc lane) := by
  intro r g hr; cases hr

theorem Coded.ticketPerform (part kern : Nat) : Coded.Statement (.ticketPerform part kern) := by
  intro r g hr; cases hr

theorem Coded.regroupPromotion (die : Nat) : Coded.Statement (.regroupPromotion die) := by
  intro r g hr; cases hr

theorem Coded.regroupEventEnd (die : Nat) : Coded.Statement (.regroupEventEnd die) := by
  intro r g hr; cases hr

theorem Coded.barrierArrival (th : ThreadId) (team : Nat) : Coded.Statement (.barrierArrival th team) := by
  intro r g hr; cases hr

theorem Coded.barrierRetirement (th : ThreadId) (team : Nat) : Coded.Statement (.barrierRetirement th team) := by
  intro r g hr; cases hr

theorem Coded.barrierLeave (part kern team : Nat) : Coded.Statement (.barrierLeave part kern team) := by
  intro r g hr; cases hr

theorem Coded.engineOpStart (core : Nat) (engine : EngineSel) : Coded.Statement (.engineOpStart core engine) := by
  intro r g hr; cases hr

theorem Coded.engineOpComplete (core : Nat) (engine : EngineSel) : Coded.Statement (.engineOpComplete core engine) := by
  intro r g hr; cases hr

theorem Coded.carriageComplete (th : ThreadId) (serial : Nat) : Coded.Statement (.carriageComplete th serial) := by
  intro r g hr; cases hr

theorem Coded.launchAccept (part : Nat) : Coded.Statement (.launchAccept part) := by
  intro r g hr; cases hr

theorem Coded.kernelEnd (part kern : Nat) : Coded.Statement (.kernelEnd part kern) := by
  intro r g hr; cases hr

theorem Coded.moveComplete (part : Nat) : Coded.Statement (.moveComplete part) := by
  intro r g hr; cases hr

theorem Coded.bankroleEffect (part : Nat) : Coded.Statement (.bankroleEffect part) := by
  intro r g hr; cases hr

theorem Coded.packageReset : Coded.Statement .packageReset := by
  intro r g hr; cases hr

theorem Coded.trapCartRetry (th : ThreadId) : Coded.Statement (.trapCartRetry th) := by
  intro r g hr; cases hr

theorem Coded.sleepExpiry (th : ThreadId) : Coded.Statement (.sleepExpiry th) := by
  intro r g hr; cases hr

theorem Coded.engineDrainTimeout (th : ThreadId) : Coded.Statement (.engineDrainTimeout th) := by
  intro r g hr; cases hr

theorem Coded.lclkTick (core : Nat) : Coded.Statement (.lclkTick core) := by
  intro r g hr; cases hr

theorem Coded.pltDistribution (part : Nat) : Coded.Statement (.pltDistribution part) := by
  intro r g hr; cases hr

theorem Coded.corePowerGate (core : Nat) : Coded.Statement (.corePowerGate core) := by
  intro r g hr; cases hr

theorem Coded.coreWake (core : Nat) : Coded.Statement (.coreWake core) := by
  intro r g hr; cases hr

theorem Coded.transientRequestFail (acc line : Nat) : Coded.Statement (.transientRequestFail acc line) := by
  intro r g hr; cases hr

theorem Coded.lineEviction (core line : Nat) : Coded.Statement (.lineEviction core line) := by
  intro r g hr; cases hr

theorem Coded.reductionReplayTimeout (acc lane : Nat) : Coded.Statement (.reductionReplayTimeout acc lane) := by
  intro r g hr; cases hr

theorem Coded.detstallTimeout (th : ThreadId) : Coded.Statement (.detstallTimeout th) := by
  intro r g hr; cases hr

theorem Coded.sharingWindowEnd (parts : List Nat) : Coded.Statement (.sharingWindowEnd parts) := by
  intro r g hr; cases hr

theorem Coded.qcmdCreate (part index : Nat) : Coded.Statement (.qcmdCreate part index) := by
  intro r g hr; cases hr

theorem Coded.qcmdSwap (part index : Nat) : Coded.Statement (.qcmdSwap part index) := by
  intro r g hr; cases hr

theorem Coded.qcmdUnswap (part index : Nat) : Coded.Statement (.qcmdUnswap part index) := by
  intro r g hr; cases hr

theorem Coded.qcmdDrain (part index : Nat) : Coded.Statement (.qcmdDrain part index) := by
  intro r g hr; cases hr

theorem Coded.qcmdDiscard (part index : Nat) : Coded.Statement (.qcmdDiscard part index) := by
  intro r g hr; cases hr

theorem Coded.qcmdNone (part index : Nat) : Coded.Statement (.qcmdNone part index) := by
  intro r g hr; cases hr

theorem Coded.queueAging (queue : QueueId) (level : Nat) : Coded.Statement (.queueAging queue level) := by
  intro r g hr; cases hr

theorem Coded.governorEval (part kern : Nat) : Coded.Statement (.governorEval part kern) := by
  intro r g hr; cases hr

theorem Coded.ingressFrame (half : Nat) (frame : List Byte) (badFcs : Bool) : Coded.Statement (.ingressFrame half frame badFcs) := by
  intro r g hr; cases hr

theorem Coded.egressPop (half : Nat) : Coded.Statement (.egressPop half) := by
  intro r g hr; cases hr

theorem Coded.egressComplete (half : Nat) : Coded.Statement (.egressComplete half) := by
  intro r g hr; cases hr

theorem Coded.pauseReceived (half : Nat) (priorities : BitVec 8) (cycles : Nat) : Coded.Statement (.pauseReceived half priorities cycles) := by
  intro r g hr; cases hr

theorem Coded.rxBufferHigh (half : Nat) : Coded.Statement (.rxBufferHigh half) := by
  intro r g hr; cases hr

theorem Coded.rxBufferLow (half : Nat) : Coded.Statement (.rxBufferLow half) := by
  intro r g hr; cases hr

theorem Coded.kldbLaunch (part : Nat) (desc : DWord) : Coded.Statement (.kldbLaunch part desc) := by
  intro r g hr; cases hr

theorem Coded.kctlKill (part kern : Nat) : Coded.Statement (.kctlKill part kern) := by
  intro r g hr; cases hr

theorem Coded.departureCheck (part kern : Nat) : Coded.Statement (.departureCheck part kern) := by
  intro r g hr; cases hr

theorem Coded.departureFire (part kern core : Nat) : Coded.Statement (.departureFire part kern core) := by
  intro r g hr; cases hr

theorem Coded.miggoMove (part : Nat) (value : DWord) : Coded.Statement (.miggoMove part value) := by
  intro r g hr; cases hr

theorem Coded.pinEnd (part leaf : Nat) : Coded.Statement (.pinEnd part leaf) := by
  intro r g hr; cases hr

theorem Coded.pcmdStart (part desc : Nat) : Coded.Statement (.pcmdStart part desc) := by
  intro r g hr; cases hr

theorem Coded.pcmdStop (part : Nat) : Coded.Statement (.pcmdStop part) := by
  intro r g hr; cases hr

theorem Coded.pcmdNone (part : Nat) : Coded.Statement (.pcmdNone part) := by
  intro r g hr; cases hr

theorem Coded.bankroleWrite (part : Nat) (value : DWord) : Coded.Statement (.bankroleWrite part value) := by
  intro r g hr; cases hr

theorem Coded.lclkperWrite (part : Nat) (value : Word) : Coded.Statement (.lclkperWrite part value) := by
  intro r g hr; cases hr

theorem Coded.updHoldWrite (part : Nat) (hold : Bool) : Coded.Statement (.updHoldWrite part hold) := by
  intro r g hr; cases hr

theorem Coded.thermalAlarm (core : Nat) (temp : Int) : Coded.Statement (.thermalAlarm core temp) := by
  intro r g hr; cases hr

theorem Coded.thermalThrottle (core : Nat) (temp : Int) : Coded.Statement (.thermalThrottle core temp) := by
  intro r g hr; cases hr

theorem Coded.thermalShutdown (die : Nat) (temp : Int) : Coded.Statement (.thermalShutdown die temp) := by
  intro r g hr; cases hr

theorem Coded.voltageAdjust (die millivolts : Nat) : Coded.Statement (.voltageAdjust die millivolts) := by
  intro r g hr; cases hr

theorem Coded.housekeepingSample (part : Nat) (reading : Reading) : Coded.Statement (.housekeepingSample part reading) := by
  intro r g hr; cases hr

theorem Coded.flitReceive (link : LinkId) (flit : BitVec 256) (room : Bool) : Coded.Statement (.flitReceive link flit room) := by
  intro r g hr; cases hr

theorem Coded.nakReceive (link : LinkId) (seq : BitVec 8) : Coded.Statement (.nakReceive link seq) := by
  intro r g hr; cases hr

theorem Coded.nakRepeat (link : LinkId) : Coded.Statement (.nakRepeat link) := by
  intro r g hr; cases hr

theorem Coded.ackTimeout (link : LinkId) : Coded.Statement (.ackTimeout link) := by
  intro r g hr; cases hr

theorem Coded.retrainDone (link : LinkId) : Coded.Statement (.retrainDone link) := by
  intro r g hr; cases hr

theorem Coded.retrainTimeout (link : LinkId) : Coded.Statement (.retrainTimeout link) := by
  intro r g hr; cases hr

theorem Coded.trainingDone (link : LinkId) (peer : DWord) : Coded.Statement (.trainingDone link peer) := by
  intro r g hr; cases hr

theorem Coded.trainingTimeout (link : LinkId) : Coded.Statement (.trainingTimeout link) := by
  intro r g hr; cases hr

theorem Coded.downTimeout (link : LinkId) : Coded.Statement (.downTimeout link) := by
  intro r g hr; cases hr

theorem Coded.couplingEnable (coupling : Nat) : Coded.Statement (.couplingEnable coupling) := by
  intro r g hr; cases hr

theorem Coded.couplingDisable (coupling : Nat) : Coded.Statement (.couplingDisable coupling) := by
  intro r g hr; cases hr

theorem Coded.gtSyncSend : Coded.Statement .gtSyncSend := by
  intro r g hr; cases hr

theorem Coded.timeBlockPoll : Coded.Statement .timeBlockPoll := by
  intro r g hr; cases hr

theorem Coded.hostCxlMemAccess (addr : Nat) (write : Option (List Byte)) (count : Nat) : Coded.Statement (.hostCxlMemAccess addr write count) := by
  intro r g hr; cases hr

theorem Coded.bar0Access (offset : Nat) (write : Option DWord) : Coded.Statement (.bar0Access offset write) := by
  intro r g hr; cases hr

theorem Coded.idleTimeReached (th : ThreadId) : Coded.Statement (.idleTimeReached th) := by
  intro r g hr; cases hr

theorem Coded.correctableSoftError (acc lane : Nat) : Coded.Statement (.correctableSoftError acc lane) := by
  intro r g hr; cases hr

theorem Coded.thermalAlarmClear (core : Nat) (temp : Int) : Coded.Statement (.thermalAlarmClear core temp) := by
  intro r g hr; cases hr

theorem Coded.thermalThrottleEnd (core : Nat) (temp : Int) : Coded.Statement (.thermalThrottleEnd core temp) := by
  intro r g hr; cases hr

theorem Coded.portHalfUp (half : Nat) : Coded.Statement (.portHalfUp half) := by
  intro r g hr; cases hr

theorem Coded.portHalfDown (half : Nat) : Coded.Statement (.portHalfDown half) := by
  intro r g hr; cases hr

theorem Coded.ioTableRecordChange (half : Nat) : Coded.Statement (.ioTableRecordChange half) := by
  intro r g hr; cases hr

theorem Coded.pauseTimeExpiry (half priority : Nat) : Coded.Statement (.pauseTimeExpiry half priority) := by
  intro r g hr; cases hr

end Sys2Proof.Laws
end

