-- ==== Sys2Proof/Laws/Queue.lean ====
section
/-! SUPPORT. Laws of a queue's aging and of a pop: a queue with nothing due is left as it is. -/

namespace Sys2Proof.Machine

/-- A level with nothing due ages later than `now`. -/
theorem agingOf_later (q : Queue) (now l : Nat) (h : ∀ c ∈ q.level l, now < c.since + 2 ^ 20) (clk : Nat) :
    ∀ t c, agingOf q clk l = some (t, c) → now < t := by
  intro t c e
  unfold agingOf at e
  split at e
  · cases e
  · split at e
    · cases e
    · rename_i c0 cs hl
      have key : ∀ (cs : List QCart) (b : QCart), now < b.since + 2 ^ 20 → (∀ x ∈ cs, now < x.since + 2 ^ 20) →
          now < (cs.foldl (fun b x => if x.since < b.since then x else b) b).since + 2 ^ 20 := by
        intro cs
        induction cs with
        | nil => intro b hb _; exact hb
        | cons x xs ih =>
          intro b hb hx
          refine ih _ ?_ fun y hy => hx y (List.mem_cons_of_mem _ hy)
          dsimp only
          split
          · exact hx x (List.mem_cons_self ..)
          · exact hb
      have k := key cs c0 (h c0 (hl ▸ List.mem_cons_self ..)) fun x hx => h x (hl ▸ List.mem_cons_of_mem _ hx)
      simp only [Option.some.injEq, Prod.mk.injEq] at e
      rw [← e.1]
      split <;> omega

/-- No aging move comes by `now`. -/
theorem ageMove_settled (q : Queue) (now clk : Nat) (h : ∀ l, l < 3 → ∀ c ∈ q.level l, now < c.since + 2 ^ 20) :
    ageMove now clk q = none := by
  have h0 := agingOf_later q now 0 (h 0 (by omega)) clk
  have h1 := agingOf_later q now 1 (h 1 (by omega)) clk
  have h2 := agingOf_later q now 2 (h 2 (by omega)) clk
  unfold ageMove
  simp only [List.foldl_cons, List.foldl_nil]
  generalize agingOf q clk 0 = a at *
  generalize agingOf q clk 1 = b at *
  generalize agingOf q clk 2 = d at *
  rcases a with - | ⟨a, x⟩ <;> rcases b with - | ⟨b, y⟩ <;> rcases d with - | ⟨d, z⟩ <;> simp at * <;>
    (repeat' split) <;> (try rfl) <;> grind

/-- Nothing due: aging leaves the queue as it is, but for the cycle it is aged to (R362). -/
theorem ageQueue_settled (q : Queue) (now : Nat) (h : ∀ l, l < 3 → ∀ c ∈ q.level l, now < c.since + 2 ^ 20) :
    ageQueue now q = { q with agedTo := max q.agedTo now } := by
  have key : ∀ n, ageMoves n now q.agedTo q = q := by
    intro n
    cases n with
    | zero => rfl
    | succ n => simp only [ageMoves, ageMove_settled q now q.agedTo h]
  unfold ageQueue
  split
  · rw [Nat.max_eq_left (by omega)]
  · rw [key, Nat.max_eq_right (by omega)]

/-- A pop with nothing due takes from the queue as it stands (R362). -/
theorem pop_settled (q : Queue) (now : Nat) (h : ∀ l, l < 3 → ∀ c ∈ q.level l, now < c.since + 2 ^ 20) :
    q.pop now = match ({ q with agedTo := max q.agedTo (now - 1) } : Queue).take with
      | some (ws, q1) => some (ws, ageQueue now q1)
      | none => none := by
  rw [Queue.pop, ageQueue_settled q (now - 1) fun l hl c hc => by have := h l hl c hc; omega] <;> rfl

end Sys2Proof.Machine
end

