-- ==== Sys2Proof/Tests/Slice0.lean ====
section
/-! SUPPORT. The model's own tests: words of the spec's encodings, ill-formed terms, single steps, and for each statement with
hypotheses a state that meets them. -/

namespace Sys2Proof.Tests

-- One theorem after another: each evaluation has a thread of its own otherwise.
set_option Elab.async false

open Sys2Proof.Machine Sys2Proof.Spec

/-- Whether a check passes. -/
def passes {α : Type} (r : Res α) : Bool :=
  match r with
  | .ok _ => true
  | .error _ => false

/-- Whether a step answers a next state. -/
def passes' (o : Host.Outcome State Fault Refusal) : Bool :=
  match o with
  | .next _ => true
  | _ => false

theorem ok_iff (r : Res Unit) : r = .ok () ↔ passes r = true := by
  cases r <;> simp [passes]

def issues (i : Instr) (f : Fields) (s : State) : Bool := i.wellFormed && passes (check i f s s.cur)

theorem issues_iff (i : Instr) (f : Fields) (s : State) : Issues i f s ↔ issues i f s = true := by
  simp [Issues, issues, ok_iff]

/-- Nothing in flight, nothing due; the current thread is the placed group. -/
def quiet : State := { State.reset with agenda := [], cur := placedGroup }

/-- The current thread with registers s0, s1, s2, … as given. -/
def withS (s : State) (xs : List Word) : State :=
  { s with cur := { s.cur with regs := { s.cur.regs with s := xs ++ s.cur.regs.s.drop xs.length } } }

/-- The current thread, with the fields of its own state as `g` leaves them. -/
def withCur (s : State) (g : Thread → Thread) : State := { s with cur := g s.cur }

/-- Page 0 of context 0 is mapped on core 0. -/
def mapped (s : State) : State := s.setCore 0 { s.core 0 with tlb := [{ ctxid := 0, leaf := placedLeaf }] }


/-! ### The machine as a whole -/

theorem witness_PackageReset : quiet.mem.wf = true := by decide +kernel

/-- The word runs as the first instruction after reset. -/
def placed (nbits w : Nat) : State := State.reset.withFetchWord nbits w
def inChain (s : State) : State :=
  withCur s fun th => { th with run := .issuing, chain := some { head := 0, count := 1, saved := th.regs } }
def fetched (s : State) : Option State :=
  match fetchKey s s.cur with
  | (.ok _, s1) => some s1
  | _ => none
def fetches (s : State) : Bool :=
  match fetchKey s s.cur with
  | (.ok key, s1) => (decode (blockBytes s1 key)).toOption.isSome
  | _ => false

/-- `nop`, `sadd`, `vadd` and `yield` placed; and a word whose slot does not fit its block. -/
theorem witness_StepRunsDecoded :
    (∀ w ∈ [0, 0x80, 0x140, 0x4C], let s := placed 64 w
      s.agenda = [] ∧ (dueStep s).isNone = true ∧ s.cur.run = .ready ∧ s.cur.chain = none ∧ s.cur.carts = [] ∧
      s.cur.preempt = false ∧ s.cur.detstall = false ∧ coreHeld s s.cur = false ∧ fetches s = true) ∧
    (let s := inChain (placed 64 0x140)
     s.cur.run = .issuing ∧ s.cur.chain ≠ none ∧ coreHeld s s.cur = false ∧ (dueStep s).isNone = true ∧ fetches s = true) ∧
    (let s := withCur (placed 64 1) fun th => { th with regs := { th.regs with pc := 24 } }
     let t := { s with mem := s.mem.writeNat 24 8 1 }
     (dueStep t).isNone = true ∧ coreHeld t t.cur = false ∧ (fetched t).isSome = true ∧ fetches t = false) ∧
    State.reset.agenda = [.packageReset] := by
  and_intros <;> decide +kernel

theorem witness_MemoryStaysCanonical : (placed 64 0).mem.wf = true ∧ ∃ t, step (placed 64 0) = .next t := by
  refine ⟨by decide +kernel, ?_⟩
  have h : passes' (step (placed 64 0)) = true := by decide +kernel
  revert h
  cases step (placed 64 0) with
  | next t => exact fun _ => ⟨t, rfl⟩
  | fault r => exact fun h => by simp [passes'] at h
  | refused r => exact fun h => by simp [passes'] at h

theorem witness_DecodeEncode :
    (∀ i ∈ [Instr.sadd { len := .w64, d := 3, a := 1, b := 2 }, .br { len := .w96, imm := 16 }, .sli { len := .w128, ty := 4, imm := 5 }],
      i.wellFormed = true ∧ (row i).isSome = true) := by
  decide +kernel

theorem witness_DecodedIsWellFormed :
    (match decode ([0x80, 0, 3, 1, 2, 0, 0, 0] : List Byte) with
      | .ok (i, r) => i == Instr.sadd { len := .w64, d := 3, a := 1, b := 2 } && r.isEmpty
      | .error _ => false) = true ∧
    (encode (.sadd { len := .w64, d := 3, a := 1, b := 2 })).isSome = true := by
  decide +kernel

theorem witness_UnassignedWords :
    (([3, 0, 0, 0, 0, 0, 0, 0] : List Byte).length = 8 ∧ ofLeBytes ([3, 0, 0, 0, 0, 0, 0, 0] : List Byte) % 4 = 3) ∧
    ((0x70 / 16, 0x70 % 16) ∈ unassignedCodes ∧ ofLeBytes ([0xC0, 1, 0, 0, 0, 0, 0, 0] : List Byte) / 4 % 256 = 0x70) := by
  decide +kernel

def fAdd : Fields := { len := .w64, d := 3, a := 1, b := 2 }
def sysThreadState (mode : Mode) : State :=
  { (quiet.setSysCore 0 { quiet.sysCore 0 with mode }) with cur := { sysThread 0 with run := .ready } }

def eightV : State := withCur quiet fun th => { th with regs := { th.regs with v := List.replicate 8 {} } }

/-- One state for each of the six ways that the checks end. -/
theorem witness_IssueChecks :
    (row (.mif { len := .w64, a := 4 })).isSome = true ∧
    ((row (.mif { len := .w64, a := 4 })).all (fun r => !r.sys)) = true ∧ (sysThreadState .user).cur.id = .sys 0 ∧
    ((row (.yield { len := .w64 })).all fun r => !chainAllows r { len := .w64 } (inChain quiet).cur) = true ∧
    ((row (.tlbiAll { len := .w64 })).all fun r => r.priv && userMode (sysThreadState .user) (.sys 0)) = true ∧
    ((row (.vadd { len := .w64, d := 200 })).all fun r => !rowFits r { len := .w64, d := 200 } eightV.cur) = true ∧
    ((row (.sadd { len := .w64, a := 248 })).all fun r => rowFits r { len := .w64, a := 248 } quiet.cur && !rowLatchesFit r { len := .w64, a := 248 } (src quiet)) = true ∧
    ((row (.sadd fAdd)).all fun r => !(blockedBy r fAdd (withCur quiet fun th => { th with pend := [{ reg := .s 1, tag := 7 }] }).cur).isEmpty) = true ∧
    issues (.sadd fAdd) fAdd quiet = true := by
  and_intros <;> decide +kernel

theorem witness_ChainsAndLatches :
    (inChain quiet).cur.chain ≠ none ∧ quiet.cur.chain = none ∧ fAdd.ch = false ∧ ({ fAdd with ch := true } : Fields).ch = true := by
  decide +kernel

/-! ### Words and ill-formed terms -/

def decodesTo (e : Nat × Instr) : Bool := decodeTableWord 128 e.1 == some e.2

/-- Every entry of 04 R110, its word written out field by field from the encoding tables and examples. -/
theorem test_words_control : [
    (0x0, Instr.nop { }), (0x4000, .nop { ch := true }), (0x100000000000000005, .br { len := .w96, imm := 0x10 }),
    (0x180000000009000009, .bz { len := .w96, a := 9, imm := 0x18 }), (0xFFFFFFF8000000000900000D, .bnz { len := .w96, a := 9, imm := 0xFFFFFFF8 }),
    (0x80027000201000011, .bc { len := .w96, a := 1, b := 2, ty := 7, mo := 2, imm := 0x8 }),
    (0x4000000000000A0015, .call { len := .w96, d := 10, imm := 0x40 }), (0x4040414, .callReg { fn := 1, d := 4, a := 4 }),
    (0xA000018, .ret { a := 10 }), (0xA00001C, .jmpi { a := 10 }), (0x8000000000A00001D, .jmpi { len := .w96, a := 10, imm := 0x8 }),
    (0x8000000003C000021, .bmz { len := .w96, a := 60, imm := 0x8 }), (0x8000000003C000025, .bmnz { len := .w96, a := 60, imm := 0x8 }),
    (0x6000028, .mif { a := 6 }), (0x2C, .melse { }), (0x30, .mend { }), (0x34, .mloop { }), (0x9000038, .mbrk { a := 9 }),
    (0x900003C, .mcont { a := 9 }), (0x9000040, .mpush { a := 9 }), (0x44, .mpop { }), (0x300000000000848, .waitc { fn := 2, ax := 3 }),
    (0x4C, .yield { }), (0x5000050, .sleep { a := 5 }), (0x9C40000000000000051, .sleep { len := .w96, imm := 0x9C4 }), (0x54, .done { }),
    (0x2100000000000058, .trap { ax := 33 }), (0x5C, .brkpt { })].all decodesTo = true := by decide +kernel

/-- Every entry of 05 R122 and R131, its word written out field by field from the encoding tables and examples. -/
theorem test_words_scalar : [
    (0x201030080, Instr.sadd { d := 3, a := 1, b := 2 }), (0x7000201030084, .ssub { d := 3, a := 1, b := 2, ty := 7 }),
    (0x201030088, .smul { d := 3, a := 1, b := 2 }), (0x700020103008C, .smulh { d := 3, a := 1, b := 2, ty := 7 }),
    (0x201030090, .sdiv { d := 3, a := 1, b := 2 }), (0x7000201030094, .srem { d := 3, a := 1, b := 2, ty := 7 }),
    (0x201030098, .sand { d := 3, a := 1, b := 2 }), (0x700020103009C, .sor { d := 3, a := 1, b := 2, ty := 7 }),
    (0x2010300A0, .sxor { d := 3, a := 1, b := 2 }), (0x70002010300A4, .sandn { d := 3, a := 1, b := 2, ty := 7 }),
    (0x2010300A8, .sshl { d := 3, a := 1, b := 2 }), (0x70002010300AC, .sshr { d := 3, a := 1, b := 2, ty := 7 }),
    (0x2010300B0, .ssra { d := 3, a := 1, b := 2 }), (0x70002010300B4, .srot { d := 3, a := 1, b := 2, ty := 7 }),
    (0x2010300B8, .smin { d := 3, a := 1, b := 2 }), (0x70002010300BC, .smax { d := 3, a := 1, b := 2, ty := 7 }),
    (0x70007000004030091, .sdiv { len := .w96, d := 3, a := 4, ty := 7, imm := 0x7 }),
    (0x123456789ABCDEF00008000006040082, .sadd { len := .w128, d := 4, a := 6, ty := 8, imm := 0x123456789ABCDEF0 }),
    (0x10300C0, .sclz { d := 3, a := 1 }), (0x10300C4, .spopc { d := 3, a := 1 }), (0x10300C8, .sbrev { d := 3, a := 1 }),
    (0x2010300CC, .sbfx { d := 3, a := 1, b := 2 }), (0x80400000500010300D1, .sbfi { len := .w96, d := 3, a := 1, c := 5, imm := 0x804 }),
    (0x502010300D4, .ssel { d := 3, a := 1, b := 2, c := 5 }), (0x400002010300D8, .scmp { d := 3, a := 1, b := 2, mo := 4 }),
    (0x50700DC, .smov { d := 7, a := 5 }), (0x5000000000100E0, .sli { d := 1, ax := 5 }),
    (0x4002070007020400E5, .slea { len := .w96, d := 4, a := 2, b := 7, ty := 7, ax := 2, imm := 0x40 }),
    (0x1A000201030100, .sfadd { d := 3, a := 1, b := 2, ty := 10, mo := 1 }),
    (0x1A000201030104, .sfsub { d := 3, a := 1, b := 2, ty := 10, mo := 1 }),
    (0x1A000201030108, .sfmul { d := 3, a := 1, b := 2, ty := 10, mo := 1 }),
    (0x1A05020103010C, .sffma { d := 3, a := 1, b := 2, c := 5, ty := 10, mo := 1 }), (0xA000201030110, .sfmin { d := 3, a := 1, b := 2, ty := 10 }),
    (0xA000201030114, .sfmax { d := 3, a := 1, b := 2, ty := 10 }), (0x6A000201030118, .sfcmp { d := 3, a := 1, b := 2, ty := 10, mo := 6 }),
    (0x4300000103291C, .sfcvt { fn := 10, d := 3, a := 1, ty := 3, mo := 4 }), (0x1030120, .sfsqrt { d := 3, a := 1 }),
    (0x700000000080124, .srd { d := 8, ax := 7 }), (0x400000008000128, .swr { a := 8, ax := 4 }), (0x4012C, .sgtime { d := 4 }),
    (0x201030130, .srnd { d := 3, a := 1, b := 2 }), (0x1030530, .srnd { fn := 1, d := 3, a := 1 }), (0xF090534, .smcnt { fn := 1, d := 9, a := 15 })].all decodesTo = true := by decide +kernel

/-- Every entry of 06 R144, its word written out field by field from the encoding tables and examples. -/
theorem test_words_vector : [
    (0x201030140, Instr.vadd { d := 3, a := 1, b := 2 }), (0x7000201030144, .vsub { d := 3, a := 1, b := 2, ty := 7 }),
    (0x2000201030148, .vmul { d := 3, a := 1, b := 2, ty := 2 }), (0x600020103014C, .vmulh { d := 3, a := 1, b := 2, ty := 6 }),
    (0x1040201030150, .vmad { d := 3, a := 1, b := 2, c := 4, ty := 1 }), (0x201030154, .vand { d := 3, a := 1, b := 2 }),
    (0x7000201030158, .vor { d := 3, a := 1, b := 2, ty := 7 }), (0x200020103015C, .vxor { d := 3, a := 1, b := 2, ty := 2 }),
    (0x6000201030160, .vandn { d := 3, a := 1, b := 2, ty := 6 }), (0x1000201030164, .vshl { d := 3, a := 1, b := 2, ty := 1 }),
    (0x201030168, .vshr { d := 3, a := 1, b := 2 }), (0x700020103016C, .vsra { d := 3, a := 1, b := 2, ty := 7 }),
    (0x2000201030170, .vmin { d := 3, a := 1, b := 2, ty := 2 }), (0x6000201030174, .vmax { d := 3, a := 1, b := 2, ty := 6 }),
    (0x2000001030178, .vabs { d := 3, a := 1, ty := 2 }), (0x103017C, .vclz { d := 3, a := 1 }),
    (0x7000001030180, .vpopc { d := 3, a := 1, ty := 7 }), (0x50005000001030141, .vadd { len := .w96, d := 3, a := 1, ty := 5, imm := 0x5 }),
    (0x701FC02020140, .vadd { d := 2, a := 2, b := 252, c := 1, ty := 7 }),
    (0x8040007000001030185, .vbfx { len := .w96, d := 3, a := 1, ty := 7, imm := 0x804 }), (0x90201030188, .vsel { d := 3, a := 1, b := 2, c := 9 }),
    (0x1700FE0406018C, .vcmp { d := 6, a := 4, b := 254, ty := 7, mo := 1 }), (0xA000002020190, .vmov { d := 2, a := 2, ty := 10 }),
    (0x3F020194, .vlid { d := 2, a := 63 }), (0xB000005020198, .vbc { d := 2, a := 5, ty := 11 }), (0x30205019C, .vget { d := 5, a := 2, b := 3 }),
    (0x5F00000000050201A1, .vput { len := .w96, d := 2, a := 5, imm := 0x5F }), (0x2010701A4, .vperm { d := 7, a := 1, b := 2 }),
    (0x501070DA8, .vshuf { fn := 3, d := 7, a := 1, b := 5 }), (0xA0000010511AC, .vred { fn := 4, d := 5, a := 1, ty := 10 }),
    (0x70000010721B0, .vscan { fn := 8, d := 7, a := 1, ty := 7 }),
    (0x500050000020401B5, .vhist { len := .w96, d := 4, a := 2, ty := 5, imm := 0x5 }),
    (0x6003F040601B8, .vbinm { d := 6, a := 4, b := 63, ty := 6 }), (0x605010709BC, .vcx { fn := 2, d := 7, a := 1, b := 5, c := 6 }),
    (0x20102028C, .vrnd { d := 2, a := 1, b := 2 })].all decodesTo = true := by decide +kernel

/-- Every entry of 07 R164, its word written out field by field from the encoding tables and examples. -/
theorem test_words_float : [
    (0x39000201030200, Instr.vfadd { d := 3, a := 1, b := 2, ty := 9, mo := 3 }),
    (0x3A000201030204, .vfsub { d := 3, a := 1, b := 2, ty := 10, mo := 3 }),
    (0x3A000201030208, .vfmul { d := 3, a := 1, b := 2, ty := 10, mo := 3 }),
    (0x3904020103020C, .vffma { d := 3, a := 1, b := 2, c := 4, ty := 9, mo := 3 }), (0xA000201030210, .vfdiv { d := 3, a := 1, b := 2, ty := 10 }),
    (0xA000001030214, .vfsqrt { d := 3, a := 1, ty := 10 }), (0xA000201030218, .vfmin { d := 3, a := 1, b := 2, ty := 10 }),
    (0x900020103021C, .vfmax { d := 3, a := 1, b := 2, ty := 9 }), (0xA000001030220, .vfabs { d := 3, a := 1, ty := 10 }),
    (0x9000001030224, .vfneg { d := 3, a := 1, ty := 9 }), (0x7A000201060228, .vfcmp { d := 6, a := 1, b := 2, ty := 10, mo := 7 }),
    (0xA00000103022C, .vfclass { d := 3, a := 1, ty := 10 }), (0xA000001030230, .vfrcp { d := 3, a := 1, ty := 10 }),
    (0xA000001030234, .vfrsq { d := 3, a := 1, ty := 10 }), (0xA000001030238, .vfexp2 { d := 3, a := 1, ty := 10 }),
    (0xA00000103023C, .vflog2 { d := 3, a := 1, ty := 10 }), (0xA000001030240, .vfsin { d := 3, a := 1, ty := 10 }),
    (0xA000001030244, .vfcos { d := 3, a := 1, ty := 10 }), (0xA000001030248, .vftanh { d := 3, a := 1, ty := 10 }),
    (0xA00000103024C, .vferf { d := 3, a := 1, ty := 10 }), (0x109000002030250, .vcvt { d := 3, a := 2, ty := 9, ax := 1 }),
    (0x40201030254, .vbfma { d := 3, a := 1, b := 2, c := 4 }), (0x1060680, .vq4s { fn := 1, d := 6, a := 1 }),
    (0x601040284, .vq4p { d := 4, a := 1, b := 6 }), (0x604050288, .vq4x { d := 5, a := 4, b := 6 })].all decodesTo = true := by decide +kernel

/-- Every entry of 09 R191, its word written out field by field from the encoding tables and examples. -/
theorem test_words_moment : [
    (0x2010102C0, Instr.mset { d := 1, a := 1, b := 2 }), (0x6040502C4, .mcoll { d := 5, a := 4, b := 6 }),
    (0x6040502C8, .msamp { d := 5, a := 4, b := 6 }), (0x2010306CC, .madd { fn := 1, d := 3, a := 1, b := 2 }),
    (0x201030AD0, .msub { fn := 2, d := 3, a := 1, b := 2 }), (0x201030ED4, .mmul { fn := 3, d := 3, a := 1, b := 2 }),
    (0x402010312D8, .mfma { fn := 4, d := 3, a := 1, b := 2, c := 4 }),
    (0xC000000000000000010502DD, .mscl { len := .w96, d := 5, a := 1, imm := 0xC0000000 }), (0x10302E0, .mrelu { d := 3, a := 1 }),
    (0x10302E4, .mexp { d := 3, a := 1 }), (0x10302E8, .msig { d := 3, a := 1 }), (0x10302EC, .mtanh { d := 3, a := 1 }),
    (0x1000007020302F0, .mld { d := 3, a := 2, b := 7, ax := 1 }),
    (0x800049030002000AF5, .mst { len := .w96, fn := 2, a := 2, c := 3, ty := 9, mo := 4, imm := 0x80 }), (0x10302F8, .mmov { d := 3, a := 1 }),
    (0x4000000000002FC, .mcfgMcr { ax := 4 }), (0x3F00000000000000000006FD, .mcfgMrho { len := .w96, fn := 1, imm := 0x3F000000 })].all decodesTo = true := by decide +kernel

/-- Every entry of 11 R251, its word written out field by field from the encoding tables and examples. -/
theorem test_words_memory : [
    (0x1B1A000702040300, Instr.vld { d := 4, a := 2, b := 7, ty := 10, mo := 1, ax := 27 }), (0x702040704, .vldu { fn := 1, d := 4, a := 2, b := 7 }),
    (0x1A27090503000708, .vst { fn := 1, a := 3, b := 5, c := 9, ty := 7, mo := 2, ax := 26 }),
    (0x207050702041F0C, .vatm { fn := 7, d := 4, a := 2, b := 7, c := 5, ty := 7, ax := 2 }),
    (0x207050702001710, .vmred { fn := 5, a := 2, b := 7, c := 5, ty := 7, ax := 2 }),
    (0x200090702040314, .vfld { d := 4, a := 2, b := 7, c := 9, ax := 2 }), (0x200050702000318, .vfst { a := 2, b := 7, c := 5, ax := 2 }),
    (0x400070204031C, .sld { d := 4, a := 2, b := 7, ty := 4 }), (0x70A0C01000320, .sst { a := 1, b := 12, c := 10, ty := 7 }),
    (0x401B37060002040325, .satm { len := .w96, d := 4, a := 2, c := 6, ty := 7, mo := 3, ax := 27, imm := 0x40 }),
    (0x200050702000328, .smred { a := 2, b := 7, c := 5, ax := 2 }), (0x20000070204032C, .sfld { d := 4, a := 2, b := 7, ax := 2 }),
    (0x200050702000330, .sfst { a := 2, b := 7, c := 5, ax := 2 }), (0x208000702040334, .srsv { d := 4, a := 2, b := 7, ty := 8, ax := 2 }),
    (0x208060702040338, .scnd { d := 4, a := 2, b := 7, c := 6, ty := 8, ax := 2 }), (0x401033C, .bset { d := 1, a := 4 }),
    (0x401073C, .bsetClu { fn := 1, d := 1, a := 4 }), (0x10340, .binv { d := 1 }), (0x740, .binvAll { fn := 1 }),
    (0x1830000000000344, .fence { mo := 3, ax := 24 }), (0x702000348, .cwb { a := 2, b := 7 }),
    (0x80000000000200034D, .cinv { len := .w96, a := 2, imm := 0x80 })].all decodesTo = true := by decide +kernel

/-- Every entry of 17 R342 and 09 R191, its word written out field by field from the encoding tables and examples. -/
theorem test_words_engine : [
    (0x4000100000000060000050304020382, Instr.cp { len := .w128, d := 2, a := 4, b := 3, c := 5, imm := 0x400010000000006 }),
    (0x4000100000702060000050304020386, .cpq { len := .w128, d := 2, a := 4, b := 3, c := 5, imm := 0x400010000070206 }),
    (0x400010000000506000005030402038A, .cpg { len := .w128, d := 2, a := 4, b := 3, c := 5, imm := 0x400010000000506 }), (0x5038C, .seal { d := 5 }),
    (0x60000050403020392, .tmma { len := .w128, d := 2, a := 3, b := 4, c := 5, imm := 0x6 }),
    (0x7060000050403020396, .tmmag { len := .w128, d := 2, a := 3, b := 4, c := 5, imm := 0x706 }), (0x10398, .tzero { d := 1 }),
    (0x10000000000000000040301039E, .tld { len := .w128, d := 1, a := 3, b := 4, imm := 0x10000000000 }),
    (0x1000000000000000104030003A2, .tst { len := .w128, a := 3, b := 4, c := 1, imm := 0x10000000000 }),
    (0x600000504030203A6, .tmam { len := .w128, d := 2, a := 3, b := 4, c := 5, imm := 0x6 }),
    (0x600000504030203AA, .tmamm { len := .w128, d := 2, a := 3, b := 4, c := 5, imm := 0x6 })].all decodesTo = true := by decide +kernel

/-- Every entry of 13, 16, 19 and 20 (03 R77), its word written out field by field from the encoding tables and examples. -/
theorem test_words_families : [
    (0x403C0, Instr.scget { d := 4 }), (0x40907C0, .scq { fn := 1, d := 9, a := 4 }), (0x6040BC0, .scfrz { fn := 2, d := 4, a := 6 }),
    (0x6040FC0, .scthaw { fn := 3, d := 4, a := 6 }), (0x500003F000003C4, .bar { b := 63, ax := 5 }),
    (0x205000000000007C5, .barv { len := .w96, fn := 1, ax := 5, imm := 0x2 }), (0x500000000000BC4, .barw { fn := 2, ax := 5 }),
    (0x100000009040FC4, .tmq { fn := 3, d := 4, a := 9, ax := 1 }), (0x8000A0003C8, .qpush { a := 10, c := 8 }),
    (0x10000000A1007C8, .qpop { fn := 1, d := 16, a := 10, ax := 1 }), (0xA000BC8, .qdone { fn := 2, a := 10 }),
    (0x80503000FC8, .qspawn { fn := 3, a := 3, b := 5, c := 8 }),
    (0x4018000000030413C9, .qjoin { len := .w96, fn := 4, d := 4, a := 3, ax := 24, imm := 0x40 }),
    (0x30000000A0417C8, .qstat { fn := 5, d := 4, a := 10, ax := 3 }), (0xA0403CC, .klaunch { d := 4, a := 10 }),
    (0xC0A0407CC, .depart { fn := 1, d := 4, a := 10, b := 12 }), (0x3000BCC, .dtbeg { fn := 2, a := 3 }), (0xFCC, .dtend { fn := 3 })].all decodesTo = true := by decide +kernel

/-- Every entry of 22 R434 and 21, its word written out field by field from the encoding tables and examples. -/
theorem test_words_system : [
    (0x40003E0, Instr.syscResume { a := 4 }), (0x1000000040003E0, .syscSkip { a := 4, ax := 1 }),
    (0x2000000040003E0, .syscAbandon { a := 4, ax := 2 }), (0x10000000000003E0, .syscCall { ax := 16 }), (0x3E4, .eret { }),
    (0x11000000000403E8, .srdp { d := 4, ax := 17 }), (0x1000000060007EC, .swrp { fn := 1, a := 6, ax := 1 }),
    (0x30A0003F0, .tlbiVa { a := 10, b := 3 }), (0x3000007F0, .tlbiCtx { fn := 1, b := 3 }), (0xBF0, .tlbiAll { fn := 2 }),
    (0x40503F4, .ctxs { d := 5, a := 4 }), (0x6040503F8, .ctxr { d := 5, a := 4, b := 6 }), (0xA080503FC, .idle { d := 5, a := 8, b := 10 })].all decodesTo = true := by decide +kernel


/-- One term for each check of an entry, which refuses it: FN, length, type, mode, AX, immediate, ND, and the four operands. -/
theorem test_illformed_fields : ∀ i ∈ [Instr.sadd { fn := 1 }, .vadd { len := .w128 }, .vadd { ty := 4 }, .sfadd { mo := 4 }, .waitc { ax := 64 },
    .sadd { imm := 1 }, .sadd { len := .w96, imm := 2 ^ 32 }, .sst { nd := true }, .sadd { nd := true, d := 1 }, .sadd { d := 64 }, .sadd { a := 64 }, .sadd { b := 64 },
    .sbfi { c := 64 }, .vadd { b := 252, c := 64 }, .sadd { ty := 8, d := 1 }, .mif { a := 62 }, .br { len := .w96, imm := 4 },
    .vadd { len := .w96, ty := 5, imm := 0x100 }, .sbfx { len := .w96, imm := 0x10000 }, .seal { d := 60 }, .cp { len := .w128, imm := 0x1000000 },
    .tzero { d := 8 }, .sfcvt { ty := 10, fn := 12 }], i.wellFormed = false := by
  decide +kernel

/-- One hardware step for each kind of object, naming one that the package does not have. -/
theorem test_illformed_objects : ∀ b ∈ [Instr.wellFormed (.drained (.grp 8 0 0)), Instr.wellFormed (.drained (.grp 0 64 0)),
    Instr.wellFormed (.drained (.grp 0 0 (2 ^ 14))), Instr.wellFormed (.drained (.sys 16)), Instr.wellFormed (.unassignedOpcode 0 0),
    Instr.wellFormed (.lclkTick 400), Instr.wellFormed (.holderTokenAsk 0 1 1 400), Instr.wellFormed (.forwardedMerge 1 96 0),
    Instr.wellFormed (.homeWrite 1 96), Instr.wellFormed (.ticketPerform 0 64), Instr.wellFormed (.barrierLeave 0 0 256),
    Instr.wellFormed (.departureFire 0 0 384), Instr.wellFormed (.regroupPromotion 4), Instr.wellFormed (.engineOpStart 384 .copy),
    Instr.wellFormed (.launchAccept 8), Instr.wellFormed (.sharingWindowEnd [8]), Instr.wellFormed (.qcmdCreate 0 (2 ^ 16)),
    Instr.wellFormed (.queueAging (.table (2 ^ 16)) 0), Instr.wellFormed (.queueAging (.data 0 0 384) 0), Instr.wellFormed (.egressPop 16),
    Instr.wellFormed (.pauseTimeExpiry 0 8), Instr.wellFormed (.nakRepeat (.boundary 4 true)), Instr.wellFormed (.nakRepeat (.coupling 24 true)),
    Instr.wellFormed (.couplingEnable 24)], b = false := by
  decide +kernel

/-! ### Scalar instructions -/

/-- s1 to s7 hold 12, 5, 7, the most negative number, -1, 0, 3. -/
def regState : State := withS quiet [0, 12, 5, 7, 0x80000000, 0xFFFFFFFF, 0, 3]
def fABC : Fields := { d := 10, a := 1, b := 2 }
/-- A register form, a 64-bit type on pairs, and an immediate. -/
def fieldsT : List Fields := [fABC, { fABC with ty := 8, a := 4 }, { fABC with len := .w96, ty := 7, b := 0, imm := 33 }]

theorem witness_ScalarArithmetic : ∀ f ∈ fieldsT, ∀ i ∈ [Instr.sadd f, .ssub f, .smul f, .smulh f, .sand f, .sor f, .sxor f, .sandn f],
    issues i f regState = true := by decide +kernel

theorem witness_ScalarShiftsAndSelection : ∀ f ∈ fieldsT, ∀ i ∈ [Instr.sshl f, .sshr f, .ssra f, .srot f, .smin f, .smax f],
    issues i f regState = true := by decide +kernel

theorem witness_ScalarDivision :
    (∀ f ∈ fieldsT ++ [{ fABC with b := 6 }, { fABC with a := 4, b := 5 }, { fABC with a := 5, b := 2, ty := 7 }],
      issues (.sdiv f) f regState = true ∧ issues (.srem f) f regState = true) ∧
    (opB { fABC with b := 6 } regState).toNat = 0 ∧ (opB fABC regState).toNat = 5 ∧
    (opA { fABC with a := 4, b := 5 } regState).toNat = 2 ^ 31 ∧ (opB { fABC with a := 4, b := 5 } regState).toNat = 2 ^ 32 - 1 := by
  decide +kernel

def fOne : Fields := { d := 10, a := 1 }

theorem witness_ScalarBitCounts :
    (∀ f ∈ [fOne, { fOne with a := 6 }, { fOne with ty := 4, a := 6 }], ∀ i ∈ [Instr.sclz f, .spopc f, .sbrev f], issues i f regState = true) ∧
    (opA { fOne with a := 6 } regState).toNat = 0 ∧ (opA fOne regState).toNat = 12 := by
  decide +kernel

theorem witness_ScalarBitFields : ∀ f ∈ [fABC, { fABC with len := .w96, b := 0, imm := 0x2004 }, { fABC with ty := 8, a := 4, c := 6 }],
    (f.c = 0 → f.ty = 0 → issues (.sbfx f) f regState = true) ∧ issues (.sbfi f) f regState = true := by
  decide +kernel

theorem witness_ScalarSelectCompareMove :
    (∀ c ∈ [6, 7], let f := { fABC with c := BitVec.ofNat 8 c }
      issues (.ssel f) f regState = true ∧ ((src regState).srcS f.c).toNat = if c = 6 then 0 else 3) ∧
    (∀ n ∈ [0, 1, 2, 3, 4, 5], let f := { fABC with mo := BitVec.ofNat 4 n }
      issues (.scmp f) f regState = true) ∧
    (readAs 0 (opA fABC regState) = 12 ∧ readAs 0 (opB fABC regState) = 5) ∧
    (∀ ty ∈ [0, 1, 2, 3, 4, 5, 6, 7, 8], let f := { d := 10, a := 4, ty := BitVec.ofNat 4 ty }
      issues (.smov f) f regState = true) := by
  decide +kernel

theorem witness_ScalarConstantsAndAddresses :
    (∀ f ∈ [{ d := 10, ax := 0xC8 }, { len := .w96, d := 10, imm := 200 }, ({ len := .w128, d := 10, ty := 4, imm := 5 } : Fields)],
      issues (.sli f) f regState = true) ∧
    (∀ f ∈ [{ d := 10, a := 2, b := 5, ax := 7 }, ({ len := .w96, d := 10, a := 2, b := 5, ty := 7, imm := 0xFFFFFFFF } : Fields)],
      issues (.slea f) f regState = true) := by
  decide +kernel

/-- s1 to s7 hold NaN, +infinity, -infinity, +0, -0, 1.0 and -1.0. -/
def floatState : State := withS quiet [0, 0x7FC00000, 0x7F800000, 0xFF800000, 0, 0x80000000, 0x3F800000, 0xBF800000]

theorem witness_ScalarFloat :
    (∀ a ∈ [1, 2, 3, 4, 5, 6, 7], ∀ b ∈ [1, 2, 3, 4, 6], let f : Fields := { d := 10, a := BitVec.ofNat 8 a, b := BitVec.ofNat 8 b }
      ∀ i ∈ [Instr.sfadd f, .sfsub f, .sfmul f, .sffma f, .sfmin f, .sfmax f, .sfcmp f], issues i f floatState = true) ∧
    (∀ a ∈ [1, 2, 3, 4, 5, 7], let f : Fields := { d := 10, a := BitVec.ofNat 8 a }
      issues (.sfsqrt f) f floatState = true) ∧
    (∀ x ∈ [(3, 0), (10, 0), (10, 10), (3, 10), (4, 10)], let f : Fields := { d := 10, a := 2, fn := BitVec.ofNat 4 x.2, ty := BitVec.ofNat 4 x.1 }
      issues (.sfcvt f) f floatState = true) ∧
    (nan32 ((src floatState).srcS 1) = true ∧ ((src floatState).srcS 2).toNat = 0x7F800000 ∧ ((src floatState).srcS 5).toNat = 2 ^ 31) := by
  decide +kernel

theorem witness_SystemRegisters :
    (∀ n ∈ [0, 1, 2, 3, 4, 5, 6, 7, 8, 9, 10, 11, 12, 13, 14, 15], let f : Fields := { d := 10, ax := BitVec.ofNat 8 n }
      issues (.srd f) f regState = true) ∧
    (∀ n ∈ [4, 6, 7, 8, 13, 14, 15], let f : Fields := { a := 5, ax := BitVec.ofNat 8 n }
      issues (.swr f) f regState = true) ∧
    issues (.sgtime { d := 10 }) { d := 10 } regState = true ∧
    (∀ n ∈ [0, 1], let f : Fields := { d := 10, a := 1, b := if n = 0 then 2 else 0, fn := BitVec.ofNat 4 n }
      issues (.srnd f) f regState = true ∧ issues (.smcnt { f with a := 15, b := 0 }) { f with a := 15, b := 0 } regState = true) ∧
    regState.cur.id = .grp 0 0 0 := by
  decide +kernel

/-! ### Control instructions -/

theorem witness_Branches :
    (∀ a ∈ [1, 6], let f : Fields := { len := .w96, a := BitVec.ofNat 8 a, imm := 16 }
      issues (.br { f with a := 0 }) { f with a := 0 } regState = true ∧ issues (.bz f) f regState = true ∧ issues (.bnz f) f regState = true ∧
      ((src regState).srcS f.a).toNat = if a = 1 then 12 else 0) ∧
    (∀ a ∈ [0, 60], let f : Fields := { len := .w96, a := BitVec.ofNat 8 a, imm := 16 }
      issues (.bmz f) f (withS quiet [0, 0, 0, 0]) = true ∧ issues (.bmnz f) f (withS quiet [0, 0, 0, 0]) = true ∧
      ((src (withS quiet [0, 0, 0, 0])).readZ a = 0 ↔ a = 0)) ∧
    (∀ n ∈ [0, 1, 2, 3, 4, 5], let f : Fields := { len := .w96, a := 1, b := 2, mo := BitVec.ofNat 4 n, imm := 16 }
      issues (.bc f) f regState = true ∧ ∀ x ∈ [(1, 6), (4, 5), (2, 2), (6, 7), (7, 6)], let g : Fields := { f with ty := 10, a := BitVec.ofNat 8 x.1, b := BitVec.ofNat 8 x.2 }
        issues (.bc g) g floatState = true) := by
  decide +kernel

/-- x4 holds a target. -/
def targetState (lo : Word) : State := withS quiet [0, 0, 0, 0, lo, 0]

theorem witness_CallsAndJumps : ∀ t ∈ [0x40, 0x44], let s := targetState (BitVec.ofNat 32 t)
    ((src s).readX 4).toNat = t ∧
    (∀ e ∈ [(Instr.callReg { fn := 1, d := 4, a := 4 }, ({ fn := 1, d := 4, a := 4 } : Fields)), (.ret { a := 4 }, { a := 4 }), (.jmpi { a := 4 }, { a := 4 }),
        (.jmpi { len := .w96, a := 4, imm := 4 }, { len := .w96, a := 4, imm := 4 }), (.call { len := .w96, d := 4, imm := 16 }, { len := .w96, d := 4, imm := 16 })],
      issues e.1 e.2 s = true) := by
  decide +kernel

def stacked (ks : List Token) : State := withCur quiet fun th => { th with stack := ks }
def aToken (kind : TokenKind) : Token := { kind, outer := 0xFF, head := 8 }
def fZ : Fields := { a := 60 }

theorem witness_MaskConditionals :
    (∀ ts ∈ [[], [aToken .iff], [aToken .els], [aToken .save], [aToken .loop], List.replicate 31 (aToken .iff), List.replicate 32 (aToken .iff)],
      let s := stacked ts
      issues (.mif fZ) fZ s = true ∧ issues (.melse {}) {} s = true ∧ issues (.mpush fZ) fZ s = true ∧ issues (.mpop {}) {} s = true) ∧
    (stacked (List.replicate 32 (aToken .iff))).cur.opened.stack.length = 32 := by
  decide +kernel

theorem witness_MaskLoops :
    (∀ ts ∈ [[], [aToken .iff], [aToken .save], [aToken .loop], [aToken .iff, aToken .els, aToken .loop, aToken .loop], List.replicate 32 (aToken .loop)],
      let s := stacked ts
      issues (.mloop {}) {} s = true ∧ issues (.mbrk fZ) fZ s = true ∧ issues (.mcont fZ) fZ s = true ∧ issues (.mend {}) {} s = true) ∧
    (src quiet).mask ||| (aToken .loop).cont ≠ 0 ∧
    (let s := withCur (stacked [aToken .loop]) fun th => { th with regs := { th.regs with s := List.replicate 64 0 } }
     issues (.mend {}) {} s = true ∧ (src s).mask ||| (aToken .loop).cont = 0) := by
  decide +kernel

theorem witness_WaitsAndRetirement :
    (∀ n ∈ [0, 2, 63], let s := withCur regState fun th => { th with lc := n, sc := n }
      ∀ fn ∈ [0, 1, 2], let f : Fields := { fn := BitVec.ofNat 4 fn, ax := 2 }
        issues (.waitc f) f s = true) ∧
    issues (.nop {}) {} regState = true ∧ issues (.yield {}) {} regState = true ∧ issues (.done {}) {} regState = true ∧
    (∀ f ∈ [{ a := 6 }, { a := 1 }, ({ len := .w96, imm := 2500 } : Fields)], issues (.sleep f) f regState = true) ∧ regState.cur.block = none ∧
    (withCur regState fun th => { th with block := some 3 }).cur.block ≠ none ∧
    issues (.done {}) {} (withCur regState fun th => { th with block := some 3 }) = true := by
  decide +kernel

theorem witness_SoftwareTraps : issues (.trap { ax := 0x21 }) { ax := 0x21 } regState = true ∧ issues (.brkpt {}) {} regState = true := by
  decide +kernel

theorem witness_GroupTrap : quiet.thread? (.grp 0 0 0) = some placedGroup ∧ placedGroup.trapSeq < 16 ∧
    (inChain quiet).thread? (.grp 0 0 0) = some (inChain quiet).cur := by
  decide +kernel

/-- Partition 0 has a trap queue for context 0, of `n` carts at level 3. -/
def trapState (n : Nat) : State :=
  let s := quiet.setPart 0 { running := true, cores := 3, qnum := 4, ctxs := [(0, { trapq := 0x7ABCDEF0001 })] }
  s.setQueue { id := .table 1, part := 0, st := .active, code := 0xABCDEF, cap := 6, levels := [[], [], [], List.replicate n { words := [], since := 0 }] }

theorem witness_TrapCartDelivery :
    (match findQueue quiet 0 0 true with
      | .error _ => true
      | .ok _ => false) = true ∧
    (∀ n ∈ [0, 64], (trapState n).thread? (.grp 0 0 0) = some placedGroup ∧
      (match findQueue (trapState n) 0 0x7ABCDEF0001 true with
        | .ok q => ((pushCart (trapState n) q [0, 0, 0, 0, 0, 0, 0, 0] 3).1 == 0) == (n == 0)
        | .error _ => false) = true) := by
  decide +kernel

theorem witness_SystemCoreTrap : ∀ m ∈ [Mode.user, .supervisor, .hypervisor],
    (sysThreadState m).thread? (.sys 0) = some (sysThreadState m).cur ∧ ((sysThreadState m).sysCore 0).mode = m := by
  decide +kernel

/-! ### Vector instructions -/

/-- v1 and v2 are RAW, v3 is I32, v4 N32, v5 F32, v6 of a code that is no format, v7 N8X4, v8 BF16X2, v9 Q4X8; s1 to s7 as in `regState`. -/
def vecState : State :=
  let first : List VReg := [0, 0, 0, I32, N32, F32, 13, N8X4, BF16X2, Q4X8].map fun tag => { tag }
  withCur regState fun th => { th with regs := { th.regs with v := first ++ th.regs.v.drop 10 } }
def fV : Fields := { d := 10, a := 1, b := 2 }
/-- Sources that fit under `.i32`, sources that do not, an i8 form, and an immediate. -/
def fieldsV : List Fields := [fV, { fV with a := 5 }, { fV with ty := 1 }, { fV with len := .w96, b := 0, imm := 33 }]

theorem witness_VectorArithmetic :
    (∀ f ∈ fieldsV, ∀ i ∈ [Instr.vadd f, .vsub f, .vmul f, .vmulh f, .vand f, .vor f, .vxor f, .vandn f, .vmad f], issues i f vecState = true) ∧
    ((src vecState).srcV fV 1).tag = RAW ∧ ((src vecState).srcV fV 5).tag = F32 := by
  decide +kernel

theorem witness_VectorShiftsAndCounts :
    (∀ f ∈ fieldsV, ∀ i ∈ [Instr.vshl f, .vshr f, .vsra f, .vmin f, .vmax f], issues i f vecState = true) ∧
    (∀ a ∈ [1, 5], let f : Fields := { d := 10, a := BitVec.ofNat 8 a }
      issues (.vabs f) f vecState = true ∧ issues (.vclz f) f vecState = true ∧ issues (.vpopc f) f vecState = true) := by
  decide +kernel

theorem witness_VectorSelectCompareCopy :
    (∀ a ∈ [1, 5, 6], let f : Fields := { fV with a := BitVec.ofNat 8 a }
      issues (.vbfx f) f vecState = true ∧ issues (.vsel { f with c := 9 }) { f with c := 9 } vecState = true ∧
      issues (.vcmp { f with d := 12, mo := 2 }) { f with d := 12, mo := 2 } vecState = true) ∧
    (∀ ty ∈ [0, 1, 2, 3, 5, 6, 7, 9, 10, 11], ∀ a ∈ [1, 6], let f : Fields := { d := 10, a := BitVec.ofNat 8 a, ty := BitVec.ofNat 4 ty }
      issues (.vmov f) f vecState = true ∧ issues (.vbc f) f vecState = true) ∧
    issues (.vlid { d := 10, a := 63 }) { d := 10, a := 63 } vecState = true := by
  decide +kernel

theorem witness_VectorLanes :
    (∀ a ∈ [1, 6], ∀ l ∈ [0, 95, 96], let f : Fields := { len := .w96, d := 10, a := BitVec.ofNat 8 a, imm := BitVec.ofNat 64 l }
      issues (.vget f) f vecState = true ∧ issues (.vshuf { f with fn := 3 }) { f with fn := 3 } vecState = true) ∧
    (∀ d ∈ [6, 10], ∀ l ∈ [0, 95, 96], let f : Fields := { len := .w96, d := BitVec.ofNat 8 d, a := 5, imm := BitVec.ofNat 64 l }
      issues (.vput f) f vecState = true) ∧
    (∀ a ∈ [1, 6], ∀ b ∈ [3, 5], let f : Fields := { d := 10, a := BitVec.ofNat 8 a, b := BitVec.ofNat 8 b }
      issues (.vperm f) f vecState = true) ∧
    (∀ a ∈ [1, 6], ∀ n ∈ [0, 1], let f : Fields := { d := 10, a := BitVec.ofNat 8 a, b := if n = 0 then 2 else 0, fn := BitVec.ofNat 4 n }
      issues (.vrnd f) f vecState = true) := by
  decide +kernel

theorem witness_VectorReductions :
    (∀ a ∈ [1, 6], ∀ n ∈ [0, 1, 2, 3, 4, 5], ∀ ty ∈ [0, 7], let f : Fields := { d := 10, a := BitVec.ofNat 8 a, fn := BitVec.ofNat 4 n, ty := BitVec.ofNat 4 ty }
      issues (.vred f) f vecState = true ∧ issues (.vscan f) f vecState = true ∧
      issues (.vscan { f with fn := f.fn + 8 }) { f with fn := f.fn + 8 } vecState = true) ∧
    (∀ n ∈ [0, 4, 5], let f : Fields := { d := 10, a := 5, fn := BitVec.ofNat 4 n, ty := 10 }
      issues (.vred f) f vecState = true ∧ issues (.vscan f) f vecState = true) := by
  decide +kernel

theorem witness_VectorBinsAndExchange :
    (∀ ty ∈ [0, 5, 6], ∀ d ∈ [4, 5], ∀ a ∈ [1, 5], let f : Fields := { len := .w96, d := BitVec.ofNat 8 d, a := BitVec.ofNat 8 a, ty := BitVec.ofNat 4 ty, imm := 95 }
      issues (.vhist f) f vecState = true ∧ issues (.vbinm f) f vecState = true) ∧
    (∀ n ∈ [0, 1, 2], ∀ a ∈ [1, 5], let f : Fields := { d := 10, a := BitVec.ofNat 8 a, b := 7, c := if n = 2 then 2 else 0, fn := BitVec.ofNat 4 n }
      issues (.vcx f) f vecState = true) := by
  decide +kernel

/-! ### Vector floating point -/

/-- Sources that fit, and a source of another format, under f32 and under bf16. -/
def fieldsF : List Fields := [{ fV with ty := 10 }, { fV with ty := 10, a := 4 }, { fV with ty := 9 }, { fV with ty := 9, a := 5 }]

theorem witness_VectorFloatArithmetic :
    (∀ f ∈ fieldsF, ∀ i ∈ [Instr.vfadd f, .vfsub f, .vfmul f, .vffma f, .vfmin f, .vfmax f], issues i f vecState = true) ∧
    (∀ a ∈ [1, 4], let f : Fields := { fV with a := BitVec.ofNat 8 a }
      issues (.vfdiv f) f vecState = true) ∧
    (∀ ty ∈ [9, 10], ∀ a ∈ [1, 4], let f : Fields := { d := 10, a := BitVec.ofNat 8 a, ty := BitVec.ofNat 4 ty }
      issues (.vfabs f) f vecState = true ∧ issues (.vfneg f) f vecState = true) := by
  decide +kernel

theorem witness_VectorFloatCompareAndClass : ∀ a ∈ [1, 4], let f : Fields := { d := 12, a := BitVec.ofNat 8 a }
    issues (.vfsqrt f) f vecState = true ∧ issues (.vfclass f) f vecState = true ∧
    (∀ n ∈ [0, 1, 2, 3, 4, 5, 6, 7], issues (.vfcmp { f with b := 2, mo := BitVec.ofNat 4 n }) { f with b := 2, mo := BitVec.ofNat 4 n } vecState = true) := by
  decide +kernel

theorem witness_SpecialFunctions : ∀ a ∈ [1, 4], ∀ d ∈ [0, 10], let f : Fields := { d := BitVec.ofNat 8 d, a := BitVec.ofNat 8 a, nd := d == 0 }
    (∀ i ∈ [Instr.vfrcp f, .vfrsq f, .vfexp2 f, .vflog2 f, .vfsin f, .vfcos f, .vftanh f, .vferf f], issues i f vecState = true) ∧
    vecState.cur.chain = none := by
  decide +kernel

theorem witness_VectorConversion :
    (∀ x ∈ [(10, 3), (3, 10), (10, 1), (9, 10), (1, 10), (5, 2)], ∀ a ∈ [1, 6],
      let f : Fields := { d := 10, a := BitVec.ofNat 8 a, ty := BitVec.ofNat 4 x.1, fn := BitVec.ofNat 4 x.2 }
      issues (.vcvt f) f vecState = true) ∧
    (∀ d ∈ [8, 10], let f : Fields := { d := BitVec.ofNat 8 d, a := 5, ty := 9, fn := 10, ax := 1 }
      issues (.vcvt f) f vecState = true) ∧
    (∀ a ∈ [1, 6], let f : Fields := { fV with a := BitVec.ofNat 8 a, c := 5 }
      issues (.vbfma f) f vecState = true) := by
  decide +kernel

theorem witness_NarrowBlocks :
    (∀ a ∈ [1, 4], let f : Fields := { d := 10, a := BitVec.ofNat 8 a, fn := 1 }
      issues (.vq4s f) f vecState = true) ∧
    (∀ d ∈ [5, 10], ∀ p ∈ [0, 7], let f : Fields := { d := BitVec.ofNat 8 d, a := 1, b := 2, ax := BitVec.ofNat 8 p }
      issues (.vq4p f) f vecState = true) ∧
    (∀ a ∈ [1, 5], ∀ ty ∈ [0, 10], let f : Fields := { d := 10, a := BitVec.ofNat 8 a, b := 2, ty := BitVec.ofNat 4 ty }
      issues (.vq4x f) f vecState = true) ∧
    (let f : Fields := { d := 10, a := 9, b := 2, c := 4, ty := 9 }
     issues (.vq4x f) f vecState = true) := by
  decide +kernel

/-! ### Moments -/

/-- m1 is RAW, m2 MOM, m3 no moment register, m4 MOM with a variance of -1.0 in lane 3, m5 an infinite variance; with MCR as given. -/
def momState (mcr : Nat) : State :=
  let m (x : Word) : MReg := { tag := MOM, var := lset (List.replicate 96 0) 3 x }
  let first : List MReg := [{}, {}, m 0x3F800000, { tag := F32 }, m 0xBF800000, m 0x7F800000]
  withCur vecState fun th =>
    { th with regs := { th.regs with sr := { th.regs.sr with mcr := BitVec.ofNat 8 mcr }, m := first ++ th.regs.m.drop 6 } }
def fM : Fields := { d := 10, a := 1, b := 2 }

theorem witness_MomentArithmetic : ∀ n ∈ [0, 4], ∀ a ∈ [1, 2, 3, 4], let f : Fields := { fM with a := BitVec.ofNat 8 a, fn := 1 }
    (∀ i ∈ [Instr.madd f, .msub f, .mmul f, .mfma { f with c := 1 }], ∃ g ∈ fieldsOf i, issues i g (momState n) = true) ∧
    (let g : Fields := { f with fn := 0 }
     issues (.mscl g) g (momState n) = true) ∧ ((src (momState n)).sr.mcr.getLsbD 2 = (n == 4)) := by
  decide +kernel

theorem witness_MomentFunctions : ∀ n ∈ [0, 4], ∀ a ∈ [1, 2, 3, 4, 5], ∀ d ∈ [0, 10],
    let f : Fields := { d := BitVec.ofNat 8 d, a := BitVec.ofNat 8 a, nd := d == 0 }
    ∀ i ∈ [Instr.mrelu f, .mexp f, .msig f, .mtanh f], issues i f (momState n) = true := by
  decide +kernel

theorem witness_MomentMovesAndControl : ∀ n ∈ [0, 4], let s := momState n
    (∀ a ∈ [1, 4], ∀ x ∈ [0x3F800000, 0xBF800000, 0], let f : Fields := { len := .w96, d := 10, a := BitVec.ofNat 8 a, imm := BitVec.ofNat 64 x }
      issues (.mset f) f s = true) ∧
    (∀ a ∈ [2, 3, 4], let f : Fields := { d := 10, a := BitVec.ofNat 8 a }
      issues (.mcoll { f with b := 11 }) { f with b := 11 } s = true ∧
      issues (.mcoll { f with d := 0, b := 11, nd := true }) { f with d := 0, b := 11, nd := true } s = true ∧
      issues (.msamp { f with b := 1 }) { f with b := 1 } s = true ∧ issues (.mmov f) f s = true) ∧
    issues (.mcfgMcr { ax := 4 }) { ax := 4 } s = true ∧
    (∀ x ∈ [0x7FC00000, 0x80000000, 0x3F800000, 0x3F800001, 0xC0000000], let f : Fields := { len := .w96, fn := 1, imm := BitVec.ofNat 64 x }
      issues (.mcfgMrho f) f s = true) := by
  decide +kernel

/-! ### Memory -/

/-- b1 covers 64 KiB of global memory from 0x100 on, whose page is mapped; b2 nothing; b3 lies in no region, b4 covers 64 KiB of the scratchpad. -/
def memState : State :=
  let b : BaseReg := { valid := true, kind := .global, vbase := 0x100, limit := 0xFFFF, leaf := placedLeaf }
  let s := mapped vecState
  let scratch : BaseReg := { valid := true, kind := .scratch, vbase := 0xFE00000000000000, limit := 65536 }
  { s with cur := { s.cur with bases := lset (lset (lset s.cur.bases 1 b) 3 { b with vbase := 0xF000000000000000 }) 4 scratch } }

/-- Every memory form at offset 0 of b1, with the form's place among `memoryForms`. -/
def memoryCases : List (Fields × Nat) :=
  let v : Fields := { d := 10, a := 1, b := 1 }
  let v0 : Fields := { v with d := 0 }
  let r : Fields := { d := 10, a := 1, b := 63, ax := 2 }
  let r0 : Fields := { r with d := 0 }
  [(v, 0), ({ v with fn := 1, b := 63 }, 1), ({ v0 with c := 2, mo := 2 }, 2), ({ v with c := 2, fn := 7, ax := 2 }, 3), ({ v0 with c := 2, ax := 2 }, 4),
    ({ v with c := 12, ax := 2 }, 5), ({ v0 with c := 2, ax := 2 }, 6), (v, 7), ({ v0 with c := 2, ty := 9, mo := 3 }, 8), ({ r with ty := 4, mo := 1 }, 9),
    ({ r0 with c := 4 }, 10), ({ r with c := 4, ty := 8, mo := 3 }, 11), ({ r0 with c := 4, fn := 5 }, 12), (r, 13), ({ r0 with c := 4 }, 14), (r, 15),
    ({ r with c := 4 }, 16), ({ r0 with ax := 0 }, 17), ({ r0 with ax := 0 }, 18)]

def resolves (s : State) (form : Form) (f : Fields) : Bool :=
  match resolve s s.cur.opened (base f s) (needOfForm form.m) (f.ax.toNat % 8) form.m.scalar form.m.lanes with
  | .ok r => r.page.isNone
  | .error _ => false

theorem witness_MemoryIssue : ∀ x ∈ memoryCases, ∃ form ∈ ((memoryForms x.1 memState).drop x.2).take 1,
    issues form.i x.1 memState = true ∧ (base x.1 memState).valid = true ∧ (base x.1 memState).kind ≠ .regWindow ∧
    (form.m.lc = true → memState.cur.lc < 63) ∧ (form.m.sc = true → memState.cur.sc < 63) ∧
    regroupHeld memState 0 (x.1.ax.toNat / 8 % 8) .global = false ∧ memState.accs = [] ∧
    (detKernel memState memState.cur.opened).isNone = true ∧ resolves memState form x.1 = true := by
  decide +kernel

def offsetTag (n : Nat) : Fields := { d := 10, a := 1, b := BitVec.ofNat 8 n }
set_option maxRecDepth 4000 in
theorem witness_MemoryIssue_vectorTags : (∀ x ∈ memoryCases.take 9, ∀ form ∈ ((vectorForms x.1 memState).drop x.2).take 1, form.tags) ∧
    (∀ form ∈ (vectorForms (offsetTag 5) memState).take 1, ¬ form.tags) ∧ issues (.vld (offsetTag 5)) (offsetTag 5) memState = true := by
  simp only [memoryCases, vectorForms, List.drop, List.take, List.mem_cons, List.not_mem_nil, or_false, forall_eq_or_imp, forall_eq, offsetFits, dataFits,
    fits, someFormat]
  and_intros <;> first | trivial | decide +kernel
theorem witness_MemoryIssue_scalarTags (f : Fields) (s : State) : ∀ form ∈ scalarForms f s, form.tags := by
  simp [scalarForms]

/-- A load through the base register `a` at the offset of s`n`: offsets 3, 12 and one beyond the window, and a base in no region. -/
theorem witness_MemoryChecks : let lane (a n : Nat) := ((memoryForms { d := 10, a := BitVec.ofNat 8 a, b := BitVec.ofNat 8 n } memState).drop 9).take 1
    (∀ a ∈ [1, 2, 3, 4], ∀ n ∈ [1, 4, 7], let f : Fields := { d := 10, a := BitVec.ofNat 8 a, b := BitVec.ofNat 8 n }
      issues (.sld f) f memState = true) ∧
    (base { a := 2 } memState).valid = false ∧ (base { a := 1 } memState).valid = true ∧
    (∀ form ∈ lane 1 7, form.m.lanes = [(0, 3)] ∧ (0x100 + 3) % form.m.align ≠ 0) ∧
    (∀ form ∈ lane 4 4, form.m.lanes.map (fun x => inWindow memState memState.cur.opened (base { a := 4 } memState) form.m.width x.2) = [false]) ∧
    (∀ form ∈ lane 3 1, form.m.lanes.map (fun x => (inWindow memState memState.cur.opened (base { a := 3 } memState) form.m.width x.2,
      (regionOf (0xF000000000000000 + x.2)).isNone)) = [(true, true)]) := by
  decide +kernel

/-! ### Line protocol -/

/-- The die boundaries UP. -/
def upLinks (s : State) : State :=
  (List.range 4).foldl (fun s b => (s.setLink (.boundary b true) { st := .up }).setLink (.boundary b false) { st := .up }) s

/-- `quiet` with an entry of line 8, every boundary UP. -/
def lineState (e : DirEntry) : State := upLinks (quiet.setHome (homeOf quiet 8) { dir := [e] })

def entry8 (tokens : Nat) (holders : List Nat) : DirEntry := { line := 8, way := 0, tokens, holders }

def copy8 (tokens : Nat) (dirty : Bool) : Copy := { line := 8, tokens, dirty, data := List.replicate 128 7 }

/-- An access of the placed group to the word at key 1028 under a policy. -/
def acc1 (kind : AccKind) (pol : Nat) (load : Bool) : Access :=
  { id := 1, th := .grp 0 0 0, core := 0, kind, width := 4, started := true, countLc := load, countSc := !load
    lanes := [{ lane := 3, ea := 0, key := 1028, pol, data := 0x01020304 }] }

def lane1 (pol : Nat) : LaneAcc := { lane := 3, ea := 0, key := 1028, pol, data := 0x01020304 }

def withAcc (s : State) (a : Access) : State := { s with accs := s.accs ++ [a] }
def withCopy (s : State) (c : Nat) (y : Copy) : State := putCopy s c y
def withService (s : State) (asks : Nat) : State := setService s 8 (some { line := 8, acc := 1, need := 512, asks })

def ldReq (pol : Nat) : State := withAcc (lineState (entry8 512 [])) (acc1 .load pol true)
def ldAsk : State := withAcc (withCopy (lineState (entry8 0 [5])) 5 (copy8 512 true)) (acc1 .load 1 true)
def stReq (pol : Nat) : State := withAcc (lineState (entry8 512 [])) (acc1 .store pol false)
def stAsk : State := withAcc (withCopy (lineState (entry8 500 [5])) 5 (copy8 12 true)) (acc1 .store 1 false)
def stFailed : Access := { acc1 .store 1 false with fails := 3 }
def tokenMsg : Msg := { id := 9, line := 8, core := 5, tokens := 412, data := some (List.replicate 128 3) }

theorem witness_LineTokens_requests :
    (oneLoad (ldReq 1) 1 8 1 (acc1 .load 1 true) (lane1 1) ∧ serviceOf (ldReq 1) 8 = none ∧ heldBack (ldReq 1) 8 0 = false ∧
      copy? (ldReq 1) 0 8 = none ∧ (entryOf (ldReq 1) 8).tokens = 512) ∧
    (oneLoad ldAsk 1 8 1 (acc1 .load 1 true) (lane1 1) ∧ serviceOf ldAsk 8 = none ∧ heldBack ldAsk 8 0 = false ∧
      copy? ldAsk 0 8 = none ∧ (entryOf ldAsk 8).tokens = 0 ∧ otherHolders ldAsk 8 0 ≠ []) ∧
    (laneIn stAsk 1 8 = some (acc1 .store 1 false, lane1 1) ∧ unhindered stAsk 0 8 ∧ serviceOf stAsk 8 = none ∧
      heldBack stAsk 8 0 = false ∧ (entryOf stAsk 8).tokens ≤ 512 ∧ 5 ∈ otherHolders stAsk 8 0) ∧
    (laneIn (ldReq 1) 1 8 = some (acc1 .load 1 true, lane1 1) ∧ tokensAt (ldReq 1) 0 8 < needOf (ldReq 1) (acc1 .load 1 true) (lane1 1)) ∧
    (laneIn (withAcc (lineState (entry8 512 [])) stFailed) 1 8 = some (stFailed, lane1 1) ∧ 3 ≤ stFailed.fails) := by
  simp only [oneLoad, unhindered]; and_intros <;> decide +kernel

theorem witness_LineTokens_answers :
    (serviceOf (withService ldAsk 2) 8 = some { line := 8, acc := 1, need := 512, asks := 2 } ∧
      (withService ldAsk 2).acc? 1 = some (acc1 .load 1 true) ∧
      ((withService ldAsk 2).home (homeOf (withService ldAsk 2) 8)).hasEntry 8 = true ∧
      copy? (withService ldAsk 2) 5 8 = some (copy8 512 true)) ∧
    (copy? ldAsk 5 8 = some (copy8 512 true) ∧ (ldAsk.home (homeOf ldAsk 8)).hasEntry 8 = true) ∧
    (let s : State := { lineState (entry8 100 [5]) with msgs := [tokenMsg] }
     s.msgs.find? (fun x => x.id == 9) = some tokenMsg ∧ (s.home (homeOf s 8)).hasEntry 8 = true ∧
      (entryOf s 8).persistent = none) := by decide +kernel

/-- A store of core 0 that has made a persistent request for line 8, core 5 holding 12 of its tokens. -/
def persistentState (active : Option Nat) : State :=
  let s := withAcc (withCopy (lineState { entry8 100 [5] with persistent := active }) 5 (copy8 12 true)) (acc1 .store 1 false)
  match active with
  | none => s
  | some c => s.setHome (homeOf s 8) { s.home (homeOf s 8) with persistents := [(c, 8, 1)] }

theorem witness_PersistentRequests :
    let s := persistentState none
    let s0 := persistentState (some 0)
    let s7 := persistentState (some 7)
    (laneIn s 1 8 = some (acc1 .store 1 false, lane1 1) ∧ unhindered s 0 8 ∧ (s.home (homeOf s 8)).persistents = [] ∧
      (entryOf s 8).persistent = none ∧ tokensAt s 0 8 + (entryOf s 8).tokens < needOf s (acc1 .store 1 false) (lane1 1) ∧
      s.agenda = []) ∧
    (laneIn s7 1 8 = some (acc1 .store 1 false, lane1 1) ∧ unhindered s7 0 8 ∧ (entryOf s7 8).persistent = some 7) ∧
    (laneIn s0 1 8 = some (acc1 .store 1 false, lane1 1) ∧ unhindered s0 0 8 ∧ (entryOf s0 8).persistent = some 0 ∧
      (s0.home (homeOf s0 8)).persistents = [(0, 8, 1)] ∧ copy? s0 5 8 = some (copy8 12 true) ∧
      tokensAt s0 0 8 + (entryOf s0 8).tokens + 12 < needOf s0 (acc1 .store 1 false) (lane1 1)) ∧
    ((s7.home (homeOf s7 8)).hasEntry 8 = true ∧ ∀ x ∈ (s7.home (homeOf s7 8)).persistents, x.2.1 = 8 → x.1 = 7) := by
  simp only [unhindered]; and_intros <;> decide +kernel

/-- A load of core 0 under a policy, core 5 holding all tokens of the line. -/
def ownedLoad (pol : Nat) : State := withAcc (withCopy (lineState (entry8 0 [5])) 5 (copy8 512 true)) (acc1 .load pol true)

/-- The state with core 0's timebase synchronised, so that sis is in force. -/
def synced (s : State) : State := s.setCore 0 { s.core 0 with gt := { sync := true } }

theorem witness_LoadsAtHome :
    (oneLoad (synced (ldReq 3)) 1 8 3 (acc1 .load 3 true) (lane1 3) ∧ serviceOf (synced (ldReq 3)) 8 = none ∧
      tokensAt (synced (ldReq 3)) 0 8 = 0 ∧ ownerOf (synced (ldReq 3)) 8 = none) ∧
    (oneLoad (synced (ownedLoad 3)) 1 8 3 (acc1 .load 3 true) (lane1 3) ∧ tokensAt (synced (ownedLoad 3)) 0 8 = 0 ∧
      ownerOf (synced (ownedLoad 3)) 8 = some 5 ∧ copy? (synced (ownedLoad 3)) 5 8 = some (copy8 512 true)) ∧
    (oneLoad (ldReq 2) 1 8 2 (acc1 .load 2 true) (lane1 2) ∧ serviceOf (ldReq 2) 8 = none ∧ ownerOf (ldReq 2) 8 = none) ∧
    (oneLoad (ownedLoad 2) 1 8 2 (acc1 .load 2 true) (lane1 2) ∧ ownerOf (ownedLoad 2) 8 = some 5 ∧
      copy? (ownedLoad 2) 5 8 = some (copy8 512 true)) := by
  simp only [oneLoad, unhindered]; and_intros <;> decide +kernel

def ownedStore (pol : Nat) : State := withAcc (withCopy (lineState (entry8 0 [5])) 5 (copy8 512 true)) (acc1 .store pol false)
def sharedStore (pol : Nat) : State := withAcc (withCopy (lineState (entry8 500 [5])) 5 (copy8 12 false)) (acc1 .store pol false)

theorem witness_StoresAtHome :
    (oneStore (sharedStore 2) 1 2 (acc1 .store 2 false) (lane1 2) ∧ serviceOf (sharedStore 2) 8 = none ∧
      ownerOf (sharedStore 2) 8 = none ∧
      ∀ c ∈ (entryOf (sharedStore 2) 8).targets, (copy? (sharedStore 2) c 8).all (fun y => !y.dirty && decide (y.tokens ≤ 512)) = true) ∧
    (oneStore (stReq 3) 1 3 (acc1 .store 3 false) (lane1 3) ∧ ownerOf (stReq 3) 8 = none ∧ (entryOf (stReq 3) 8).targets = []) ∧
    (oneStore (stReq 4) 1 4 (acc1 .store 4 false) (lane1 4) ∧ (entryOf (stReq 4) 8).tokens = 512 ∧
      (entryOf (stReq 4) 8).targets = [] ∧ copy? (stReq 4) 0 8 = none) ∧
    (oneStore (ownedStore 2) 1 2 (acc1 .store 2 false) (lane1 2) ∧ ownerOf (ownedStore 2) 8 = some 5 ∧
      copy? (ownedStore 2) 5 8 = some (copy8 512 true)) := by
  simp only [oneStore, unhindered, noneDown]; and_intros <;> decide +kernel

def redReq : State := withAcc (lineState (entry8 512 [])) (acc1 (.reduce 0) 2 false)
/-- `redReq` with the filter holding `ids`. -/
def redFilter (ids : List ReplayId) : State :=
  redReq.setHome (homeOf redReq 8) { redReq.home (homeOf redReq 8) with replay := ids }
def futAcc : Access := { acc1 .futLoad 2 true with width := 8, lanes := [{ lane1 2 with key := 1024 }] }
def futReq (word : Nat) (waiting : Nat) : State :=
  let s := withAcc (lineState (entry8 512 [])) futAcc
  let s1 : State := { s with mem := s.mem.writeNat 1024 8 word }
  s1.setHome (homeOf s1 8) { s1.home (homeOf s1 8) with deferred := List.replicate waiting { acc := 77, key := 1032, lanes := [] } }
def fillAcc : Access := { futAcc with id := 2, kind := .futFill, countLc := false, countSc := true }
def fillReq : State :=
  let s := withAcc (futReq 0 0) fillAcc
  s.setHome (homeOf s 8) { s.home (homeOf s 8) with deferred := [{ acc := 1, key := 1024, lanes := [3] }] }

theorem witness_ReductionsAndFutures_reductions :
    let a := acc1 (.reduce 0) 2 false
    let rid := replayIdOf a 3
    (laneTodo redReq 1 3 = some (a, lane1 2) ∧ unhindered redReq 0 8 ∧ serviceOf redReq 8 = none ∧ ownerOf redReq 8 = none ∧
      (entryOf redReq 8).targets = [] ∧ effectivePol redReq a (lane1 2) = 2 ∧ (redReq.home (homeOf redReq 8)).replay = []) ∧
    (laneTodo (redFilter [rid]) 1 3 = some (a, lane1 2) ∧
      ((redFilter [rid]).home (homeOf (redFilter [rid]) 8)).replay.contains rid = true) ∧
    (let s := redFilter (List.replicate 128 { core := 9, th := .grp 0 0 1, seq := 0 })
     laneTodo s 1 3 = some (a, lane1 2) ∧ (s.home (homeOf s 8)).replay.contains rid = false ∧
      128 ≤ (s.home (homeOf s 8)).replay.length) ∧
    laneTodo quiet 1 3 = none := by
  simp only [unhindered]; and_intros <;> decide +kernel

theorem witness_ReductionsAndFutures_futures :
    let l : LaneAcc := { lane1 2 with key := 1024 }
    (∀ x ∈ [futReq (5 + 2 ^ 32) 0, futReq 5 63, futReq 5 64], x.acc? 1 = some futAcc ∧ unhindered x 0 8 ∧ serviceOf x 8 = none ∧
      lineReachable x 0 1024 = true ∧ ∀ d ∈ (x.home (homeOf x 8)).deferred, d.acc ≠ 1) ∧
    futFull (readHome (futReq (5 + 2 ^ 32) 0) 1024 8) = true ∧ futFull (readHome (futReq 5 63) 1024 8) = false ∧
    ((futReq 5 63).home (homeOf (futReq 5 63) 8)).deferred.length < 64 ∧
    futFull (readHome (futReq 5 64) 1024 8) = false ∧ 64 ≤ ((futReq 5 64).home (homeOf (futReq 5 64) 8)).deferred.length ∧
    (laneTodo fillReq 2 3 = some (fillAcc, l) ∧ unhindered fillReq 0 8 ∧ serviceOf fillReq 8 = none ∧ ownerOf fillReq 8 = none ∧
      (entryOf fillReq 8).targets = [] ∧ (fillReq.home (homeOf fillReq 8)).deferred = [{ acc := 1, key := 1024, lanes := [3] }] ∧
      fillReq.acc? 1 = some futAcc) := by
  simp only [unhindered]; and_intros <;> decide +kernel

def loadDone (dest : Dest) : Access :=
  { acc1 .load 2 true with dest, lanes := [{ lane1 2 with done := true, value := 0x80 }] }
def doneState (a : Access) : State :=
  { quiet with accs := [a], cur := { placedGroup with lc := 1, sc := 1, pend := [{ reg := .v 9, tag := 1 }] } }

theorem witness_Completions :
    (∀ a ∈ [loadDone (.v 9 1), loadDone (.s 5 1), acc1 .store 2 false], (doneState a).acc? 1 = some a ∧
      (∀ b ∈ (doneState a).accs, b.th = .grp 0 0 0 → b.id = 1) ∧ (doneState a).thread? (.grp 0 0 0) = some (doneState a).cur) ∧
    (let th : Thread := { placedGroup with pend := [{ reg := .v 9, tag := 4, val := .v {} }] }
     State.thread? { quiet with cur := th } (.grp 0 0 0) = some th) := by decide +kernel

/-! ### Base registers, fences and engines -/

/-- `bset b1, x2` with x2 in each kind of place: 0xF000… is no region, 0x1000 global memory, 0x01… the scratchpad. -/
def fBase : Fields := { len := .w64, d := 1, a := 2 }
def atAddress (hi lo : Word) : State := withS quiet [0, 0, lo, hi]

def emptyRegroup : Regroup := { sets := [], freed := [], affected := [0] }
/-- A regroup event of die 0 affects core 0. -/
def regrouping (s : State) : State := s.setDie 0 { s.die 0 with regroup := some emptyRegroup }

/-- Tables whose one page is on the move. -/
def movingTables (s : State) : State :=
  { s with mem := (s.mem.writeNat 0 8 0x1001).writeNat 0x1000 8 (3 + 2 ^ 58 + 2 * 2 ^ 60 + 7 * 2 ^ 53) }

def fInv : Fields := { len := .w64, d := 1 }
def fAll : Fields := { len := .w64, fn := 1 }

theorem witness_BaseRegisters :
    let va (s : State) : Nat := ((src s).readX 2).toNat
    let nowhere := atAddress 0xF0000000 0
    let inTlb := mapped (atAddress 0 0x1000)
    let noTables := atAddress 0 0x1000
    let onMove := movingTables (atAddress 0 0x1000)
    let window := atAddress 0xFE000000 0
    let held := regrouping (atAddress 0xFD000000 0)
    (∀ s ∈ [nowhere, inTlb, noTables, onMove, window, held],
      Issues (.bset fBase) fBase s ∧ Issues (.binv fInv) fInv s ∧ Issues (.binvAll fAll) fAll s) ∧
    regionOf (va nowhere) = none ∧
    (regionOf (va inTlb) = some .global ∧ lookupFor inTlb inTlb.cur.opened (va inTlb) = (.ok placedLeaf, inTlb)) ∧
    (regionOf (va noTables) = some .global ∧
      lookupFor noTables noTables.cur.opened (va noTables) = (.error (.fault PAGE 0), noTables)) ∧
    (regionOf (va onMove) = some .global ∧ lookupFor onMove onMove.cur.opened (va onMove) = (.error (.moving 0x1000), onMove)) ∧
    (regionOf (va window) = some .scratch ∧ regroupHeld window 0 0 .scratch = false) ∧
    (regionOf (va held) = some .cluster ∧ regroupHeld held 0 0 .cluster = true) := by
  simp only [issues_iff]; and_intros <;> first | decide +kernel | rfl

def fFence (order scope : Nat) : Fields := { len := .w64, mo := BitVec.ofNat 4 order, ax := BitVec.ofNat 8 (8 * scope) }

theorem witness_Fences :
    (Issues (.fence (fFence 2 3)) (fFence 2 3) quiet ∧ regroupHeld quiet 0 3 .global = false ∧ acquires 2 = false) ∧
    (Issues (.fence (fFence 1 3)) (fFence 1 3) quiet ∧ acquires 1 = true) ∧
    (Issues (.fence (fFence 1 2)) (fFence 1 2) (regrouping quiet) ∧ regroupHeld (regrouping quiet) 0 2 .global = true) := by
  simp only [issues_iff]; and_intros <;> decide +kernel

/-- The placed group with b1 on its scratchpad, tiles 0 and 1 ACC, tiles 2 and 3 MACC. -/
def engineState : State :=
  let b : BaseReg := { valid := true, kind := .scratch, vbase := 0xFE00000000000000, limit := 65536 }
  { quiet with cur := { placedGroup with
      bases := lset placedGroup.bases 1 b, tiles := [(0, { tag := ACC }), (1, { tag := ACC }), (2, { tag := MACC }), (3, { tag := MACC })] } }

/-- Every engine form with its operands at offset s63 = 0 of b1, or with the operand that names no lane. -/
def engineCases : List (Fields × Nat) :=
  let cp : Fields := { len := .w128, d := 1, a := 63, b := 1, c := 63 }
  let mul : Fields := { len := .w128, a := 1, b := 63, c := 1, imm := 0x3F }
  let io : Fields := { len := .w128, a := 1, b := 63, ty := 10 }
  [({ cp with imm := 0x3F }, 0), ({ cp with imm := 0x3F013F }, 1), ({ cp with imm := 0x3FFE }, 2), (mul, 3),
   ({ mul with imm := 0xFE3F }, 4), ({ mul with d := 2 }, 5), ({ mul with d := 2 }, 6), ({ len := .w64, fn := 1, d := 2 }, 7),
   ({ io with d := 1 }, 8), ({ io with fn := 1, c := 2 }, 9)]

theorem witness_EngineIssue_ready : ∀ x ∈ engineCases, ∃ form ∈ ((engineForms x.1 engineState).drop x.2).take 1,
    issues form.i x.1 engineState = true ∧ passes (engineCheck (kernelOf engineState engineState.cur.opened) form.o) = true ∧
    regroupHeld engineState 0 form.scope .global = false ∧
    (∀ sp ∈ form.o.spans, sp.addr.base.valid = true ∧ regroupHeld engineState 0 0 sp.addr.base.kind = false) ∧
    ((engineState.core 0).engQ form.e).length < 8 := by decide +kernel

theorem witness_EngineIssue_tags : ∀ x ∈ engineCases, ∀ form ∈ ((engineForms x.1 engineState).drop x.2).take 1, form.tags := by
  simp only [engineCases, engineForms, List.drop, List.take, List.mem_cons, List.not_mem_nil, or_false, forall_eq_or_imp, forall_eq, fits]
  and_intros <;> first | trivial | decide +kernel

/-- A matrix queue with `n` operations, the first of them under way where `run` says so. -/
def queued (n : Nat) (run : Bool) : State :=
  engineState.setCore 0 { engineState.core 0 with matrixQ := (List.range n).map fun i =>
    { engOp .tzero with serial := i, th := .grp 0 0 0, running := run && i == 0 } }

theorem witness_EngineIssue_full : 8 ≤ (((queued 8 true).core 0).engQ .matrix).length := by decide +kernel

def sealFields : Fields := { len := .w64, d := 5 }
/-- The placed group with `n` incomplete carriages sealed before serial number `m`. -/
def sealedState (n : Nat) (c : Carriage) : State :=
  { quiet with cur := { placedGroup with
      sealed := ((List.range n).map fun i => { serial := 100 + i, nops := 1 }) ++ [c], preempt := true } }
def doneCarriage : Carriage := { serial := 7, tag := 3, nops := 2, finished := 2, fail := some (1, 13), token := some 5 }

theorem witness_Carriages :
    (Issues (.seal sealFields) sealFields (sealedState 15 doneCarriage) ∧
      ((sealedState 15 doneCarriage).cur.sealed.filter fun x => x.finished != x.nops).length < 16) ∧
    (Issues (.seal sealFields) sealFields (sealedState 16 doneCarriage) ∧
      16 ≤ ((sealedState 16 doneCarriage).cur.sealed.filter fun x => x.finished != x.nops).length) ∧
    ((sealedState 1 doneCarriage).thread? (.grp 0 0 0) = some (sealedState 1 doneCarriage).cur ∧
      (sealedState 1 doneCarriage).cur.sealed.find? (fun x => x.serial == 7 && x.finished == x.nops) = some doneCarriage) ∧
    (quiet.thread? (.grp 0 0 0) = some placedGroup ∧ placedGroup.preempt = false) := by
  simp only [issues_iff]; and_intros <;> decide +kernel

/-- A copy of one word from offset 0 to offset 64 of the scratchpad. -/
def copyOne : EngOpRec :=
  let b : BaseReg := { valid := true, kind := .scratch, vbase := 0xFE00000000000000, limit := 65536 }
  { engOp .cp with serial := 4, th := .grp 0 0 0, ext0 := 4, ext1 := 1, src := { base := b }, dst := { base := b, off := 64 } }
def copyState : State := engineState.setCore 0 { engineState.core 0 with copyQ := [copyOne] }

theorem witness_EngineStart :
    nextEngOp (queued 2 false) 0 .matrix = some { engOp .tzero with th := .grp 0 0 0 } ∧
    nextEngOp (queued 2 true) 0 .matrix = none ∧
    (nextEngOp copyState 0 .copy = some copyOne ∧ copyState.thread? copyOne.th = some copyState.cur) := by decide +kernel

theorem witness_EngineResults :
    (((queued 2 true).core 0).engQ .matrix).find? (fun x => x.running) = some { engOp .tzero with th := .grp 0 0 0, running := true } ∧
    (queued 2 true).thread? (.grp 0 0 0) = some (queued 2 true).cur ∧ (queued 2 true).cur.scr.wf = true ∧
    (queued 2 true).cur.carriage.serial = (engOp .tzero).carriage := by decide +kernel

/-! ### Scope, clusters and barriers -/

def clusterSlot : Slot := { inUse := true, part := 0, members := [0, 1], code := 0xABCDEF }
/-- Core 0 lies in the cluster of slot 3; kernel 0 of partition 0 has team 5 of members 0 and 7. -/
def team5 : Team := { num := 5, members := [0, 7], code := 0x123456 }
def scopeState : State :=
  let s := quiet.setSlot 3 clusterSlot
  s.setPart 0 { running := true, cores := 3, kernels := [(0, { teams := [team5] })] }
/-- `scopeState` with x2 holding a handle. -/
def withHandle (hi lo : Word) : State := withS scopeState [0, 3, lo, hi]
def liveHandle : State := withHandle 0x1003ABCD 0xEF000000
def staleHandle : State := withHandle 0x1003ABCD 0xEE000000
def badHandle : State := withHandle 0x70000000 0
def frozenAs (s : State) (l : List (Nat × Nat)) : State := withCur s fun th => { th with frozen := l }

def fGet (ax : Nat) (a : Nat) : Fields := { len := .w64, d := 8, a := BitVec.ofNat 8 a, ax := BitVec.ofNat 8 ax }
def fScq (ax : Nat) : Fields := { len := .w64, fn := 1, d := 12, a := 2, ax := BitVec.ofNat 8 ax }
def fScope (fn : Nat) : Fields := { len := .w64, fn := BitVec.ofNat 4 fn, d := 4, a := 2 }

theorem witness_ScopeHandles_issue :
    (∀ x ∈ [(0, 0), (1, 1), (2, 1), (3, 0)], issues (.scget (fGet x.1 x.2)) (fGet x.1 x.2) liveHandle = true) ∧
    (∀ s ∈ [liveHandle, staleHandle, badHandle, regrouping liveHandle], issues (.scq (fScq 0)) (fScq 0) s = true ∧
      issues (.scq (fScq 1)) (fScq 1) s = true ∧ issues (.scfrz (fScope 2)) (fScope 2) s = true ∧
      issues (.scthaw (fScope 3)) (fScope 3) s = true ∧ issues (.bsetClu (fScope 1)) (fScope 1) s = true) ∧
    scopeHeld liveHandle 0 true = false ∧ scopeHeld (regrouping liveHandle) 0 false = true := by
  and_intros <;> decide +kernel

theorem witness_ScopeHandles_cases :
    let h (s : State) : DWord := (src s).readX 2
    slotOfCore liveHandle 0 = some 3 ∧ slotOfCore quiet 0 = none ∧ teamCode scopeState scopeState.cur 5 = some 0x123456 ∧
    teamCode scopeState scopeState.cur 3 = none ∧ (liveHandle.slot 3).inUse = true ∧ (liveHandle.slot 4).inUse = false ∧
    (hMalformed (h liveHandle) = false ∧ handleState liveHandle liveHandle.cur.opened (h liveHandle) = .live) ∧
    (hMalformed (h staleHandle) = false ∧ handleState staleHandle staleHandle.cur.opened (h staleHandle) = .stale) ∧
    hMalformed (h badHandle) = true ∧
    (∀ l ∈ [[], [(3, 1)], [(3, 255)], [(4, 1), (5, 1), (6, 1), (7, 1), (8, 1), (9, 1), (10, 1), (11, 1)]],
      handleState (frozenAs liveHandle l) (frozenAs liveHandle l).cur.opened (h (frozenAs liveHandle l)) ≠ .stale) ∧
    frozenOnCore (frozenAs liveHandle [(4, 1), (5, 1), (6, 1), (7, 1), (8, 1), (9, 1), (10, 1), (11, 1)]) 0 = 8 := by
  and_intros <;> decide +kernel

def eventOf (sets : List RegroupSet) (freed : List Nat) (promoted : Bool) : Regroup :=
  { sets, freed, affected := [0, 1], promoted, endAt := 0 }
def eventState (r : Regroup) : State := scopeState.setDie 0 { scopeState.die 0 with regroup := some r }
def newSet : RegroupSet := { part := 0, slot := 4, members := [0, 1], fresh := true }

theorem witness_RegroupEvents :
    (∀ r ∈ [eventOf [newSet] [] false, eventOf [] [3] false, eventOf [newSet] [] true, eventOf [] [3] true],
      ((eventState r).die 0).regroup = some r ∧ writesOutstanding (eventState r) r.affected = false ∧
      r.endAt ≤ (eventState r).t) ∧ newSet.fresh = true ∧
    ((regrouping (stReq 2)).die 0).regroup = some emptyRegroup ∧ writesOutstanding (regrouping (stReq 2)) emptyRegroup.affected = true := by
  decide +kernel

/-- `scopeState` with team 5 in the given state, and the group waiting on its arrival. -/
def barrierState (t : Team) (run : RunState) : State :=
  let s := scopeState.setPart 0 { scopeState.part 0 with kernels := [(0, { teams := [t] })] }
  withCur s fun th => { th with run, arrivals := [{ team := 5, phase := 2 }] }
def arriving (n cnt : Nat) (wait : Bool) : RunState := .waiting (.barrierArrive n cnt 8 wait)
def kernel5 (t : Team) : Kernel := { teams := [t] }

theorem witness_BarrierEvents :
    (∀ t ∈ [team5, { team5 with st := .counting, e := 2, a := 1, arrived := [7] }, { team5 with st := .counting, e := 2, a := 1, arrived := [0] },
        { team5 with st := .releasing, waiting := [0] }, { team5 with members := [7] }],
      (barrierState t (arriving 5 0 true)).kernel? 0 0 = some (kernel5 t) ∧ (kernel5 t).team? 5 = some t ∧
      (barrierState t (arriving 5 0 true)).thread? (.grp 0 0 0) = some (barrierState t (arriving 5 0 true)).cur) ∧
    (kernel5 team5).team? 6 = none ∧ 0 ∈ team5.members ∧ team5.members.length < 3 ∧
    (barrierState team5 (arriving 5 0 true)).cur.run = .waiting (.barrierArrive 5 0 8 true) := by decide +kernel

def fBar (fn : Nat) : Fields := { len := .w64, fn := BitVec.ofNat 4 fn, b := if fn < 2 then 63 else 0, ax := 5 }
def fTmq (ax : Nat) : Fields :=
  { len := .w64, fn := 3, d := 4, a := if ax = 3 then 0 else 1, b := if ax = 2 then 63 else 0, ax := BitVec.ofNat 8 ax }

theorem witness_BarrierInstructions :
    let idle := barrierState { team5 with ph := 2 } .ready
    let later := barrierState { team5 with ph := 3 } .ready
    (∀ s ∈ [idle, later], s.cur.id = .grp 0 0 0 ∧ issues (.bar (fBar 0)) (fBar 0) s = true ∧
      issues (.barv (fBar 1)) (fBar 1) s = true ∧ issues (.barw (fBar 2)) (fBar 2) s = true ∧ quietThread s s.cur.id = true ∧
      s.cur.arrivals.find? (fun a => a.team == 5) = some { team := 5, phase := 2 }) ∧
    (kernelOf idle idle.cur.opened).team? 5 = some { team5 with ph := 2 } ∧
    (kernelOf later later.cur.opened).team? 5 = some { team5 with ph := 3 } ∧
    idle.kernel? 0 0 = some (kernelOf idle idle.cur.opened) ∧
    (issues (.bar (fBar 0)) (fBar 0) (stReq 2) = true ∧ quietThread (stReq 2) (.grp 0 0 0) = false) ∧
    (issues (.barw (fBar 2)) (fBar 2) quiet = true ∧ quiet.cur.arrivals = []) ∧
    (∀ ax ∈ [0, 1, 2, 3, 4], issues (.tmq (fTmq ax)) (fTmq ax) (withS idle [0, 5]) = true) ∧
    ((src (withS idle [0, 5])).srcS 1).toNat = 5 ∧ (kernelOf idle idle.cur.opened).team? 6 = none := by
  and_intros <;> decide +kernel

/-! ### Queues -/

def queue1 : Queue := { id := .table 1, part := 0, st := .active, code := 0xABCDEF }
def aCart : QCart := { words := [0x200, 1, 2, 3, 4, 5, 6, 7], since := 0 }
/-- Partition 0 has queues 0 to 3; queue 1 is `q`; x2 holds its handle with every right, s8 to s15 a cart of PRIO 2. -/
def queueState (q : Queue) : State :=
  let s := withS quiet [0, 0, 0xCDEF0001, 0x7AB, 0, 0, 0, 0, 0x200, 1, 2, 3, 4, 5, 6, 7]
  (s.setPart 0 { running := true, cores := 3, qnum := 4, kernels := [(0, { stages := [{ handle := 0x7ABCDEF0001, high := 1 }] })] }).setQueue q
/-- Another group, waiting for a cart of queue 1. -/
def popper : Thread := { placedGroup with id := .grp 0 0 1, run := .waiting (.cart (.table 1) 8) }
def awaited (q : Queue) : State := { queueState q with others := [popper] }

def fPush : Fields := { len := .w64, a := 2, c := 8 }
def fPop (ax : Nat) : Fields := { len := .w64, fn := 1, d := 16, a := if ax < 2 then 2 else 0, ax := BitVec.ofNat 8 ax }

theorem witness_QueuePush :
    let full := { queue1 with levels := [[], [], List.replicate 64 aCart, []] }
    (∀ q ∈ [queue1, full, { queue1 with st := .draining }, { queue1 with waiters := [(.grp 0 0 1, 8)] }],
      issues (.qpush fPush) fPush (awaited q) = true ∧ quietThread (awaited q) (.grp 0 0 0) = true ∧
      (findQueue (awaited q) 0 0x7ABCDEF0001 true matches .ok _) = true ∧ (awaited q).queue? (.table 1) = some q ∧
      popsHeld (awaited q) q = false) ∧
    ((src (queueState queue1)).readX 2 = 0x7ABCDEF0001 ∧ prioOf (cartAt (queueState queue1) 8) = 2) ∧
    (plainQueue (queueState full) full ∧ 2 ^ full.cap ≤ (full.level 2).length) ∧
    (findQueue (queueState { queue1 with code := 5 }) 0 0x7ABCDEF0001 true matches .error _) = true ∧
    (awaited queue1).thread? (.grp 0 0 1) = some popper ∧
    (issues (.qpush fPush) fPush (withAcc (queueState queue1) (acc1 .store 2 false)) = true ∧
      quietThread (withAcc (queueState queue1) (acc1 .store 2 false)) (.grp 0 0 0) = false) := by
  simp only [plainQueue, settledQueue]; and_intros <;> decide +kernel

theorem witness_QueuePop :
    let one := { queue1 with levels := [[aCart], [], [aCart], []] }
    let held := { queue1 with stream := true }
    (∀ q ∈ [queue1, one, held, { queue1 with st := .draining }], ∀ ax ∈ [0, 1, 2, 3, 4, 5],
      issues (.qpop (fPop ax)) (fPop ax) (queueState q) = true ∧ (queueState q).queue? (.table 1) = some q) ∧
    plainQueue (queueState one) one ∧ popsHeld (queueState one) one = false ∧ one.level 2 = [aCart] ∧ one.level 3 = [] ∧
    ((kernelOf (queueState queue1) placedGroup).stages.getD 0 {}).handle = 0x7ABCDEF0001 ∧
    ((kernelOf (queueState queue1) placedGroup).stages.getD 1 {}).handle = 0 ∧
    issues (.qpop (fPop 2)) (fPop 2) { State.reset with cur := { sysThread 0 with run := .ready } } = true := by
  simp only [plainQueue, settledQueue]; and_intros <;> decide +kernel

/-- A join record of COUNT n at key 1024, b1 global on its page, and the queue that it names. -/
def joinState (n : Nat) (q : Queue) : State :=
  let b : BaseReg := { valid := true, kind := .global, leaf := placedLeaf, limit := 65536 }
  let s := withCur (queueState q) fun th => { th with bases := lset th.bases 1 b }
  let s1 : State := { s with mem := (s.mem.writeNat 1024 4 n).writeNat 1032 8 0x7ABCDEF0001 }
  upLinks (s1.setHome (homeOf s1 8) { dir := [entry8 512 []] })
def fSpawn : Fields := { len := .w96, fn := 3, a := 1, c := 8, imm := 1024 }
def fJoin : Fields := { len := .w96, fn := 4, d := 4, a := 1, imm := 1024 }
def fDone : Fields := { len := .w64, fn := 2, a := 2 }
def fStat (ax : Nat) : Fields := { len := .w64, fn := 5, d := 4, a := 2, ax := BitVec.ofNat 8 ax }
def joinLane : LaneAcc := { lane := 0, ea := 1024, key := 1024, pol := 2 }

theorem witness_QueueOthers :
    (∀ s ∈ [joinState 0 queue1, joinState 1 queue1, joinState 2 queue1],
      issues (.qdone fDone) fDone s = true ∧ issues (.qspawn fSpawn) fSpawn s = true ∧ issues (.qjoin fJoin) fJoin s = true ∧
      (∀ ax ∈ [0, 1, 2, 3], issues (.qstat (fStat ax)) (fStat ax) s = true) ∧ quietThread s s.cur.id = true ∧ unhindered s 0 8 ∧
      ownerOf s 8 = none ∧ (entryOf s 8).targets = [] ∧ copy? s 0 8 = none ∧ s.cur.resv = none ∧ s.mem.wf = true) ∧
    (joinState 0 queue1).mem.readNat 1024 4 = 0 ∧ (joinState 1 queue1).mem.readNat 1024 4 = 1 ∧ (joinState 2 queue1).mem.readNat 1024 4 = 2 ∧
    (match resolve (joinState 1 queue1) (joinState 1 queue1).cur.opened (base fJoin (joinState 1 queue1))
        { perm := .store, width := 4, align := 64, writes := true } 2 true [(0, 1024)] with
      | .ok r => r.lanes == [joinLane] && r.page.isNone
      | .error _ => false) = true ∧
    (∀ q ∈ [queue1], findQueue (queueState q) 0 0x7ABCDEF0001 true matches .ok _) ∧
    (base fJoin (withCur (joinState 1 queue1) fun th => { th with bases := lset th.bases 1 { valid := true, kind := .slice } })).kind = .slice := by
  simp only [unhindered]; and_intros <;> decide +kernel

theorem witness_QueueOthers_stream :
    let q := { queue1 with stream := true, held := [(3, .grp 0 0 0)] }
    let s := withCur (queueState q) fun th => { th with stream := some (.table 1, 3) }
    issues (.qdone fDone) fDone s = true ∧ s.cur.stream = some (q.id, 3) ∧ s.queue? q.id = some q ∧ queue1.stream = false := by
  decide +kernel

def agedCart : QCart := { aCart with since := 0 }
def agedQueue : Queue := { queue1 with levels := [[agedCart], [], [], []] }
/-- Stage 0 is high, stage 1 low; groups 1 and 2 are subscribed to stage 1. -/
def governed : State :=
  let q0 := { queue1 with id := .table 0, code := 1, levels := [[aCart], [], [], []] }
  let k : Kernel := { stages := [{ handle := 0x70000010000, high := 1 }, { handle := 0x7ABCDEF0001, high := 9, low := 5 }] }
  let s := (queueState queue1).setQueue q0
  let s1 := s.setPart 0 { s.part 0 with kernels := [(0, k)] }
  { s1 with others := [{ popper with subscribed := true, pendingStage := 1 },
                       { popper with id := .grp 0 0 2, subscribed := true, pendingStage := 1 }] }

theorem witness_QueueCommands :
    (∀ st ∈ [QState.free, .active, .swapped, .draining, .destroyed],
      (queueState { queue1 with st }).queue? (.table 1) = some { queue1 with st }) ∧
    ((queueState queue1).part 0).qnum = 4 ∧ (unitActive (queueState queue1) 1).length < 1024 ∧
    (readQueueDesc (queueState { queue1 with st := .free }) 0 1 { queue1 with st := .free }).isNone = true ∧
    (let s := queueState { queue1 with st := .free }
     (readQueueDesc { s with mem := (s.mem.writeNat (64 + 8) 1 6).writeNat (64 + 9) 1 1 } 0 1 { queue1 with st := .free }).isSome = true) ∧
    ({ queueState agedQueue with t := 2 ^ 21 }.queue? agedQueue.id = some agedQueue ∧
      agedCart.since + 2 ^ 20 ≤ { queueState agedQueue with t := 2 ^ 21 }.mesh) ∧
    (stageOcc governed 0 { handle := 0x70000010000, high := 1 } = some 1 ∧
      stageOcc governed 0 { handle := 0x7ABCDEF0001, high := 9, low := 5 } = some 0 ∧ stageGroups governed 0 0 1 = [1, 2] ∧
      stageGroups governed 0 0 0 = []) := by
  and_intros <;> decide +kernel

/-! ### Kernels -/

/-- Partition 0 on cores 0 and 1 with a pool page; generic pages 0 to 2^30 on frame 0. -/
def kernelState (ks : Table Kernel) : State :=
  let s := quiet.setPart 0 { running := true, cores := 3, rsvpool := 2, kernels := ks }
  { s with mem := (s.mem.writeNat 0 8 0x1001).writeNat 0x1000 8 (3 + 2 * 2 ^ 60 + 7 * 2 ^ 53) }

/-- A descriptor at 0x2000: code at 0x3000, one parameter word at 0x2100, two groups of 96 lanes with 8 vector registers. -/
def launchState : State :=
  let s := withS (kernelState []) [0, 0, 0x2000, 0]
  { s with mem := (((((((s.mem.writeNat 0x2000 8 0x3000).writeNat 0x2008 8 0x2100).writeNat 0x2040 6 0x016000000002).writeNat 0x2056 1 1).writeNat
      0x2100 4 0x55).writeNat 0x3000 8 0x100014B5A4334).writeNat 0x3008 8 64).writeNat 0x3010 8 8 }

def fLaunch (a : Nat) : Fields := { len := .w64, d := 4, a := BitVec.ofNat 8 a }
def fDepart : Fields := { len := .w64, fn := 1, d := 4, a := 2, b := 4 }
/-- x2 holds the address given. -/
def launchAt (lo hi : Word) : State := withS launchState [0, 0, lo, hi]

theorem witness_Launching :
    (∀ s ∈ [launchState, launchAt 0x2001 0, launchAt 0 0xFF000000, launchAt 0x40000000 0],
      issues (.klaunch (fLaunch 2)) (fLaunch 2) s = true ∧ issues (.depart fDepart) fDepart s = true ∧ quietThread s s.cur.id = true) ∧
    issues (.klaunch (fLaunch 2)) (fLaunch 2) (withAcc launchState (acc1 .store 2 false)) = true ∧
    quietThread (withAcc launchState (acc1 .store 2 false)) (.grp 0 0 0) = false ∧
    regionOf 0xFF00000000000000 ≠ some .global ∧
    probeLaunch (launchAt 0x40000000 0) 0 0 0x40000000 = some (PAGE, 1, 0x40000000) ∧
    probeLaunch launchState 0 0 0x2000 = none := by decide +kernel

/-- The launch that the descriptor asks for, by KLDB or by the group, and the state in which the launch unit takes it. -/
def aLaunch (desc : DWord) (by_ : LaunchBy) : Launch := { desc, ctx := 0, time := none, by_ }
def theGroup : LaunchBy := .thread (.grp 0 1 0) (some 4)
/-- The launcher is a group of kernel 1. -/
def launching (r : Launch) : State :=
  let s := withCur launchState fun th => { th with id := .grp 0 1 0, run := .waiting (.launch (some 4)) }
  let x := s.part 0
  s.setPart 0 { x with kernels := [(1, {})], launches := [r] }
def takenFrom (s : State) : State := s.setPart 0 { s.part 0 with launches := [] }
def launchOf (r : Launch) : Except Nat (Nat × State) := launch (takenFrom (launching r)) 0 r
def departing (time : DWord) (on : Bool) : Launch := { aLaunch 0x2000 .kldb with time := if on then some time else none }

theorem witness_LaunchAnswers :
    (∀ by_ ∈ [LaunchBy.kldb, theGroup],
      ((launching (aLaunch 0x2000 by_)).part 0).launches = [aLaunch 0x2000 by_] ∧ ((launching (aLaunch 0x2000 by_)).part 0).newRole = none ∧
      (match launchOf (aLaunch 0x2000 by_) with
        | .ok (0, _) => true
        | _ => false) = true ∧
      (match launchOf (aLaunch 0x2008 by_), launchOf (aLaunch 0x40000000 by_) with
        | .error a, .error b => a == stBadDesc && b == stBadDesc
        | _, _ => false) = true) ∧
    (match launchOf (departing (2 ^ 60) true) with
      | .ok (0, s2) => !checkDue (2 ^ 60) ((s2.part 0).gt.now s2)
      | _ => false) = true ∧
    (∀ th ∈ (launching (aLaunch 0x2000 .kldb)).threads, ofKernel 0 0 th.id = false) ∧
    (launching (aLaunch 0x2000 theGroup)).cur.resv = none ∧
    (launching (aLaunch 0x2000 theGroup)).thread? (.grp 0 1 0) = some (launching (aLaunch 0x2000 theGroup)).cur := by
  and_intros <;> decide +kernel

/-- The kernel of the placed group, with a system core's thread beside it. -/
def endState (k : Kernel) (run : RunState) : State :=
  { withCur (kernelState [(0, k)]) fun th => { th with run } with others := [sysThread 0] }
/-- A kernel with its record at 0x10000, whose line has an entry at its home. -/
def recorded : Kernel := { desc := { done := 0x10000 } }
def recordState : State :=
  let s := endState recorded .retired
  s.setHome (homeOf s 512) { dir := [{ line := 512, way := 0 }] }
/-- The key that an address has. -/
def hasKey (r : Except Nat Nat) (key : Nat) : Bool :=
  match r with
  | .ok k => k == key
  | .error _ => false
def waitingKernel (awaiting : Bool) : Kernel := { depart := some 1000, awaiting, cores := [0] }

theorem witness_KernelEnds :
    (quiet.kernel? 0 0 = none) ∧
    (∀ k ∈ [{}, { killed := true, depart := some 1000 }], allRetired (endState k .retired) 0 0 = true ∧ k.staged = [] ∧
      (k.depart = none ∨ k.killed = true) ∧ k.desc.done = 0 ∧ (endState k .retired).kernel? 0 0 = some k) ∧
    (allRetired (endState {} .ready) 0 0 = false ∧ (∃ th ∈ (endState {} .ready).threads, ofKernel 0 0 th.id = false) ∧
      ((endState {} .ready).threads.map (·.id)).Nodup ∧ ∀ th ∈ (endState {} .ready).threads, th.stream = none) ∧
    (allRetired recordState 0 0 = true ∧ recordState.mem.wf = true ∧ recordState.msgs = [] ∧ ownerOf recordState 512 = none ∧
      (entryOf recordState 512).targets = [] ∧ (recordState.home (homeOf recordState 512)).hasEntry 512 = true ∧
      hasKey (hwKey (freeKernelState recordState 0 0) 0 0 {} 0x10000 .store) 0x10000 = true ∧
      hasKey (hwKey (freeKernelState recordState 0 0) 0 0 {} 0x10008 .store) 0x10008 = true ∧
      hasKey (hwKey (writeHome (freeKernelState recordState 0 0) 0x10000 (leBytes 8 ((recordState.part 0).gt.now recordState).toNat) none).1
        0 0 {} 0x10008 .store) 0x10008 = true) ∧
    (∀ a ∈ [true, false], (endState (waitingKernel a) .forming).kernel? 0 0 = some (waitingKernel a)) ∧
    ((endState (waitingKernel true) .forming).core 0).gt.sync = false ∧ ((synced (endState (waitingKernel true) .forming)).core 0).gt.sync = true ∧
    (let s := endState (waitingKernel false) .forming
     let late := s.setCore 0 { s.core 0 with gt := { value := 2000 } }
     ((s.core 0).gt.now s).ult 1000 = true ∧ ((late.core 0).gt.now late).ult 1000 = false) := by
  and_intros <;> decide +kernel

def detKernel : Kernel := { desc := { det := true, nb := 4 }, begun := [0, 1], owners := [(0, 0)] }
def blockState (k : Kernel) (b : Option Nat) (x : Nat) : State :=
  withCur (withS (kernelState [(0, k)]) [0, 0, 0, BitVec.ofNat 32 x]) fun th => { th with block := b }
def fBeg : Fields := { len := .w64, fn := 2, a := 3 }
def fEnd : Fields := { len := .w64, fn := 3 }

theorem witness_Blocks :
    (∀ k ∈ [{}, detKernel], ∀ b ∈ [none, some 0], ∀ x ∈ [1, 2, 4], issues (.dtbeg fBeg) fBeg (blockState k b x) = true ∧
      issues (.dtend fEnd) fEnd (blockState k b x) = true ∧ (blockState k b x).kernel? 0 0 = some k ∧
      (src (blockState k b x)).readS 3 = BitVec.ofNat 32 x) ∧
    detKernel.desc.nb = 4 ∧ (1 ∈ detKernel.begun) ∧ (2 ∉ detKernel.begun) ∧ detKernel.ct = 0 ∧ detKernel.closed = [] := by
  decide +kernel

def aStaged : Staged := { serial := 5, gid := 0, block := 0, pos := 0, iaddr := 64, kind := .store, ty := 3, width := 4, ea := 0x10004, data := 77 }
def ticketKernel (e : Staged) : Kernel := { detKernel with staged := [e] }
def ticketState (e : Staged) : State :=
  let s := upLinks (kernelState [(0, ticketKernel e)])
  s.setHome (homeOf s 512) { dir := [{ line := 512, way := 0 }] }
def stalledState (k : Kernel) (c : Cond) : State :=
  { withCur (kernelState [(0, k)]) fun th => { th with run := .waiting c } with others := [{ popper with run := .ready }] }

theorem witness_Tickets :
    (∀ e ∈ [aStaged, { aStaged with held := true }, { aStaged with ea := 0x40000000 }],
      (ticketState e).kernel? 0 0 = some (ticketKernel e) ∧ (ticketKernel e).staged.find? (fun e => e.block == 0) = some e ∧
      regionOf e.ea.toNat = some .global) ∧
    ((walk (ticketState aStaged) 0 0 0x10004 matches .ok { state := 0, we := true, re := true, .. }) = true ∧
      protectedByte (ticketState aStaged) 0x10004 = false ∧ unhindered (ticketState aStaged) 0 512 ∧
      ownerOf (ticketState aStaged) 512 = none ∧ (entryOf (ticketState aStaged) 512).targets = [] ∧
      copy? (ticketState aStaged) 0 512 = none ∧ ∀ x ∈ (ticketState aStaged).threads, x.resv = none) ∧
    (walk (movingTables (ticketState aStaged)) 0 0 0x10004 matches .ok { state := 1, .. }) = true ∧
    (walk (ticketState aStaged) 0 0 0x40000000 matches .error (.fault _ 1)) = true ∧
    (∀ o ∈ [[], [(0, 0)], [(0, 1)]], ∀ c ∈ [Cond.staging 0 1, .stagedValue 0 5 0],
      (stalledState { detKernel with owners := o } c).kernel? 0 0 = some { detKernel with owners := o } ∧
      (stalledState { detKernel with owners := o } c).thread? (.grp 0 0 1) = some { popper with run := .ready }) ∧
    (drainDone (stalledState detKernel .drain).cur = true ∧ drainDone { (stalledState detKernel .drain).cur with sc := 1 } = false) := by
  simp only [unhindered]; and_intros <;> decide +kernel
/-! ### System cores -/

/-- System core 0 in a mode with its registers from s0 on, beside one group of kernel 0 of partition 0 or the thread given. -/
def sysState (mode : Mode) (xs : List Word) (th : Thread) : State :=
  { kernelState [(0, {})] with
    cur := { sysThread 0 with run := .ready, regs := { s := xs ++ List.replicate (64 - xs.length) 0 } }
    others := [th], sys := [(0, { mode, sup := { pm := .user, epc := 64 }, hyp := { pm := .supervisor, epc := 128 } })] }

/-- A group with an outstanding trap of sequence number 0. -/
def trapped (object : TrapObject) (run left : RunState) : Thread :=
  { placedGroup with run, left, traps := [{ seq := 0, object }], u := 5 }
/-- s4 names the group's ticket. -/
def answering (th : Thread) : State := sysState .supervisor [] th
def fSysc (ax : Nat) : Fields := { len := .w64, a := 4, ax := BitVec.ofNat 8 ax }
def suspendedOp : EngOpRec := { serial := 9, th := .grp 0 0 0, op := .cp, carriage := 0, index := 0, suspended := true }
def engineTrap : State := let s := answering (trapped (.engineOp 9) .ready .ready); s.setCore 0 { s.core 0 with copyQ := [suspendedOp] }
def stagedTrap : State := (answering (trapped (.staged 5) .ready .ready)).setKernel 0 0 { ticketKernel { aStaged with held := true } with ct := 0 }

theorem witness_TrapAnswers :
    (∀ s ∈ [answering { placedGroup with id := .grp 0 0 1 }, answering placedGroup, answering (trapped .group (.waiting .trap) .ready),
        answering (trapped .parked .parked .ready), answering (trapped .group .saved (.waiting .trap)), answering (trapped .group .ready .ready),
        engineTrap, answering (trapped (.engineOp 9) .ready .ready), stagedTrap, answering (trapped (.staged 5) .ready .ready)],
      issues (.syscResume (fSysc 0)) (fSysc 0) s = true ∧ issues (.syscSkip (fSysc 1)) (fSysc 1) s = true ∧
      issues (.syscAbandon (fSysc 2)) (fSysc 2) s = true ∧ s.cur.run ≠ .retired ∧ (src s).srcS 4 = 0 ∧ partOf s s.cur.id = 0 ∧
      ∀ q ∈ s.queues, ∀ w ∈ q.waiters, w.1 ≠ s.cur.id) ∧
    (engOpsOf engineTrap (trapped (.engineOp 9) .ready .ready)).find? (fun o => o.serial == 9 && o.suspended) = some suspendedOp ∧
    (ticketKernel { aStaged with held := true }).staged.find? (fun e => e.serial == 5 && e.held) = some { aStaged with held := true } := by
  and_intros <;> decide +kernel

theorem witness_CallAndReturn :
    (∀ m ∈ [Mode.user, .supervisor, .hypervisor], issues (.syscCall (fSysc 9)) { fSysc 9 with a := 0 } (sysState m [] placedGroup) = false) ∧
    (let f : Fields := { len := .w64, ax := 9 }
     (∀ m ∈ [Mode.user, .supervisor, .hypervisor], issues (.syscCall f) f (sysState m [] placedGroup) = true) ∧ issues (.syscCall f) f quiet = true) ∧
    (let f : Fields := { len := .w64 }
     ∀ m ∈ [Mode.supervisor, .hypervisor], issues (.eret f) f (sysState m [] placedGroup) = true) ∧
    (let s := (sysState .supervisor [] placedGroup).setSysCore 0 { mode := .supervisor, sup := { pm := .hypervisor } }
     let f : Fields := { len := .w64 }
     issues (.eret f) f s = true ∧ (s.sysCore 0).sup.pm = .hypervisor) := by
  and_intros <;> decide +kernel

def fRead (num fn : Nat) : Fields := { len := .w64, fn := BitVec.ofNat 4 fn, d := 4, ax := BitVec.ofNat 8 num }
def fWrite (num fn : Nat) : Fields := { len := .w64, fn := BitVec.ofNat 4 fn, a := 2, ax := BitVec.ofNat 8 num }
def privNumbers : List Nat := (List.range 256).filter privKnown
/-- x2 holds what is written. -/
def writing (mode : Mode) (lo hi : Word) : State := sysState mode [0, 0, lo, hi] placedGroup

theorem witness_PrivilegedRegisters :
    privNumbers.length = 31 ∧ privNumbers = (privateRegs quiet 0 0).map (·.1) ∧
    (∀ m ∈ [Mode.supervisor, .hypervisor], ∀ n ∈ privNumbers, issues (.srdp (fRead n 0)) (fRead n 0) (writing m 1 2) = true ∧
      issues (.swrp (fWrite n 0)) (fWrite n 0) (writing m 1 2) = true) ∧
    issues (.srdp (fRead 0x30 1)) (fRead 0x30 1) (writing .supervisor 0 0) = true ∧
    ((writing .hypervisor 5 0).part 0).reg.bankrole ≠ 5 ∧ ((writing .hypervisor 5 0).part 0).newRole = none ∧
    (∀ cmd ∈ [0x000, 0x100, 0x200, 0x300], issues (.swrp (fWrite 0x38 0)) (fWrite 0x38 0) (writing .hypervisor (BitVec.ofNat 32 cmd) 0) = true) ∧
    (∃ t, exec (.miggoMove 0 1) (writing .supervisor 1 0) = .next t ∧ t.cur.id = (writing .supervisor 1 0).cur.id) := by
  and_intros <;> first | decide +kernel | exact ⟨_, rfl, by decide +kernel⟩

/-- Core 0 holds the translation of page 0 in context 0 and another in context 1; the group has b1 from the first. -/
def translated (run : RunState) : State :=
  let th := { placedGroup with run, bases := lset placedGroup.bases 1 { valid := true, leaf := placedLeaf, limit := 4096 } }
  let s := sysState .supervisor [] th
  s.setCore 0 { s.core 0 with tlb := [{ ctxid := 0, leaf := placedLeaf }, { ctxid := 1, leaf := placedLeaf }] }
def fTlb (fn a b : Nat) : Fields := { len := .w64, fn := BitVec.ofNat 4 fn, a := BitVec.ofNat 8 a, b := BitVec.ofNat 8 b }
/-- The same with a load of the group's in flight through the page. -/
def translatedBusy : State := withAcc (translated .ready) (acc1 .load 2 true)

theorem witness_Translations :
    (∀ s ∈ [translated .ready, translated .saved, translatedBusy, withAcc (translated .ready) { acc1 .store 2 false with th := .sys 0 }],
      issues (.tlbiVa (fTlb 0 2 4)) (fTlb 0 2 4) s = true ∧ issues (.tlbiCtx (fTlb 1 0 4)) (fTlb 1 0 4) s = true ∧
      issues (.tlbiAll (fTlb 2 0 0)) (fTlb 2 0 0) s = true ∧ s.cur.run ≠ .saved) ∧
    quietThread (translated .ready) (.sys 0) = true ∧
    accessesThrough (translated .ready) 0 (removedLeaves (translated .ready) 0 (fun id => id == 0) fun _ => true) = [] ∧
    accessesThrough translatedBusy 0 (removedLeaves translatedBusy 0 (fun id => id == 0) fun _ => true) = [1] ∧
    inContext (translated .ready) 0 (fun id => id == 0) { placedGroup with run := .ready } = true := by decide +kernel

def fSave : Fields := { len := .w64, d := 6, a := 4 }
def fRestore : Fields := { len := .w64, d := 6, a := 4, b := 5 }
/-- The group in a state, its core's stores empty; s5 names core 1. -/
def savedState (run left : RunState) : State := sysState .supervisor [0, 0, 0, 0, 0, 1] { placedGroup with run, left, nTiles := 2 }

theorem witness_SaveAndRestore :
    (∀ r ∈ [RunState.ready, .saved, .retired, .parked], ∀ l ∈ [RunState.ready, .parked, .waiting .trap],
      issues (.ctxs fSave) fSave (savedState r l) = true ∧ issues (.ctxr fRestore) fRestore (savedState r l) = true ∧
      (savedState r l).thread? (.grp 0 0 0) = some { placedGroup with run := r, left := l, nTiles := 2 } ∧
      restoreFits (savedState r l) 0 {} { placedGroup with run := r, left := l, nTiles := 2 } 1 = true ∧
      restoreFits (savedState r l) 0 {} { placedGroup with run := r, left := l, nTiles := 2 } 2 = false) ∧
    ((savedState .saved .ready).part 0).newRole = none ∧ (savedState .saved .ready).kernel? 0 0 = some {} ∧
    (sysState .supervisor [] popper).thread? (.grp 0 0 0) = none ∧
    ((savedState .saved .ready).cur.carts = [] ∧ (savedState .saved .ready).cur.preempt = false) := by
  and_intros <;> decide +kernel

def fIdle (a b : Nat) : Fields := { len := .w64, d := 6, a := BitVec.ofNat 8 a, b := BitVec.ofNat 8 b }
/-- x2 holds the handle of queue 1, x4 the time 1000. -/
def idleState (q : Queue) (now : DWord) : State :=
  let s := { queueState q with cur := { (sysState .supervisor [0, 0, 0xCDEF0001, 0x7AB, 1000, 0] placedGroup).cur with id := .sys 0 } }
  { s.setCore 384 { s.core 384 with gt := { value := now } } with sys := [(0, { mode := .supervisor })] }
def idling (now : DWord) (run : RunState) : State :=
  let s := idleState queue1 now
  { s with cur := { s.cur with run } }

theorem witness_Idle :
    (∀ q ∈ [queue1, { queue1 with levels := [[aCart], [], [], []] }, { queue1 with code := 5 }], ∀ now ∈ [500, 2000],
      ∀ a ∈ [2, 8], ∀ b ∈ [4, 8],
      let s := idleState q (BitVec.ofNat 64 now)
      issues (.idle (fIdle a b)) (fIdle a b) s = true ∧ (src s).readX 4 = 1000 ∧ (src s).readX 8 = 0 ∧
      (((s.core 384).gt.now s).ult 1000 = decide (now = 500))) ∧
    (findQueue (idleState queue1 0) 0 0x7ABCDEF0001 true matches .ok _) = true ∧ (src (idleState queue1 0)).readX 2 = 0x7ABCDEF0001 ∧
    (findQueue (idleState { queue1 with code := 5 } 0) 0 0x7ABCDEF0001 true matches .error _) = true ∧
    (∀ now ∈ [500, 2000], let s := idling (BitVec.ofNat 64 now) (.waiting (.idle none (some 1000) (some 6)))
      s.thread? (.sys 0) = some s.cur ∧ ((s.core s.cur.core).gt.now s).ult 1000 = decide (now = 500)) := by
  and_intros <;> decide +kernel

def slept (w : Nat) : State := withCur quiet fun th => { th with run := .waiting (.sleep w) }
def preempted (run : RunState) : State := withCur quiet fun th => { th with preempt := true, run }

theorem witness_ThreadEvents :
    ((slept 0).thread? (.grp 0 0 0) = some (slept 0).cur ∧ (slept 7).thread? (.grp 0 0 0) = some (slept 7).cur ∧ (slept 0).t = 0) ∧
    (let s := withCur quiet fun th => { th with carts := [([1, 2, 3, 4, 5, 6, 7, 8], 0)] }
     s.thread? s.cur.id = some s.cur) ∧
    (∀ r ∈ [RunState.ready, .parked, .waiting .drain], quietThread (preempted r) (.grp 0 0 0) = true ∧
      engOpsOf (preempted r) (preempted r).cur = [] ∧ (preempted r).cur.moveTo = none ∧ (preempted r).cur.lc = 0 ∧
      (preempted r).cur.sc = 0 ∧ (preempted r).cur.chain = none ∧ (preempted r).cur.preempt = true) ∧
    quiet.cur.preempt = false := by
  and_intros <;> decide +kernel
/-! ### Partitions and housekeeping -/

/-- Every byte lies at home, as a test. -/
def homeTest (s : State) : Bool := s.msgs.isEmpty && s.cores.all fun e => e.2.copies.isEmpty

theorem allHome_of_homeTest (s : State) (h : homeTest s = true) : allHome s := by
  have key : ∀ (l : Table Core) (c : Nat), l.all (fun e => e.2.copies.isEmpty) = true → (tget {} c l).copies = [] := by
    intro l c
    induction l with
    | nil => intro _; rfl
    | cons e l ih =>
      intro h
      simp only [List.all_cons, Bool.and_eq_true] at h
      unfold tget
      split
      · simpa using h.1
      · exact ih h.2
  simp only [homeTest, Bool.and_eq_true] at h
  exact ⟨by simpa using h.1, fun c => key _ c h.2⟩

def roleState (role : Option (DWord × Option ThreadId × List ThreadId)) (run : RunState) : State :=
  let s := sysState .hypervisor [] { placedGroup with run }
  let s1 := s.setPart 0 { s.part 0 with newRole := role }
  { s1 with cur := { s1.cur with run := .waiting .bankrole } }
def poppedQueue : Queue := { queue1 with levels := [[], [], [aCart], []], waiters := [(.grp 0 0 1, 8)] }

theorem witness_PartitionRegisters :
    ((roleState none .ready).part 0).newRole = none ∧ ((roleState none .ready).part 0).reg.bankrole ≠ 5 ∧
    (∀ r ∈ [RunState.ready, .saved], let s := roleState (some (5, some (.sys 0), [.grp 0 0 0])) r
      (s.part 0).newRole = some (5, some (.sys 0), [.grp 0 0 0]) ∧ s.thread? (.grp 0 0 0) = some { placedGroup with run := r } ∧
      s.thread? (.sys 0) = some s.cur ∧ s.cur.run = .waiting .bankrole ∧ s.cur.resv = none) ∧
    (∀ q ∈ (queueState queue1).queues, q.part = 0 → q.waiters = [] ∧ q.st ≠ .draining) ∧
    ((awaited poppedQueue).queues = [poppedQueue] ∧ settledQueue (awaited poppedQueue) poppedQueue ∧
      (awaited poppedQueue).thread? (.grp 0 0 1) = some popper) := by
  simp only [settledQueue]; and_intros <;> decide +kernel

/-- A descriptor at 0x4000: cores 0 and 1, one context, four queues. -/
def descState (nctx : Nat) : State :=
  let s := { sysState .hypervisor [] placedGroup with parts := [] }
  { s with mem := (((s.mem.writeNat 0x4000 1 3).writeNat 0x4372 2 4).writeNat 0x4379 1 nctx).writeNat 0x4388 8 0x100000 }
def bytesAt (s : State) (d n : Nat) : List Byte := (List.range n).map fun i => BitVec.ofNat 8 (readHome s (d + i) 1)

theorem witness_PartitionCommands :
    ((descState 1).part 3).running = false ∧ ((queueState queue1).part 0).running = true ∧ ((queueState queue1).slots.map (·.1)).Nodup ∧
    badPart (bytesAt (descState 1) 0x4000 1024) (partOfDesc (bytesAt (descState 1) 0x4000 1024)) = false ∧
    badPart (bytesAt (descState 0) 0x4000 1024) (partOfDesc (bytesAt (descState 0) 0x4000 1024)) = true ∧
    (∀ e ∈ (descState 1).parts, conflicts (partOfDesc (bytesAt (descState 1) 0x4000 1024)) e.2 = false) ∧
    (let s := (descState 1).setPart 5 { running := true, cores := 2 }
     ∃ e ∈ s.parts, conflicts (partOfDesc (bytesAt s 0x4000 1024)) e.2 = true) ∧
    ((descState 1).sysCore 0).psel.toNat = 0 ∧ (descState 1).thread? (.sys 0) = some (descState 1).cur := by
  and_intros <;> decide +kernel

def clocks : State :=
  let s := queueState queue1
  let s1 := s.setCore 0 { s.core 0 with lclk := 0x8FFF, copies := [copy8 512 true, { copy8 0 false with line := 9 }] }
  let s2 := (s1.setCore 1 { s1.core 1 with lclk := 0x4000 }).setPart 0 { s1.part 0 with plt := 0x8000 }
  (s2.setHome 0 { nw := 0x7000 }).setHome 1 { nw := 0x7000 }

/-- The latest clock is that of core 0; the clocks that lag are pulled up. -/
def spreadClocks : State :=
  let s := queueState queue1
  let s1 := s.setCore 0 { s.core 0 with lclk := 0x5000 }
  ((s1.setPart 0 { s1.part 0 with plt := 0x4FFF }).setHome 0 { nw := 0x3000 }).setHome 1 { nw := 0x2000 }

theorem witness_LogicalClocks :
    (((spreadClocks.part 0).plt - 0).toNat < 2 ^ 15 ∧
      (∀ c ∈ coresOf spreadClocks 0, ((spreadClocks.core c).lclk - 0).toNat < 2 ^ 15) ∧
      (∀ h ∈ homesOf spreadClocks 0, ((spreadClocks.home h).nw - 0).toNat < 2 ^ 15) ∧ 0 ∈ coresOf spreadClocks 0 ∧
      384 ∈ coresOf spreadClocks 0 ∧ 95 ∈ homesOf spreadClocks 0) ∧
    ((clocks.core 0).copies.map (·.line)).Nodup ∧ partOfCore clocks 0 = some 0 ∧ partOfCore clocks 9 = none ∧
    ((clocks.part 0).plt - (clocks.core 1).lclk).toNat < 2 ^ 15 := by
  and_intros <;> decide +kernel

/-- Kernel tables with a leaf of 64 KiB at 0x12000, on frame 0x20000 of HBM. -/
def pageState (state : Nat) (x : Partition) : State :=
  let s := quiet.setPart 0 { x with running := true, cores := 3, reg := { x.reg with migpte := 0x12000 } }
  let tables := ((s.mem.writeNat 0 8 0x10001).writeNat 0x10000 8 0x11001).writeNat 0x11000 8 0x12001
  { s with mem := tables.writeNat 0x12000 8 (3 + 0x20000 + 7 * 2 ^ 53 + state * 2 ^ 58 + 2 * 2 ^ 60) }
def toTier2 : DWord := 0x0100010000000000
def aMove : Move := { pte := 0x12000, level := 3, oldFrame := 0x20000, loc := 1, frame := 2 ^ 40, pin := false }
def counted (n : Nat) : Partition := { thrash := [{ leaf := 0x12000, w0 := 0, n }] }

theorem witness_PageMoves :
    (∀ n ∈ [0, 4], homeTest (pageState 0 (counted n)) = true) ∧
    (∀ st ∈ [0, 2], leafLevel (pageState st { }) 0 0x12000 = some 3 ∧ (readHome (pageState st { }) 0x12000 8) / 2 ^ 58 % 4 = st) ∧
    leafLevel (pageState 0 { nctx := 0 }) 0 0x15000 = none ∧
    (let e := readHome (pageState 0 {}) 0x12000 8
     let l := leafOf e 0x12000 3 0
     leafMalformed ((pageState 0 {}).part 0) e 3 l = false ∧ l.loc = 0 ∧ l.frame = 0x20000 ∧ inTier 1 (2 ^ 40) (2 ^ 16) = true ∧
     (toTier2.extractLsb' 56 2).toNat = 1 ∧ (toTier2.extractLsb' 16 36).toNat * 2 ^ 16 = 2 ^ 40) ∧
    (match thrashCount (counted 0) 0 0x12000, thrashCount (counted 4) 0 0x12000 with
      | some (_, a), some (_, b) => !a && b
      | _, _ => false) = true ∧
    (thrashCount { thrash := List.replicate 1024 { leaf := 8, w0 := 0, n := 0, pinEnd := some 9 } } 0 0x12000).isNone = true ∧
    (moveReady (pageState 1 { move := some aMove }) aMove = true ∧
      moveReady (withAcc (pageState 1 { }) { acc1 .load 2 true with lanes := [{ lane1 2 with key := 0x20004 }] }) aMove = false ∧
      homeTest (pageState 1 { move := some aMove }) = true ∧ (pageState 1 { move := some aMove }).mem.wf = true) := by
  and_intros <;> decide +kernel

theorem witness_Sensors :
    ((quiet.part 0).running = false) ∧ ((kernelState []).part 0).running = true ∧ homeTest (kernelState []) = true ∧ (kernelState []).mem.wf = true ∧
    partOfCore quiet 5 = none := by
  and_intros <;> decide +kernel

/-- One group on core 0 of cores 0 to 2, resident since the start, at a time past MINRES. -/
def hotState (last : Option Nat) : State :=
  let s := (kernelState [(0, {})]).setPart 0 { (kernelState [(0, {})]).part 0 with cores := 7 }
  let s1 := s.setCore 0 { s.core 0 with lastMigration := last }
  let s2 := s1.setCore 1 { s1.core 1 with temp := 900 }
  { s2.setCore 2 { s2.core 2 with temp := 800 } with t := 1000000, cur := { placedGroup with nTiles := 2 } }
def hotAlarm (last : Option Nat) : State := (hotState last).setCore 0 { (hotState last).core 0 with temp := 1520, alarm := true }

theorem witness_ThermalMigration :
    (∀ l ∈ [none, some 0, some 900000], let s := hotState l
      partOfCore s 0 = some 0 ∧ s.kernel? 0 0 = some {} ∧ s.cur = { placedGroup with nTiles := 2 } ∧ (∀ x ∈ s.others, x.core ≠ 0) ∧ (s.threads.map (·.id)).Nodup ∧ (s.core 1).alarm = false ∧
      (s.core 2).alarm = false ∧ bitMembers (s.part 0).cores 384 = [0, 1, 2] ∧ (s.part 0).reg.minres.toNat * 2500 = 500000 ∧
      restoreFits (hotAlarm l) 0 {} { placedGroup with nTiles := 2 } 1 = true ∧
      restoreFits (hotAlarm l) 0 {} { placedGroup with nTiles := 2 } 2 = true ∧ (s.core 2).temp < (s.core 1).temp) := by
  decide +kernel
/-! ### Links, ports, time and host -/

def edge : LinkId := .boundary 3 true
def pairOf : LinkId := .coupling 5 true
/-- Both directions of a link in a state, with three flits held. -/
def linkState (l : LinkId) (st : LinkState) (fails naks : Nat) : State :=
  let x : Link := { st, expect := 4, nextSeq := 10, buf := [(7, 1), (8, 2), (9, 3)], fails, naks, nakSeq := some 8 }
  (quiet.setLink l x).setLink (reverse l) x
/-- A flit of the fields given, its CRC set, or one bit of it wrong. -/
def flitOf (seq ack type pay : Nat) (bad : Bool) : BitVec 256 :=
  let y : BitVec 256 := BitVec.ofNat 256 (seq + ack * 2 ^ 8 + type * 2 ^ 16 + pay * 2 ^ 20)
  y ||| BitVec.ofNat 256 (((flitCrc y).toNat ^^^ (if bad then 1 else 0)) * 2 ^ 240)

set_option maxRecDepth 20000 in
theorem witness_Flits :
    (∀ f ∈ [(4, 20, 1), (4, 8, 0), (4, 20, 0), (8, 20, 2)], let x := flitOf f.1 f.2.1 f.2.2 99 false
      flitCrc x = x.extractLsb' 240 16 ∧ (x.extractLsb' 0 8).toNat = f.1 ∧ (x.extractLsb' 8 8).toNat = f.2.1 ∧
      (x.extractLsb' 16 4).toNat = f.2.2) ∧
    (let x := flitOf 4 8 1 99 true
     ¬ flitCrc x = x.extractLsb' 240 16) ∧
    (let s := linkState edge .up 0 0
     (s.link edge).st = .up ∧ (s.link edge).expect = 4 ∧ (s.link (reverse edge)).buf.any (fun e => e.1 == 8) = true ∧
      ¬ (s.link (reverse edge)).buf.any (fun e => e.1 == 20) = true) ∧
    (let r := (linkState edge .up 0 7).link edge
     r.nakSeq = some 8 ∧ 8 ≤ r.naks + 1 ∧ r.buf ≠ [] ∧ r.lastAck + 10000 ≤ 10000 ∧ r.nakOut = false) := by
  decide +kernel

theorem witness_LinkStates :
    (∀ l ∈ [edge, pairOf], ∀ st ∈ [LinkState.disabled, .training, .up, .retrain, .down],
      ((linkState l st 0 0).link l).st = st ∧ ((linkState l st 0 0).link l).since + 2500000 ≤ 2500000) ∧
    (∀ n ∈ [1, 2], ((linkState edge .retrain n 0).link edge).fails = n) := by
  decide +kernel

/-- Partition 0 holds port halves 0 to 3 and its tables lie at 0x100000; half 2 is `x`, and queue 1 is `q`. -/
def portState (q : Queue) (x : Port) : State :=
  let s := queueState q
  (s.setPart 0 { s.part 0 with ports := 15, reg := { (s.part 0).reg with qtab := 0x100000 } }).setPort 2 x
def receiver : Port := { up := true, ctl := 1 }
def aFrame : List Byte := [1, 2, 3, 4, 5, 6, 7, 8]
/-- `portState` with tables at 0 and rule 3 of half 2: first bytes 1, 2; queue 1, slots of 2 KiB from 0x2000. -/
def ruledState (valid : Nat) : State :=
  let s := portState queue1 receiver
  let a := 0x500000 + 0x1000 + 4096 * 2 + 64 * 3
  let tables := (s.mem.writeNat 0 8 0x1001).writeNat 0x1000 8 (3 + 2 * 2 ^ 60 + 7 * 2 ^ 53)
  let rule := ((tables.writeNat a 8 0x0201).writeNat (a + 8) 8 0xFFFF).writeNat (a + 16) 8 (valid * 2 ^ 15 + 4 * 2 ^ 16)
  { s with mem := rule.writeNat (a + 24) 22 (0x7ABCDEF0001 + 0x2000 * 2 ^ 64 + (11 + 4 * 2 ^ 8 + 0x25 * 2 ^ 16) * 2 ^ 128) }

theorem witness_PortHalves :
    partOfHalf quiet 2 = none ∧ partOfHalf (portState queue1 receiver) 2 = some 0 ∧ tableAligned (portState queue1 receiver) 0 ∧
    homeTest (ruledState 1) = true ∧ (ruledState 1).mem.wf = true ∧ receives (ruledState 1) 0 2 ∧
    (ruleFor (ruledState 0) 0 2 aFrame).isNone = true ∧
    (let s := ruledState 1
     let s1 := paWrite s (recordOf s 0 2 + 16) 8 1
     s.mem.readNat (recordOf s 0 2 + 16) 8 = 0 ∧ (ruleFor s1 0 2 aFrame).map (·.1) = some 3 ∧
      (match ruleFor s1 0 2 aFrame with
        | some (_, r) =>
          let s2 := s1.setPort 2 { receiver with slots := [(3, 1)] }
          match hwWriteList s2 0 0 {} r.pool 1 (aFrame.map (·.toNat)) with
          | .ok s3 => (match findQueue s3 0 r.queue (r.queue.getLsbD 40) with
            | .ok q => q == queue1
            | .error _ => false)
          | .error _ => false
        | none => false) = true) ∧
    settledQueue (ruledState 1) queue1 ∧ (queue1.level 2).length < 2 ^ queue1.cap := by
  simp only [tableAligned, receives, settledQueue]; and_intros <;> decide +kernel

def sender : Port := { receiver with egq := 0x7ABCDEF0001 }
def full : Queue := { queue1 with levels := [[], [], [aCart], []] }
def sending (len at_ : Nat) : State :=
  portState queue1 { sender with tx := some [1, 2, 3, BitVec.ofNat 32 len, BitVec.ofNat 32 at_, 0, 1, 0] }

theorem witness_Egress :
    (∀ q ∈ [queue1, full], let s := portState q sender
      receives s 0 2 ∧ settledQueue s q ∧ popsHeld s q = false ∧
      (match findQueue s 0 sender.egq (sender.egq.getLsbD 41) with
        | .ok x => x == q
        | .error _ => false) = true) ∧
    (match findQueue (portState queue1 sender) 0 5 false with
      | .ok _ => false
      | .error _ => true) = true ∧
    full.level 2 = aCart :: [] ∧ prioOf aCart.words < 8 ∧
    (∀ n ∈ [59, 60, 16383, 16384], homeTest (sending n 0) = true ∧ (sending n 0).mem.wf = true ∧ receives (sending n 0) 0 2) ∧
    (let s := ruledState 1
     hasKey (hwKey s 0 0 {} 0x2000 .store) 0x2000 = true ∧ hasKey (hwKey (paWrite s 0x2000 8 5) 0 0 {} 0x2008 .store) 0x2008 = true) := by
  simp only [receives, settledQueue]; and_intros <;> decide +kernel

/-- Copies of cores 0 to 4 about the master's value, at the edges of GTGUARD and of half of it. -/
def timeState : State :=
  let s := { (portState queue1 receiver) with gt := { value := 0x500000 } }
  let put (s : State) (e : Nat × DWord × Bool × Bool × Nat) : State :=
    s.setCore e.1 { s.core e.1 with gt := { value := e.2.1, first := e.2.2.1, sync := e.2.2.2.1, good := e.2.2.2.2 } }
  [(0, 0, true, false, 0), (1, 0x700000, false, true, 0), (2, 0x700001, false, true, 0), (3, 0x400000, false, false, 3), (4, 0x3FFFFF, false, false, 3)].foldl
    put s

theorem witness_GlobalTime :
    (guardOf timeState (guardPart timeState 1) = 0x200000 ∧ (timeState.core 1).gt.sync = true ∧ (timeState.core 3).gt.good = 3 ∧
      (timeState.core 0).gt.first = true) ∧
    (∀ b ∈ [0, 1], let s := { timeState with mem := (timeState.mem.writeNat 0x500000 1 b).writeNat 0x500014 4 b }
      homeTest s = true ∧ s.mem.wf = true ∧ tableAligned s 0 ∧ (s.part 0).running = true ∧ s.mem.readNat 0x500000 1 = b ∧
      s.mem.readNat 0x500014 4 = b ∧ s.mem.readNat 0x500018 4 = 0) := by
  simp only [tableAligned]; decide +kernel

theorem witness_Host :
    homeTest quiet = true ∧ quiet.mem.wf = true ∧ (∀ a ∈ [0, 2 ^ 39 - 2, 2 ^ 40], paExists a = true ∧ paExists (a + 1) = true) ∧
    paExists (2 ^ 39) = false ∧ (quiet.part 2).running = false ∧ ((portState queue1 receiver).part 0).running = true := by
  decide +kernel

/-! ### Results of the spec's worked examples -/

/-- The state after the instruction that the word decodes to. -/
def after (s : State) (w : Nat) : State :=
  match decodeTableWord 128 w with
  | some i => match exec i s with
    | .next t => t
    | _ => s
  | none => s
def sreg (s : State) (w n : Nat) : Nat := ((after s w).cur.regs.readS n).toNat
def vlane (s : State) (w n i : Nat) : Nat := (laneOf ((after s w).cur.regs.readV n).lanes i).toNat
def pairOf' (s : State) (w n : Nat) : Nat × Nat :=
  let m := (after s w).cur.regs.readM n
  ((laneOf m.mean 0).toNat, (laneOf m.var 0).toNat)

/-- 05 R124: the rows of the example, s4 and s5 to s3. -/
theorem test_division : ∀ e ∈ [(7, 0xFFFFFFFE, 0x50403_0090, 0xFFFFFFFD), (7, 0xFFFFFFFE, 0x50403_0094, 1), (0xFFFFFFF9, 2, 0x50403_0094, 0xFFFFFFFF),
    (0x80000000, 0xFFFFFFFF, 0x50403_0090, 0x80000000), (9, 0, 0x7000504030090, 0xFFFFFFFF), (9, 0, 0x7000504030094, 9)],
    sreg (withS quiet [0, 0, 0, 0, BitVec.ofNat 32 e.1, BitVec.ofNat 32 e.2.1]) e.2.2.1 3 = e.2.2.2 := by decide +kernel

/-- 05 R123, R129, R140: a shift by 33, the two short constants, a random word with the low key 0 and the high key 0x688990C1. -/
theorem test_scalar_values :
    sreg (withS quiet [0, 5]) (0x7000001010_0A9 + 33 * 2 ^ 64) 1 = 10 ∧ sreg quiet 0xFF000000000100E0 1 = 0xFFFFFFFF ∧ sreg quiet 0xC8070000000100E0 1 = 0xC8 ∧
    sreg (withS quiet [0, 1, 0, 0x688990C1]) 0x201030130 3 = 0x688990C0 := by decide +kernel

/-- A group of n lanes whose vector registers begin as given (tag, first lanes). -/
def lanesState (ll : Nat) (vs : List (Nat × List Nat)) : State :=
  let vecs : List VReg := vs.map fun x =>
    { tag := BitVec.ofNat 4 x.1, lanes := x.2.map (BitVec.ofNat 32) ++ List.replicate (96 - x.2.length) 0 }
  withCur quiet fun th => { th with ll := BitVec.ofNat 96 ll
                                    regs := { th.regs with v := vecs ++ th.regs.v.drop vecs.length, s := lset (lset (lset th.regs.s 60 (BitVec.ofNat 32 ll)) 61 0) 62 0 } }

/-- 06 R145: v1 tagged N8X4, and RAW under a type that expects I32. -/
theorem test_vadd :
    vlane (lanesState 1 [(0, []), (N8X4.toNat, [0xFF107F80])]) (0x5000001030141 + 5 * 2 ^ 64) 3 0 = 0x04158485 ∧
    vlane (lanesState 1 [(0, []), (0, [0xFF107F80])]) (0x1030141 + 5 * 2 ^ 64) 3 0 = 0xFF107F85 := by decide +kernel

/-- 06 R153: six launched lanes, four active. -/
theorem test_vperm :
    let s0 := lanesState 0x3F [(0, []), (0, [10, 11, 12, 13, 14, 15]), (0, [7, 4, 200, 0])]
    let s := withCur s0 fun th => { th with regs := { th.regs with s := lset th.regs.s 60 0xF } }
    (List.range 4).map (vlane s 0x2010701A4 7) = [0, 14, 0, 10] := by decide +kernel

/-- 06 R154 to R156: lanes 0, 2 and 3 active, holding 2^24, 1.0 and 1.0. -/
theorem test_vred_vscan :
    let s0 := lanesState 0xF [(0, []), (F32.toNat, [0x4B800000, 0, 0x3F800000, 0x3F800000])]
    let s := withCur s0 fun th => { th with regs := { th.regs with s := lset th.regs.s 60 0xD } }
    (sreg s 0xA0000010501AC 5, [0, 2, 3].map (vlane s 0xA0000010701B0 7)) = (0x4B800001, [0x4B800000, 0x4B800000, 0x4B800000]) := by decide +kernel

/-- 06 R158: values 5, 6, 5, 9 into bins from 5 on, and the bins merged. -/
theorem test_bins :
    let s := lanesState 0xF [(0, []), (0, []), (0, [5, 6, 5, 9])]
    let t := after s (0x5000002_0401B5 + 5 * 2 ^ 64)
    (List.range 4).map (vlane s (0x50000020401B5 + 5 * 2 ^ 64) 4) = [1, 0x100, 1, 0] ∧
    (List.range 4).map (vlane t (0x50000040601B9) 6) = [2, 1, 0, 0] := by decide +kernel

/-- 07 R171: two f32 registers packed into one of bf16 pairs. -/
theorem test_vcvt :
    let s := lanesState 1 [(0, []), (F32.toNat, [0x3F808001]), (F32.toNat, [0xC0300000])]
    vlane (after s 0x0009000001030250) 0x0109000002030250 3 0 = 0xC0303F81 := by decide +kernel

/-- 07: one block through scale, pack and expand. The last word names v4 in A as the statement does (the example prints v1 there). -/
def narrowState : State := lanesState 0xFFFFFFFF [(0, []), (F32.toNat, [0x40900000, 0xBF99999A, 0x3E99999A, 0x3F333333])]
theorem test_block :
    (sreg narrowState 0x0000000001060680 6, sreg narrowState 0x0000000001060680 7) = (0x0005FA00, 0x04000040) ∧
    vlane (after narrowState 0x0000000001060680) 0x0000000601040284 4 0 = 0x21B7 ∧
    (List.range 5).map (vlane (after (after narrowState 0x0000000001060680) 0x0000000601040284) 0x0000000604050288 5) =
      [0x40900000, 0xBF900000, 0x3EC00000, 0x3F400000, 0] := by decide +kernel

/-- 09: one lane through the rules, m1 = (2, 4), m2 = (3, 1). -/
def oneLane : State :=
  let s := lanesState 1 [(0, []), (F32.toNat, [0x40000000]), (F32.toNat, [0x40800000]), (F32.toNat, [0x40400000]), (F32.toNat, [0x3F800000])]
  after (after s 0x00000002010102C0) 0x00000004030202C0
theorem test_moments : ∀ e ∈ [(0x2010306CC, 3, 0x40A00000, 0x40A00000), (0x201030ACC, 3, 0x40A00000, 0x41100000), (0x201030ECC, 3, 0x40A00000, 0x3F800000),
    (0x201030AD0, 3, 0xBF800000, 0x3F800000), (0x2010406D4, 4, 0x40C00000, 0x42300000), (0x201040AD4, 4, 0x41000000, 0x42900000),
    (0x10502DD + 0xC0000000 * 2 ^ 64, 5, 0xC0800000, 0x41800000)], pairOf' oneLane e.1 e.2.1 = e.2.2 := by decide +kernel

/-- 04 R99: the first rows of the example, z3 = 0x0F and z6 = 0x05, eight lanes. -/
theorem test_mask_stack :
    let s0 := withCur (lanesState 0xFF []) fun th => { th with regs := { th.regs with s := lset (lset th.regs.s 3 0xF) 6 5 } }
    let e0 (s : State) : Nat := (s.cur.regs.readS 60).toNat
    let s1 := after s0 0x34
    let s2 := after s1 0x3000028
    let s3 := after s2 0x6000038
    let s4 := after s3 0x2C
    let s5 := after s4 0x30
    [s1, s2, s3, s4, s5, after s5 0x30].map e0 = [0xFF, 0x0F, 0x0A, 0xF0, 0xFA, 0xFA] ∧ (after s5 0x30).cur.regs.pc.toNat = 8 := by decide +kernel

/-- A word placed where the first step after reset fetches it runs: `sli s1, 5` on system core 0, `vlid v2` in a group. -/
def ran (nbits w : Nat) (id : ThreadId) (g : Thread → Nat) : Option Nat :=
  match step (placed nbits w) with
  | .next t => (t.thread? id).map g
  | _ => none
theorem test_step_sli : ran 64 0x05000000000100E0 (.sys 0) (fun th => (th.regs.readS 1).toNat + 100 * th.regs.pc.toNat) = some 805 := by decide +kernel
theorem test_step_vlid : ran 64 0x000000003F020194 (.grp 0 0 0) (fun th => (laneOf (th.regs.readV 2).lanes 95).toNat) = some 95 := by decide +kernel


/-! ### Clauses of the statements, one state each -/

/-- Two steps at one holder, and two at one barrier whose mesh cycle is not over. -/
def together (t : Nat) : State :=
  { quiet with t, agenda := [.holderTokenAsk 5 8 1 0, .barrierRetirement (.grp 0 0 1) 5, .barrierArrival (.grp 0 0 2) 5, .holderRecall 5 8] }

theorem witness_EventsTogether :
    nextEvent (together 5) = some (.holderRecall 5 8) ∧
    nextEvent { together 6 with agenda := (together 6).agenda.drop 1 } = some (.barrierArrival (.grp 0 0 2) 5) ∧
    nextEvent { together 5 with agenda := [.barrierArrival (.grp 0 0 2) 5] } = none ∧ heldEvent (together 5) (.barrierArrival (.grp 0 0 2) 5) = true := by
  decide +kernel

theorem witness_EveryTurnTakesACycle :
    (quiet.core quiet.cur.core).throttle = false ∧
    ((quiet.setCore 0 { quiet.core 0 with throttle := true }).core 0).throttle = true := by decide +kernel

theorem witness_Parking : ∀ n ∈ [none, some 7], let s := withCur (inChain quiet) fun th => { th with replay := n.map (BitVec.ofNat 96) }
    s.thread? (.grp 0 0 0) = some s.cur ∧ s.cur.trapSeq < 16 ∧ s.cur.chain ≠ none := by decide +kernel

/-- Pairs with no NaN, infinity or variance below zero: m1 = (1, 4), m2 = (-2, 1), m3 = (0, 0). -/
def pairState : State :=
  let m (a b : Word) : MReg := { tag := MOM, mean := List.replicate 96 a, var := List.replicate 96 b }
  withCur (momState 0) fun th => { th with regs := { th.regs with
    m := [{}, m 0x3F800000 0x40800000, m 0xC0000000 0x3F800000, m 0 0] ++ th.regs.m.drop 4 } }

theorem witness_MomentSteps : ∀ a ∈ [1, 2, 3], let f : Fields := { fM with a := BitVec.ofNat 8 a }
    (∀ fn ∈ [1, 2, 3], let g : Fields := { f with fn := BitVec.ofNat 4 fn, c := 3 }
      ∀ i ∈ [Instr.madd { g with c := 0 }, .msub { g with c := 0 }, .mmul { g with c := 0 }, .mfma g], ∃ h ∈ fieldsOf i, issues i h pairState = true) ∧
    (∀ i ∈ [Instr.mrelu { f with b := 0 }, .mexp { f with b := 0 }, .msig { f with b := 0 }, .mtanh { f with b := 0 }],
      ∃ h ∈ fieldsOf i, issues i h pairState = true) ∧
    nan32 (laneOf ((src pairState).readM a).mean 5) = false ∧ ¬ negative (laneOf ((src pairState).readM a).var 5) := by
  decide +kernel

/-! ### Memory forms -/

/-- The answer of `resolve` for a form. -/
def resolved (s : State) (form : Form) (f : Fields) : List LaneAcc :=
  match resolve s s.cur.opened (base f s) (needOfForm form.m) (f.ax.toNat % 8) form.m.scalar form.m.lanes with
  | .ok r => r.lanes
  | .error _ => []

/-- b5 is the register window; s8 to s11 hold offsets in the places of v, m and s registers. -/
def windowState : State :=
  let s := withS memState [0, 12, 5, 7, 0x80000000, 0xFFFFFFFF, 0, 3, 0x1000, 0x20000, 252, 0x1004]
  withCur s fun th => { th with bases := lset th.bases 5 { valid := true, kind := .regWindow, vbase := 0xFB00000000000000, limit := 2 ^ 56 } }
def fWin (d n : Nat) : Fields := { d := BitVec.ofNat 8 d, a := 5, b := BitVec.ofNat 8 n, ax := 2 }
def pendingOn (s : State) (r : PReg) : State := withCur s fun th => { th with pend := [{ reg := r, tag := 7 }] }

/-- `sld` and `sst` at s12, v0, m0 and s63; and an s register pending. -/
theorem witness_RegisterWindow :
    (∀ n ∈ [0, 6, 8, 9, 10], ∀ x ∈ [(9, 10), (10, 0)], let f := fWin x.2 n
      ∀ form ∈ ((memoryForms f windowState).drop x.1).take 1,
      issues form.i f windowState = true ∧ (base f windowState).kind = .regWindow ∧ form.m.width = 4 ∧
      (resolved windowState form f).map (·.key) = [((src windowState).readS n).toNat]) ∧
    (∀ form ∈ ((memoryForms (fWin 10 6) windowState).drop 9).take 1,
      windowTouched form.m (resolved windowState form (fWin 10 6)) = [.s 0] ∧
      issues form.i (fWin 10 6) (pendingOn windowState (.s 0)) = true) := by
  decide +kernel

/-- b1 covers the bytes 0xFFC0 to 0xFFFF of page 0 and, past its limit, page 1, which no table maps. -/
def pageEdge (tables : Bool) : State :=
  let s := withS (kernelState []) [0, 0, 0, 0, 0x100000]
  let b : BaseReg := { valid := true, kind := .global, vbase := 0xFFC0, limit := 64, leaf := placedLeaf }
  let s1 := mapped (withCur s fun th => { th with bases := lset th.bases 1 b })
  if tables then s1 else { s1 with mem := [] }
def fEdge : Fields := { d := 10, a := 1, fn := 1, ax := 2 }
/-- How far the lanes of a form go, and on what they stop. -/
def located (s : State) (form : Form) (f : Fields) : Nat × Option (Nat × NoLeaf) :=
  let r := locateAll s.cur.opened (base f s) (needOfForm form.m) (f.ax.toNat % 8) form.m.lanes s []
  (r.1.length, r.2.1)

/-- `vld` over the edge: 16 lanes lie in page 0, lane 16 raises PAGE; a page without WE refuses a store. -/
theorem witness_TranslationFaults :
    (∀ form ∈ (memoryForms fEdge (pageEdge false)).take 1,
      issues form.i fEdge (pageEdge false) = true ∧ located (pageEdge false) form fEdge = (16, some (0x10000, .fault PAGE 0)) ∧
      passes (preCheck (pageEdge false) (pageEdge false).cur.opened (base fEdge (pageEdge false)) (needOfForm form.m) form.m.lanes) = true ∧
      (Sys2Proof.Machine.detKernel (pageEdge false) (pageEdge false).cur.opened).isNone = true) ∧
    (let s := withCur (pageEdge true) fun th => { th with bases := lset th.bases 1 { base fEdge (pageEdge true) with leaf := { placedLeaf with we := false } } }
     ∀ form ∈ ((memoryForms { d := 0, a := 1, b := 0, ax := 2 } s).drop 10).take 1, form.m.lanes = [(0, 0)] ∧
      (base fEdge s).leaf.allows form.m.perm = false ∧ passes (check form.i { d := 0, a := 1, b := 0, ax := 2 } s s.cur) = true) := by
  decide +kernel

/-- Kernel 0 is in a block, every line of page 0 shared; its group has staged `es` and reserves address 0x100. -/
def stagingState (es : List Staged) : State :=
  let b : BaseReg := { valid := true, kind := .global, vbase := 0x100, limit := 0xFFFF, leaf := placedLeaf }
  let k : Kernel := { detKernel with desc := { detKernel.desc with ownlo := 0, ownlog := 20, ownt := 0x4000 }, staged := es }
  let s := mapped (withCur (withS (blockState k (some 0) 0) [0, 0, 0, 0, 4, 9]) fun th =>
    { th with bases := lset th.bases 1 b, resv := some { line := some 2, kind := .global, ea := 0x100, width := 4 } })
  { s with mem := s.mem.writeNat 0x4000 8 0xFFFFFFFFFFFFFFFF }
def fStage (b : Nat) : Fields := { a := 1, b := BitVec.ofNat 8 b, c := 4, ax := 2 }

/-- `sst` and `scnd` with room, and with 256 entries; `scnd` at the reserved address and at another. -/
theorem witness_Staging : ∀ es ∈ [[], List.replicate 256 aStaged], ∀ x ∈ [(10, 0), (16, 0), (16, 4)], let s := stagingState es
    let f := fStage x.2
    ∀ form ∈ ((memoryForms f s).drop x.1).take 1, issues form.i f s = true ∧ form.m.kind.writes = true ∧ (base f s).kind = .global ∧
      (match Sys2Proof.Machine.detKernel s s.cur.opened with
        | some k => (resolved s form f).map (fun l => (l.ea.toNat, isShared s 0 0 k l.ea.toNat, (ownerWait s 0 0 k l.ea.toNat).isNone)) ==
            [(0x100 + x.2, true, true)] && (stagedOf k 0).length == es.length
        | none => false) = true := by
  decide +kernel

/-- An empty mask under an invalid base, and under one in no region. -/
theorem witness_MemoryChecks_noLane : let s := withCur memState fun th => { th with regs := { th.regs with s := lset (lset (lset th.regs.s 60 0) 61 0) 62 0 } }
    ∀ a ∈ [1, 2, 3], let f : Fields := { d := 10, a := BitVec.ofNat 8 a, b := 63, fn := 1, ax := 2 }
      ∀ form ∈ ((memoryForms f s).drop 1).take 1, form.m.lanes = [] ∧ issues form.i f s = true := by
  decide +kernel

/-! ### Lines -/

/-- Core 5 owns line 8, whose times are 9; NW is past every stamp to come; the group is on core 5 and reserves the line. -/
def recallState : State :=
  let s := withCopy (lineState { entry8 0 [5] with rts := 9, wts := 9 }) 5 (copy8 512 true)
  let s1 := withCur s fun th => { th with core := 5, resv := some { line := some 8, kind := .global, ea := 0, width := 4 } }
  s1.setHome (homeOf s1 8) { s1.home (homeOf s1 8) with nw := 10 }

theorem witness_Recall :
    (recallState.home (homeOf recallState 8)).hasEntry 8 = true ∧ recallState.msgs = [] ∧ (entryOf recallState 8).targets = [5] ∧
    (entryOf recallState 8).persistent = none ∧ copy? recallState 5 8 = some (copy8 512 true) ∧
    (let h := recallState.home (homeOf recallState 8)
     let w := stampOf recallState 8 (recallState.core 5).lclk
     maxT h.nw w = h.nw ∧ before w h.floor = false ∧ maxT h.nw (entryOf recallState 8).wts = h.nw) ∧
    recallState.cur.resv.map (·.line) = some (some 8) := by
  and_intros <;> decide +kernel

/-- A message of core 100, on die 1, whose boundaries are not ready. -/
def farMessage : State := { lineState (entry8 100 [100]) with msgs := [{ tokenMsg with core := 100 }], links := [] }

/-- Two persistent requests wait for line 8, that of core 7 active. -/
theorem witness_LineTokens_waiting :
    (let s0 := persistentState (some 7)
     let s := s0.setHome (homeOf s0 8) { s0.home (homeOf s0 8) with persistents := [(7, 8, 1), (9, 8, 3)] }
     (s.home (homeOf s 8)).hasEntry 8 = true ∧ (entryOf s 8).persistent = some 7 ∧
      (s.home (homeOf s 8)).persistents.filter (fun x => x.2.1 == 8) = [(7, 8, 1), (9, 8, 3)]) ∧
    (farMessage.msgs.find? (fun x => x.id == 9) = some { tokenMsg with core := 100 } ∧
      pathReady farMessage (dieOfCore 100) (homeDie farMessage 8) = false) ∧
    (oneLoad (ldReq 4) 1 8 4 (acc1 .load 4 true) (lane1 4) ∧ serviceOf (ldReq 4) 8 = none ∧ heldBack (ldReq 4) 8 0 = false ∧
      copy? (ldReq 4) 0 8 = none ∧ (entryOf (ldReq 4) 8).tokens = 512) := by
  simp only [oneLoad, unhindered]; and_intros <;> decide +kernel

/-- NW of the home of line 8 past every stamp to come. -/
def nwPast (s : State) : State := s.setHome (homeOf s 8) { s.home (homeOf s 8) with nw := 100 }
/-- A clean owner, and an acquiring load under scope `.dev` with a lease copy of another line at hand. -/
def cleanOwner : State := synced (withAcc (withCopy (lineState { entry8 0 [5] with rts := 7, wts := 3 }) 5 (copy8 512 false)) (acc1 .load 3 true))
def acquiring : Access := { acc1 .load 2 true with order := 1, scope := 3 }
def acquireState : State := withCopy (withAcc (lineState { entry8 512 [] with rts := 50, wts := 40 }) acquiring) 0 { copy8 0 false with line := 9 }

theorem witness_LoadsAtHome_owners :
    (let s := nwPast (synced (ownedLoad 3))
     let w := stampOf s 8 (s.core 5).lclk
     oneLoad s 1 8 3 (acc1 .load 3 true) (lane1 3) ∧ copy? s 5 8 = some (copy8 512 true) ∧ s.mem.wf = true ∧
      maxT (s.home (homeOf s 8)).nw w = (s.home (homeOf s 8)).nw ∧ before w (s.home (homeOf s 8)).floor = false) ∧
    (oneLoad cleanOwner 1 8 3 (acc1 .load 3 true) (lane1 3) ∧ copy? cleanOwner 5 8 = some (copy8 512 false)) ∧
    (laneIn acquireState 1 8 = some (acquiring, lane1 2) ∧ acquires acquiring.order = true ∧ effectivePol acquireState acquiring (lane1 2) = 2 ∧
      unhindered acquireState 0 8 ∧ serviceOf acquireState 8 = none ∧ ownerOf acquireState 8 = none ∧ acquiring.scope ≠ 0 ∧
      (acquireState.core 0).copies ≠ []) := by
  simp only [oneLoad, unhindered]; and_intros <;> decide +kernel

theorem witness_StoresAtHome_owners :
    (let s := nwPast (sharedStore 2)
     oneStore s 1 2 (acc1 .store 2 false) (lane1 2) ∧ maxT (s.home (homeOf s 8)).nw (entryOf s 8).wts = (s.home (homeOf s 8)).nw ∧
      (entryOf s 8).targets = [5]) ∧
    (let s := ownedStore 4
     oneStore s 1 4 (acc1 .store 4 false) (lane1 4) ∧ (entryOf s 8).targets = [5] ∧ (entryOf s 8).tokens = 0 ∧
      (entryOf s 8).persistent = none ∧ copy? s 5 8 = some (copy8 512 true) ∧ copy? s 0 8 = none ∧ serviceOf s 8 = none) ∧
    (∀ pol ∈ [2, 3], copy? (ownedStore pol) 5 8 = some (copy8 512 true)) ∧
    oneStore (ownedStore 3) 1 3 (acc1 .store 3 false) (lane1 3) := by
  simp only [oneStore, unhindered, noneDown]; and_intros <;> decide +kernel

/-- An access of the placed group, not started, to offset 0x108 of a private window. -/
def privLane : LaneAcc := { lane := 3, ea := 0x104, key := 0x108, pol := 2, data := 0x01020304, expect := 9 }
def privAcc (sp : BaseKind) (kind : AccKind) (w : Nat) : Access :=
  { id := 1, th := .grp 0 0 0, core := 0, space := sp, kind, width := w, ty := if w = 8 then 4 else 3, countLc := true, lanes := [privLane] }
def privState (a : Access) (r : Option Resv) : State :=
  withCur (withAcc (lineState (entry8 512 [])) a) fun th => { th with scr := th.scr.writeNat 0x108 8 0x100000009, slice := th.slice.writeNat 0x108 8 9, resv := r }
/-- One of each kind, of the width that it has. -/
def kinds : List (AccKind × Nat) :=
  [(.load, 4), (.store, 8), (.atomic 0, 4), (.atomic 7, 8), (.reduce 5, 4), (.futFill, 8), (.futLoad, 8), (.reserve, 4), (.cond, 4)]

theorem witness_PrivateAccesses : ∀ sp ∈ [BaseKind.scratch, .slice], ∀ k ∈ kinds, let a := privAcc sp k.1 k.2
    ∀ r ∈ [none, some ({ line := none, kind := sp, ea := 0x104, width := 4 } : Resv)], let s := privState a r
      startsAlone s a privLane ∧ s.thread? a.th = some s.cur ∧ (k.1 = .cond → (s.cur.resv.isSome = true ↔ reserved s.cur a privLane)) := by
  simp only [startsAlone, reserved, kinds, List.mem_cons, List.not_mem_nil, or_false, forall_eq_or_imp, forall_eq]
  and_intros <;> first | decide +kernel | (intro h; first | cases h | simp [privState, privAcc, privLane, withCur, withAcc, lineState, upLinks, quiet])

/-- The same of a line whose copy with all tokens core 0 holds, and of one of which it holds no token: a lease copy or none. -/
def lineAcc (kind : AccKind) (pol w : Nat) : Access := { privAcc .global kind w with lanes := [{ lane1 pol with expect := 0x07070707 }] }
def onLine (pol : Nat) : LaneAcc := { lane1 pol with expect := 0x07070707 }
def ownState (a : Access) (r : Option Resv) : State :=
  withCur (withCopy (withAcc (lineState (entry8 0 [0])) a) 0 (copy8 512 false)) fun th => { th with resv := r }
def farState (a : Access) (r : Option Resv) (lease : Bool) : State :=
  let s := synced (withAcc (lineState (entry8 512 [])) a)
  withCur (if lease then withCopy s 0 (copy8 0 false) else s) fun th => { th with resv := r }
def resvLine : Resv := { line := some 8, kind := .global, ea := 0, width := 4 }

theorem witness_OwnedAccesses : ∀ k ∈ [(AccKind.load, 4), (.store, 4), (.atomic 0, 4), (.atomic 7, 4), (.reserve, 4), (.cond, 4)],
    let a := lineAcc k.1 1 k.2
    ∀ r ∈ [none, some resvLine], let s := ownState a r
      startsAlone s a (onLine 1) ∧ s.thread? a.th = some s.cur ∧ noneDown s ∧ lineReachable s 0 1028 = true ∧ effectivePol s a (onLine 1) = 1 ∧
      copy? s 0 8 = some (copy8 512 false) := by
  simp only [startsAlone, noneDown]; decide +kernel

theorem witness_RequestsToHome : ∀ pol ∈ [1, 2, 3, 4], ∀ k ∈ kinds, ∀ lease ∈ [true, false], let a := lineAcc k.1 pol k.2
    let s := farState a (some resvLine) lease
    startsAlone s a (onLine pol) ∧ s.thread? a.th = some s.cur ∧ lineReachable s 0 1028 = true ∧
    (copy? s 0 8).all (fun y => y.tokens == 0) = true ∧ (k.1 = .load ∨ k.1 = .store → effectivePol s a (onLine pol) = pol) := by
  simp only [startsAlone]; decide +kernel

/-- Loads of every kind of destination, done: lane 2 with a value, lane 3 or lane 4 refused or with another. -/
def doneLane (i v : Nat) (refused : Bool) : LaneAcc := { lane := i, ea := 0, key := 1028 + 8 * i, pol := 2, done := true, value := v, refused }
def doneLoad (dest : Dest) (ty : Nat) (ls : List LaneAcc) : Access := { acc1 .load 2 true with dest, ty, lanes := ls, cover := 0xFF }

theorem witness_Completions_destinations :
    (∀ a ∈ [doneLoad (.m 3 true) 10 [doneLane 2 0x800000003F800000 false, doneLane 4 0x7F800001FF800001 false],
        doneLoad (.m 3 false) 9 [doneLane 2 0x80003F80 false], doneLoad (.x 5) 4 [doneLane 0 0x123456789ABCDEF0 false],
        doneLoad (.future 9 12) 0 [doneLane 2 77 false, doneLane 3 0 true], doneLoad (.future 250 12) 3 [doneLane 2 77 false],
        doneLoad (.sFuture 9) 3 [doneLane 0 77 false], doneLoad (.sFuture 9) 3 [doneLane 0 77 true], doneLoad (.sFuture 248) 3 [doneLane 0 77 false]],
      (doneState a).acc? 1 = some a ∧ a.countLc = true ∧ a.countSc = false ∧ (doneState a).thread? (.grp 0 0 0) = some (doneState a).cur) := by
  decide +kernel

theorem witness_Futures_refused : let s := withCur (futReq 5 0) fun th => { th with preempt := true }
    s.acc? 1 = some futAcc ∧ refusesFutures s (.grp 0 0 0) = true ∧ futFull (readHome s 1024 8) = false ∧ (s.home (homeOf s 8)).deferred = [] := by
  decide +kernel
/-! ### More witnesses of the statements -/

def fNone : Fields := { fBase with nd := true, d := 0 }
def fNoneInv : Fields := { fInv with nd := true, d := 0 }

/-- The group on a core of die 3, from which the tables at home on die 0 lie behind boundaries that are not UP. -/
def farTables : State := withCur (atAddress 0 0x1000) fun th => { th with core := 300 }

/-- `bset`, `binv` and `bset.clu` with ND = 1 are legal (R74), and field D is then 0. -/
theorem witness_BaseRegisters_nd :
    (∀ s ∈ [mapped (atAddress 0 0x1000), atAddress 0xFE000000 0], issues (.bset fNone) fNone s = true ∧ issues (.binv fNoneInv) fNoneInv s = true) ∧
    (let f : Fields := { fScope 1 with nd := true, d := 0 }
     issues (.bsetClu f) f liveHandle = true) ∧
    (issues (.bset fBase) fBase farTables = true ∧ ((lookupFor farTables farTables.cur.opened 0x1000).1 matches .error (.link _)) = true) := by
  and_intros <;> decide +kernel

/-- A fence behind a staged entry of its group, and behind none. -/
def fencing (staged : List Staged) : State := kernelState [(0, { staged })]

theorem witness_Fences_staged :
    (let s := fencing [{ aStaged with gid := 3 }]
     issues (.fence (fFence 1 3)) (fFence 1 3) s = true ∧ s.accs = [] ∧ s.kernel? 0 0 = some { staged := [{ aStaged with gid := 3 }] }) ∧
    regroupHeld (fencing []) 0 3 .global = false := by
  and_intros <;> decide +kernel

/-- `tst` under `.bf16` of tile 0, or of tiles 0 and 1, in each rounding mode. -/
def storeTile (pair : Bool) (mo : Nat) : EngOpRec :=
  { engOp .tst with
    serial := 4, th := .grp 0 0 0, running := true, src := { base := { valid := true, kind := .scratch, vbase := 0xFE00000000000000, limit := 65536 } }
    stride0 := if pair then 256 else 128, ty := 9, pair, tile := 0, mo, seed := 12345, seedVar := 99 }
def storing (o : EngOpRec) : State :=
  withCur (engineState.setCore 0 { engineState.core 0 with matrixQ := [o] }) fun th =>
    { th with tiles := [(0, { tag := ACC, elems := List.replicate 4095 0 ++ [0x3F812345] }), (1, { tag := ACC, elems := List.replicate 4095 0 ++ [0x80000001] })] }

theorem witness_EngineResults_store : ∀ pair ∈ [true, false], ∀ mo ∈ [0, 1, 2, 3, 4], let s := storing (storeTile pair mo)
    (((s.core 0).engQ .matrix).find? (fun x => x.running)).map (·.serial) = some 4 ∧ s.cur.scr.wf = true ∧
    (s.thread? (.grp 0 0 0)).isSome = true := by
  decide +kernel

/-- `qjoin` at 63 accesses, and under scope `.clu` beside a regroup event. -/
def fJoinClu : Fields := { fJoin with ax := 16 }

theorem witness_QueueOthers_join :
    (let s := withCur (joinState 1 queue1) fun th => { th with sc := 63 }
     issues (.qjoin fJoin) fJoin s = true ∧ 63 ≤ s.cur.sc) ∧
    (let s := withAcc (joinState 1 queue1) (acc1 .store 2 false)
     issues (.qjoin fJoin) fJoin s = true ∧ s.cur.sc < 63 ∧ quietThread s s.cur.id = false) ∧
    (let s := regrouping (joinState 1 queue1)
     issues (.qjoin fJoinClu) fJoinClu s = true ∧ quietThread s s.cur.id = true ∧ regroupHeld s s.cur.core 2 .global = true) := by
  and_intros <;> decide +kernel

/-- What the launch unit reads, and a record at DONE, wait for a page on the move. -/
def movedLaunch : State := movingTables (launching (aLaunch 0x2000 .kldb))
def movedRecord : State := movingTables recordState
def movedDeparture (k : Kernel) : State := movingTables (endState k .forming)
def recordedDeparture : Kernel := { waitingKernel true with desc := { done := 0x10000 } }

theorem witness_Launching_waits :
    (let s := movingTables launchState
     issues (.klaunch (fLaunch 2)) (fLaunch 2) s = true ∧ quietThread s s.cur.id = true ∧ (launchWait s 0 0 0x2000).isSome = true) ∧
    (launchWait launchState 0 0 0x2000).isNone = true ∧
    (match launch (takenFrom movedLaunch) 0 (aLaunch 0x2000 .kldb) with
      | .error c => c == WAITS
      | .ok _ => false) = true ∧
    (allRetired movedRecord 0 0 = true ∧ recordWaits movedRecord 0 recorded = true ∧ movedRecord.kernel? 0 0 = some recorded) ∧
    (recordWaits (movedDeparture recordedDeparture) 0 recordedDeparture = true ∧ ((movedDeparture recordedDeparture).core 0).gt.sync = false) := by
  and_intros <;> decide +kernel

/-- The entry's page lies behind a coupling that is not UP. -/
def peerTicket : State :=
  let s := (ticketState aStaged).setPart 0 { (ticketState aStaged).part 0 with cpl := 1 }
  { s with mem := s.mem.writeNat 0x1000 8 (3 + 2 ^ 53 * 7 + 2 * 2 ^ 56 + 2 * 2 ^ 60), links := [] }

/-- The oldest entry is held back by a fence of its group, and by its link. -/
theorem witness_Tickets_waits :
    (let s := { ticketState aStaged with accs := [{ acc1 .fence 2 false with lanes := [], order := 2 }] }
     (walk s 0 0 0x10004 matches .ok _) = true ∧ ∃ x ∈ s.accs, x.th = .grp 0 0 0 ∧ x.id < aStaged.serial ∧ x.kind = .fence) ∧
    (let s := peerTicket
     (walk s 0 0 0x10004 matches .ok _) = true ∧ (match walk s 0 0 0x10004 with
      | .ok l => l.state == 0 && l.we && !hwReady s (l.key 0x10004) && !protectedByte s (l.key 0x10004)
      | .error _ => false) = true) := by
  and_intros <;> first | decide +kernel | exact ⟨_, List.mem_singleton.mpr rfl, by decide +kernel⟩

/-- A base register whose FRAME lies in page 0, through another address. -/
def throughFrame : State :=
  let s := translated .ready
  { s with others := s.others.map fun th => { th with
      bases := lset th.bases 2 { valid := true, vbase := 0x5000000, leaf := { placedLeaf with page := 0x5000000 }, limit := 77 } } }

theorem witness_Translations_frame :
    issues (.tlbiVa (fTlb 0 2 4)) (fTlb 0 2 4) throughFrame = true ∧
    (∀ th ∈ throughFrame.others, (removedLeaves throughFrame 0 (fun id => id == 0) fun l => l.page == 0).all (fun e =>
      (th.bases.getD 2 {}).frameIn e) = true) ∧
    removedLeaves throughFrame 0 (fun id => id == 0) (fun l => l.page == 0) ≠ [] := by
  and_intros <;> decide +kernel

/-- The placed group with two pages of the pool, being pre-empted for a `ctxs`. -/
def savingGroup (n : Nat) : Thread := { placedGroup with nTiles := n, preempt := true }
def saving : State :=
  let s := sysState .supervisor [0, 0, 0, 0, 0, 1] (savingGroup 0)
  { s with cur := { s.cur with run := .waiting (.ctxs (.grp 0 0 0) (some 6)) } }.setKernel 0 0 { pool := [(3, 1), (2, 1)] }
/-- A SAVED group with its save area, and where it is gone or RETIRED. -/
def restoring : State := (sysState .supervisor [0, 0, 0, 0, 0, 1] { placedGroup with run := .saved, left := .ready }).setKernel 0 0 { pool := [(3, 1), (2, 1)] }
def awaitingGroup (s : State) : State := { s with cur := { s.cur with run := .waiting (.ctxs (.grp 0 0 0) (some 6)) } }

theorem witness_SaveAndRestore_area :
    (saveBase saving (.grp 0 0 0) = some (3 * 65536) ∧ saving.thread? (.grp 0 0 0) = some (savingGroup 0) ∧
      quietThread saving (.grp 0 0 0) = true ∧ engOpsOf saving (savingGroup 0) = [] ∧ (savingGroup 0).moveTo = none ∧
      sized (savingGroup 0) ∧ saving.mem.wf = true ∧ saving.homes = []) ∧
    (saveBase restoring (.grp 0 0 0) = some (3 * 65536) ∧ restoring.homes = [] ∧ issues (.ctxr fRestore) fRestore restoring = true ∧
      restoring.kernel? 0 0 = some { pool := [(3, 1), (2, 1)] } ∧ (restoring.part 0).newRole = none ∧
      restoreFits restoring 0 { pool := [(3, 1), (2, 1)] } { placedGroup with run := .saved, left := .ready } 1 = true) ∧
    ((awaitingGroup (sysState .supervisor [] popper)).thread? (.grp 0 0 0) = none ∧ (awaitingGroup (savedState .retired .ready)).cur.carts = []) := by
  simp only [sized]; and_intros <;> decide +kernel
/-! ### More witnesses: partitions, sensors, links, ports and host -/

/-- Seventeen contexts are one too many. -/
theorem witness_PartitionCommands_contexts :
    badPart (bytesAt (descState 17) 0x4000 1024) (partOfDesc (bytesAt (descState 17) 0x4000 1024)) = true := by
  decide +kernel

/-- What the sensors hold, with a part of dies 0 and 1 for the partitions, and one diode at 115 °C. -/
def aReading : Reading := { partEnergy := 11, packageEnergy := 12, packagePower := 13, coreTemp := [-5, 700], dieEnergy := [100, 7] }
def hotReading : Reading := { aReading with dieTemp := [0, 0, 1840] }
def sharedDies : State := ((kernelState []).setPart 5 { running := true, cores := 4 + 2 ^ 96 }).setPart 6 { cores := 8 }

theorem witness_Sensors_energy :
    (¬ ∃ v ∈ aReading.coreTemp ++ aReading.dieTemp ++ aReading.stackTemp, 1840 ≤ v) ∧
    (∃ v ∈ hotReading.coreTemp ++ hotReading.dieTemp ++ hotReading.stackTemp, 1840 ≤ v) ∧
    homeTest sharedDies = true ∧ sharedDies.mem.wf = true ∧ (sharedDies.part 0).running = true ∧ (sharedDies.part 6).running = false := by
  and_intros <;> decide +kernel

/-- Two of the three running cores of die 0 draw two thirds of its part, and the other one third. -/
theorem test_energy_share : [(0, 0), (5, 0), (5, 1)].map (fun e => energyShare sharedDies e.1 e.2 (aReading.dieEnergy.getD e.2 0)) = [66, 33, 7] := by
  decide +kernel

/-- Flits held but not yet carried, a NAK outstanding since cycle 7. -/
def heldLink : Link := { st := .up, expect := 8, nextSeq := 10, buf := [(8, 2), (9, 3)], resend := [(8, 2), (9, 3)], nakOut := true, nakAt := 7 }
def heldState (l : LinkId) (t : Nat) : State := { quiet.setLink l heldLink with t }

theorem witness_Flits_sender : ∀ l ∈ [edge, pairOf],
    (∀ t ∈ [2506, 2507], ((heldState l t).link l).nakOut = true ∧ decide ((heldState l t).t < ((heldState l t).link l).nakAt + 2500) = decide (t = 2506)) ∧
    ((heldState l 0).link l).resend = (((heldState l 0).link l).expect, 2) :: [(9, 3)] ∧
    ((heldState l 0).link l).buf = (((heldState l 0).link l).expect, 2) :: [(9, 3)] ∧ ((heldState l 0).link l).buf.length < 128 := by
  decide +kernel

theorem witness_LinkStates_times : ∀ t ∈ [25000, 25001, 2499999, 2500000, 2500001],
    decide (((heldState edge t).link edge).since + 25000 < (heldState edge t).t) = decide (t ≠ 25000) ∧
    decide ((heldState edge t).t < ((heldState edge t).link edge).since + 2500000) = decide (t < 2500000) := by
  decide +kernel

/-- A frame that the receive buffer holds. -/
def bigFrame : RxFrame := { bytes := List.replicate 16000 0, badFcs := false, stamp := 0, num := 0, rule := readRule quiet 0 0 0 }
def buffered (n : Nat) : Port := { receiver with rx := List.replicate n bigFrame, ctl := 5 }

theorem witness_PortHalves_buffer :
    (∀ n ∈ [8, 9, 24, 25, 32, 33], (buffered n).rxLevel = 16000 * n) ∧ receives (portState queue1 (buffered 33)) 0 2 ∧
    512 * 1024 < (buffered 33).rxLevel + aFrame.length ∧ (buffered 24).rxLevel + aFrame.length ≤ 384 * 1024 := by
  simp only [receives]; and_intros <;> decide +kernel

/-- The rule's page is on the move, so that the frame waits. -/
theorem witness_PortHalves_waits :
    let s := movingTables (ruledState 1)
    (match ruleFor s 0 2 aFrame with
      | some (_, r) => (match hwWriteList s 0 0 {} r.pool 1 (aFrame.map (·.toNat)) with
        | .error c => c == WAITS
        | .ok _ => false)
      | none => false) = true := by
  decide +kernel

/-- Level 0 is full, and only the level of the rule's PRIO is. -/
theorem test_frame_level_zero : ∀ e ∈ [([[aCart], [], [], []], 1), ([[], [aCart], [], []], 0)],
    let q := { queue1 with cap := 0, levels := e.1 }
    (match execIngressFrame 2 aFrame false ((ruledState 1).setQueue q) with
      | .next t => (t.queue? q.id).map (·.drops)
      | _ => none) = some e.2 := by
  decide +kernel

/-- A cart of 60 bytes at 0x3010, mapped by the tables of `kernelState`. -/
def fetchState : State :=
  { sending 60 0 with mem := (((sending 60 0).mem.writeNat 0 8 0x1001).writeNat 0x1000 8 (3 + 2 * 2 ^ 60 + 7 * 2 ^ 53)) }.setPort 2
    { sender with tx := some [1, 0x3010, 0, 60, 0, 0, 1, 0] }

theorem witness_Egress_fetch :
    receives fetchState 0 2 ∧ (fetchState.port 2).txData = none ∧
    (∀ i ∈ List.range 60, (match hwRead fetchState 0 0 {} (0x3010 + i) 1 with
      | .ok x => x == 0
      | .error _ => false) = true) ∧ (egressFetch fetchState 2).isSome = true := by
  simp only [receives]; and_intros <;> decide +kernel

/-- A load and a store of the host, on a line at home on die 0, and one behind a boundary that is not UP. -/
def hostState (r : HostReq) : State := { quiet with hostReqs := [r] }
theorem witness_Host_requests :
    (∀ r ∈ [{ addr := 0x105, count := 2, write := some [1, 2] }, ({ addr := 0x105, count := 2, write := none } : HostReq)],
      lineReachable (hostState r) 0 r.addr = true ∧ r.addr % 128 + r.count ≤ 128) ∧
    lineReachable (hostState { addr := 2 ^ 37, count := 1, write := none }) 0 (2 ^ 37) = false := by
  and_intros <;> decide +kernel

/-- FIPS 180-4: the digest of the three bytes "abc". -/
theorem test_sha256 : sha256 [0x61, 0x62, 0x63] =
    [0xBA, 0x78, 0x16, 0xBF, 0x8F, 0x01, 0xCF, 0xEA, 0x41, 0x41, 0x40, 0xDE, 0x5D, 0xAE, 0x22, 0x23,
     0xB0, 0x03, 0x61, 0xA3, 0x96, 0x17, 0x7A, 0x9C, 0xB4, 0x10, 0xFF, 0x61, 0xF2, 0x00, 0x15, 0xAD] := by
  decide +kernel
end Sys2Proof.Tests
end

namespace Sys2Proof.Machine

/-! ### One step keeps the canonical form (00_scope R4)

A step runs an event of the agenda, a hardware step that is due, or the turn of the current thread; each of the three keeps
memory canonical by the laws of `Laws/Canon.lean`. -/

theorem afterTurn_memWf {o : Host.Outcome State Fault Refusal} (ho : ∀ σ, o = .next σ → σ.mem.wf = true) :
    ∀ τ, afterTurn o = .next τ → τ.mem.wf = true := by
  rintro τ h
  cases o with
  | next σ => cases h; exact pass_memWf σ (ho σ rfl)
  | fault r => cases h
  | refused r => cases h

theorem turn_memWf (s : State) (hs : s.mem.wf = true) : ∀ τ, turn s = .next τ → τ.mem.wf = true := by
  intro τ h
  have hplan := plan_keeps s hs
  unfold turn at h
  split at h
  next σ hact =>
    rw [hact] at hplan
    cases h
    exact pass_memWf σ hplan
  next i σ hrun =>
    rw [hrun] at hplan
    exact afterTurn_memWf (exec_memWf i σ hplan) τ h

theorem step_memWf (s : State) (hs : s.mem.wf = true) : ∀ τ, step s = .next τ → τ.mem.wf = true := by
  intro τ h
  unfold step at h
  split at h
  next i _ => exact exec_memWf i { s with agenda := s.agenda.erase i } hs τ h
  next =>
    split at h
    next hdue => cases h; exact dueStep_memWf s hs _ hdue
    next => exact turn_memWf s hs τ h

/-! ### The memories at reset (22_context R432) -/

theorem threadMemWf_sysThread (k : Nat) : threadMemWf (sysThread k) = true := rfl

/-- The threads of reset are the sixteen system cores' own, in order. -/
theorem threads_reset : State.reset.threads = (List.range 16).map sysThread := rfl

end Sys2Proof.Machine

namespace Sys2Proof.Spec

open Sys2Proof.Machine

/-- Settles O5: each of the three things that a step can run keeps the canonical form. -/
theorem memoryStaysCanonical : Obligations.MemoryStaysCanonical := by
  unfold Obligations.MemoryStaysCanonical
  intro s t hs hstep
  exact step_memWf s hs t hstep

/-- Settles O6: memory lists no byte at reset, and every thread is a system core's with both memories empty. -/
theorem resetMemoryCanonical : Obligations.ResetMemoryCanonical := by
  unfold Obligations.ResetMemoryCanonical
  refine ⟨rfl, fun th hth => ?_⟩
  rw [threads_reset, List.mem_map] at hth
  obtain ⟨k, _, rfl⟩ := hth
  exact threadMemWf_sysThread k

end Sys2Proof.Spec
